-- ==== Sys2Proof/Word.lean ====
section
/-!
DEFINITION. The word types of the RB48: every register is 32 bits wide and bit 0 is the least significant bit (R4);
bytes are 8 bits. Nothing else stands here: the bit-field helpers are in Machine/Bits.lean.
-/
namespace Sys2Proof

/-- A register of the RB48 (R4). -/
abbrev Word := BitVec 32

/-- One byte. -/
abbrev Byte := BitVec 8

/-- A BAR0 byte offset: BAR0 is 64 MiB (R387, R545). -/
abbrev Addr := BitVec 26

end Sys2Proof
end

