-- ==== Sys2Proof/Config.lean ====
section
/-!
DEFINITION. What an implementation fixes and the free values: constants without a body, so that nothing can be proved
of the values the spec leaves open. Each names its log entry.
-/
namespace Sys2Proof.Config

/-- A fresh free value of 64 bits for each count of `State.free` (log entry 3): wherever the spec leaves a value open. -/
opaque freeValue : Nat → BitVec 64

/-- The ordering code is RB48-F (R2, Table 0-1): GLB_ID.fips and the locked approved mode, from one-time-programmable
storage (log entry 4). -/
opaque isFips : Bool

/-- ST_STAT.wear, "Per device" (Table 21-2, log entry 4). -/
opaque storeWear : BitVec 16

/-- The package identity of R441, the first 8 bytes of SHA-384 of the identity key (log entry 5). -/
opaque identity : BitVec 64

/-- The tap settings of the transmitter presets, and the least and greatest setting of each coefficient, in steps from where
training begins (IEEE 802.3 for 200 Gbit/s lanes, R49; log entry 98). -/
opaque tapPreset : Nat → Nat → Int
opaque tapLimit : Nat → Int × Int

/-- Cosine and sine of 2πx, π, square root and natural logarithm as the modems evaluate them (log entry 99). -/
opaque turn : Rat → Rat × Rat
opaque pi : Rat
opaque sqrt : Rat → Rat
opaque ln : Rat → Rat
opaque exp : Rat → Rat
/-- The angle of a point of the plane in turns, from −1/2 to 1/2 (log entry 99). -/
opaque arg : Rat × Rat → Rat

/-- What the spec leaves to the modems: the residual dispersion read off the equaliser's taps (R273, Table 10-5), the error that
the symbol timing loop takes from the equalised samples (R270), the correction of the polarisation tracker from the samples of
a word (R277), the gains of a loop of a bandwidth in MHz, those of the loop on the pilot phases (R278), how far a pulse and an
interpolation reach to each side (R197), and the samples of a datapath word (log entry 100). -/
opaque residual : List (List (Rat × Rat)) → Rat
opaque timingError : List (Rat × Rat) → Rat
opaque trackError : List ((Rat × Rat) × (Rat × Rat)) → List (Rat × Rat)
opaque loopGain : Rat → Rat × Rat
opaque pilotGain : Rat × Rat
opaque pulseSpan : Nat
opaque datapathWord : Nat

/-- The timing loop (R344): the change of CV in 10^-12 that a loop of a bandwidth in mHz makes on a phase sample, from the phase error
before and now in 0.25 ns (log entry 114). -/
opaque cvStep : Nat → Int → Int → Int

/-- What IEEE 802.3 gives for the PCS of a port of a number of lanes beyond this spec's text (R47): the codewords of 544 symbols that the
symbols of its lanes make once they are deskewed and reordered, with the symbols of each lane that are left over; the way back; the
257-bit blocks that are alignment markers; the markers sent, and after how many blocks; and how a lane's symbol looks with its
polarity inverted (log entry 104). -/
opaque pcsGather : Nat → List (List (BitVec 10)) → List (List (BitVec 10)) × List (List (BitVec 10))
opaque pcsSpread : Nat → List (List (BitVec 10)) → List (List (BitVec 10))
opaque isMarker : Nat → List Bool → Bool
opaque markers : Nat → List (List Bool)
opaque markerPeriod : Nat → Nat
opaque invertLane : BitVec 10 → BitVec 10

/-- The PSI byte of an ODUflex frame by its MFAS, for idle-mapped clients (R91, log entry 103). -/
opaque psiFlex : Nat → Byte

/-- The bits by which G.709 sets the 257B blocks off from the OPUflex frame, as a receiver finds them (R56, log entry 103). -/
opaque blockAlign : List Bool → Nat

/-- What ITU-T G.709 gives beyond this spec's text: the pattern of an unused tributary slot, the six justification bytes JC1 to JC6 that
announce a number of data words, and the number that such bytes announce (R70, R128; log entry 103). -/
opaque unusedSlot : Byte
opaque jcBytes : Nat → List Byte
opaque jcRead : List Byte → Option Nat

/-- The 400ZR Implementation Agreement of the OIF (R174, R201, R290): the symbols of a frame made from the client bits that wait, with
the number of bits that it takes; the 257B blocks of a client that one frame carries at most; and what a receiver makes of the samples of one frame in their ADC codes: tentative decisions,
client bits, corrected bits, uncorrectable frames, and whether frame alignment holds (log entry 102). -/
opaque zrSend : List Bool → List ((Rat × Rat) × (Rat × Rat)) × Nat
opaque zrBlocks : Nat
opaque zrReceive : List (List Int) → List ((Rat × Rat) × (Rat × Rat)) × List Bool × Nat × Nat × Bool

/-- The factory record of the store die (R534): a factor of a region, by its set and its place in it, and both reference temperatures
of a region as BN_TREF_g shows them (log entry 111). -/
opaque factoryFactor : Nat → Nat → Nat → Int
opaque factoryTref : Nat → BitVec 32

/-- The block cipher AES with a 256-bit key (FIPS 197): key and plaintext block, most significant bit first (R89, log entry 5). -/
opaque aes256 : BitVec 256 → BitVec 128 → BitVec 128

/-- AES-KW (NIST SP 800-38F) wrap of a byte string under a 256-bit key (R111, R457, log entry 5). -/
opaque aesKwWrap : BitVec 256 → List Byte → List Byte

/-- AES-KW unwrap; `none` when the integrity check fails (R113, log entry 5). -/
opaque aesKwUnwrap : BitVec 256 → List Byte → Option (List Byte)

/-- The 72 bytes of key material of R454 from salt N_i ‖ N_r, secret Z ‖ K, the flow and the identifier (log entry 5). -/
opaque kaOkm : List Byte → List Byte → Nat → BitVec 32 → BitVec 576

/-- The 16-byte confirmation of KA_READY (R454): from salt, secret and role (log entry 5). -/
opaque kaConfirm : List Byte → List Byte → Nat → BitVec 128

/-- The public values that the trust core draws for an agreement, by its identifier and for the answer or not: the ECDH key and the
ML-KEM key or ciphertext; its identity key; and the reason byte of KA_ABORT (Table 16-5, log entry 5). -/
opaque kaPublic : BitVec 32 → Bool → List Byte
opaque idKey : List Byte
opaque abortReason : Byte

/-- The ECDH and ML-KEM public keys of the report pair of a number (R451), the public ECDH key and ciphertext of a wrap record by a
count of free values (R457), and the certificate chain of the identity key (Table 16-4, log entry 5). -/
opaque reportPair : Nat → List Byte
opaque wrapPublic : Nat → List Byte
opaque certChain : List Byte

/-- A signature by the identity key over a message (R451, R452, log entry 5). -/
opaque idkSign : List Byte → List Byte

end Sys2Proof.Config
end

