-- ==== Sys2Proof/Machine/Bits.lean ====
section
/-!
DEFINITION. Bit-field access in a 32-bit register word, and two's complement readings of a field.
-/
namespace Sys2Proof.Machine

/-- A field of a register: its lowest bit and its width. -/
structure Fld where
  lsb : Nat
  width : Nat
  deriving DecidableEq, Repr

/-- The value of a field as a number. -/
def Fld.get (f : Fld) (w : Word) : Nat := (w.toNat >>> f.lsb) % 2 ^ f.width

/-- The word with the field replaced by the low bits of `v`. -/
def Fld.set (f : Fld) (v : Nat) (w : Word) : Word :=
  let mask : Word := BitVec.ofNat 32 ((2 ^ f.width - 1) <<< f.lsb)
  (w &&& ~~~mask) ||| (BitVec.ofNat 32 ((v % 2 ^ f.width) <<< f.lsb))

/-- A one-bit field read as a Boolean. -/
def Fld.bit (f : Fld) (w : Word) : Bool := f.get w = 1

/-- Two's complement reading of `v` in `n` bits. -/
def signedOf (n v : Nat) : Int := if v < 2 ^ (n - 1) then (v : Int) else (v : Int) - (2 : Int) ^ n

/-- The `n`-bit two's complement code of `i`. -/
def codeOf (n : Nat) (i : Int) : Nat := (i % ((2 : Int) ^ n)).toNat

/-- Two's complement reading of a field. -/
def Fld.int (f : Fld) (w : Word) : Int := signedOf f.width (f.get w)

/-- The integer clamped to `lo .. hi`. -/
def clampInt (lo hi i : Int) : Int := if i < lo then lo else if hi < i then hi else i

/-- `x × 2^-n` rounded to the nearest integer, halves away from zero. -/
def shiftRound (x : Int) (n : Nat) : Int :=
  let d : Int := (2 : Int) ^ n
  if 0 ≤ x then (2 * x + d) / (2 * d) else - ((2 * (-x) + d) / (2 * d))

/-- Epoch order of R23: `a` is newer than `b` when (a − b) mod 2^32 lies from 1 to 2^31 − 1. -/
def newer (a b : Word) : Bool :=
  let d := (a - b).toNat
  decide (1 ≤ d ∧ d ≤ 2 ^ 31 - 1)

/-- The lead of R75, R224 and R310: (tgt − now) mod 2^n lies from `lo` to 2^(n−1) − 1. -/
def leadOk {n : Nat} (lo : Nat) (tgt now : BitVec n) : Bool :=
  let d := (tgt - now).toNat
  decide (lo ≤ d ∧ d < 2 ^ (n - 1))

end Sys2Proof.Machine
end

