-- ==== Sys2Proof/Machine/Num.lean ====
section
/-!
DEFINITION. The numbers of the modems: rational samples and complex symbols, Jones matrices, and the rounding of a number to an
integer. How finely the RB48 represents them, and the values of its sines, roots and logarithms, are constants without a body
(log entry 99).
-/
namespace Sys2Proof.Machine

/-- A complex number. -/
structure Cx where
  re : Rat := 0
  im : Rat := 0
  deriving DecidableEq, Repr

def Cx.add (a b : Cx) : Cx := ⟨a.re + b.re, a.im + b.im⟩
def Cx.sub (a b : Cx) : Cx := ⟨a.re - b.re, a.im - b.im⟩
def Cx.mul (a b : Cx) : Cx := ⟨a.re * b.re - a.im * b.im, a.re * b.im + a.im * b.re⟩
def Cx.conj (a : Cx) : Cx := ⟨a.re, -a.im⟩
def Cx.scale (q : Rat) (a : Cx) : Cx := ⟨q * a.re, q * a.im⟩
/-- The squared magnitude. -/
def Cx.norm2 (a : Cx) : Rat := a.re * a.re + a.im * a.im
def Cx.sum (l : List Cx) : Cx := l.foldl Cx.add {}

/-- e^(2πix). -/
def turn (x : Rat) : Cx := ⟨(Config.turn x).1, (Config.turn x).2⟩

/-- The X and Y components of a symbol, a sample or a bin. -/
structure Pol where
  x : Cx := {}
  y : Cx := {}
  deriving DecidableEq, Repr

def Pol.add (a b : Pol) : Pol := ⟨a.x.add b.x, a.y.add b.y⟩
def Pol.sub (a b : Pol) : Pol := ⟨a.x.sub b.x, a.y.sub b.y⟩
def Pol.times (c : Cx) (a : Pol) : Pol := ⟨c.mul a.x, c.mul a.y⟩
def Pol.scale (q : Rat) (a : Pol) : Pol := ⟨a.x.scale q, a.y.scale q⟩
def Pol.norm2 (a : Pol) : Rat := a.x.norm2 + a.y.norm2

/-- A 2×2 complex matrix. -/
structure Jones where
  xx : Cx := ⟨1, 0⟩
  xy : Cx := {}
  yx : Cx := {}
  yy : Cx := ⟨1, 0⟩
  deriving DecidableEq, Repr

def Jones.apply (m : Jones) (v : Pol) : Pol := ⟨(m.xx.mul v.x).add (m.xy.mul v.y), (m.yx.mul v.x).add (m.yy.mul v.y)⟩
def Jones.add (a b : Jones) : Jones := ⟨a.xx.add b.xx, a.xy.add b.xy, a.yx.add b.yx, a.yy.add b.yy⟩
def Jones.mul (a b : Jones) : Jones :=
  ⟨(a.xx.mul b.xx).add (a.xy.mul b.yx), (a.xx.mul b.xy).add (a.xy.mul b.yy),
   (a.yx.mul b.xx).add (a.yy.mul b.yx), (a.yx.mul b.xy).add (a.yy.mul b.yy)⟩
def Jones.scale (q : Rat) (a : Jones) : Jones := ⟨a.xx.scale q, a.xy.scale q, a.yx.scale q, a.yy.scale q⟩
/-- The conjugate transpose. -/
def Jones.adj (a : Jones) : Jones := ⟨a.xx.conj, a.yx.conj, a.xy.conj, a.yy.conj⟩
/-- The product of a column and a conjugated row. -/
def Pol.outer (a b : Pol) : Jones := ⟨a.x.mul b.x.conj, a.x.mul b.y.conj, a.y.mul b.x.conj, a.y.mul b.y.conj⟩
/-- The zero matrix. -/
def Jones.zero : Jones := ⟨{}, {}, {}, {}⟩
def Jones.sum (l : List Jones) : Jones := l.foldl Jones.add Jones.zero
/-- The determinant. -/
def Jones.det (a : Jones) : Cx := (a.xx.mul a.yy).sub (a.xy.mul a.yx)
/-- The reciprocal of a complex number, 0 for 0. -/
def Cx.inv (a : Cx) : Cx := if a.norm2 = 0 then {} else a.conj.scale (1 / a.norm2)
/-- The inverse matrix, the zero matrix where there is none. -/
def Jones.inv (a : Jones) : Jones :=
  let r := a.det.inv
  ⟨r.mul a.yy, r.mul (a.xy.scale (-1)), r.mul (a.yx.scale (-1)), r.mul a.xx⟩

/-- The nearest integer, halves upwards (log entry 99). -/
def roundQ (q : Rat) : Int := (q + 1 / 2).floor

/-- The mean of a list of numbers, 0 of none. -/
def meanQ (l : List Rat) : Rat := if l = [] then 0 else l.foldl (· + ·) 0 / (l.length : Rat)

/-- The discrete Fourier transform of `n` points, and its inverse. -/
def dft (n : Nat) (xs : List Cx) : List Cx :=
  (List.range n).map fun k => Cx.sum (xs.zipIdx.map fun p => p.1.mul (turn (-((k * p.2 : Nat) : Rat) / (n : Rat))))
def idft (n : Nat) (xs : List Cx) : List Cx :=
  (List.range n).map fun k =>
    (Cx.sum (xs.zipIdx.map fun p => p.1.mul (turn (((k * p.2 : Nat) : Rat) / (n : Rat))))).scale (1 / (n : Rat))

/-- The frequency of bin `k` of `n` as a fraction of the sample rate, from −1/2 on. -/
def binFreq (n k : Nat) : Rat := if 2 * k < n then (k : Rat) / n else (k : Rat) / n - 1

/-- sin(πx) / (πx). -/
def sinc (x : Rat) : Rat := if x = 0 then 1 else (Config.turn (x / 2)).2 / (Config.pi * x)

/-- A sampled signal at a point between its samples, sample 0 at point 0: band-limited interpolation over `Config.pulseSpan` samples
to each side. -/
def interp (xs : Array Pol) (t : Rat) : Pol :=
  let lo : Int := t.floor - (Config.pulseSpan : Int)
  (List.range (2 * Config.pulseSpan + 2)).foldl (fun acc (j : Nat) =>
    let n : Int := lo + (j : Int)
    if n < 0 then acc else acc.add ((xs.getD n.toNat {}).scale (sinc (t - n)))) {}

/-- Both polarisations through a transform. -/
def Pol.through (f : List Cx → List Cx) (l : List Pol) : List Pol :=
  List.zipWith Pol.mk (f (l.map Pol.x)) (f (l.map Pol.y))

end Sys2Proof.Machine
end

