-- ==== Sys2Proof/Syntax.lean ====
section
/-!
DEFINITION. The commands of the RB48: one constructor of `Instr` for each row of spec/opcode_table.json, with the
operands a sender gives. Operands that name an object of Table 0-3 are bounded by their type (R3). What an external
party, the line, the board or an external standard's algorithm decides (a measured value, the verdict of a signature
check, the bytes of a message) is an operand; what the RB48 itself holds is state.
-/
namespace Sys2Proof

/-- The masters of the control matrix (Table 15-1). -/
inductive Master where
  | pcie
  | core (n : Fin 4)
  | engine (e : Fin 2)
  | trust
  | link
  deriving DecidableEq, Repr

/-- Where an access goes: BAR0, a doorbell page of a tenant (BAR2), the owner mailbox (BAR4), or the interrupt
controller (R387, R412). -/
inductive Space where
  | bar0
  | bar2 (t : Fin 4096)
  | mailbox
  | ic
  deriving DecidableEq, Repr

/-- A base address register of a function, for discarded accesses (R6, R388). -/
inductive Bar where
  | bar0 | bar2 | bar4
  deriving DecidableEq, Repr

/-- A cluster (Table 0-2, Table 1-3). -/
inductive Cluster where
  | carrier (c : Fin 48)
  | pool (m : Fin 4)
  | framer
  | switch
  | cipher (x : Fin 2)
  | timing
  deriving DecidableEq, Repr

/-- Which boundary of a cluster is reached (R16): of both directions at once, of a carrier's transmit or receive
direction, or of one flow of a cipher cluster. -/
inductive Side where
  | both | tx | rx
  | flow (f : Fin 4096)
  deriving DecidableEq, Repr

/-- A direction of the line. -/
inductive Dir where
  | tx | rx
  deriving DecidableEq, Repr

/-- A unit that can be fenced (R13, Table 20-2). -/
inductive UnitRef where
  | decoder (m : Fin 4) (u : Fin 448)
  | lane (l : Fin 64)
  | bin (c : Fin 48) (b : Fin 4096)
  deriving DecidableEq, Repr

/-- A lane with an offset sampler: a client lane (R51) or lane 8j + i of the Registration link (R368). -/
inductive EyeSite where
  | client (l : Fin 128)
  | link (n : Fin 24)
  deriving DecidableEq, Repr

/-- The SDA line of an I2C bus as the controller finds it (R245): high; low, but freed by nine clocks and a STOP; or low
even then. -/
inductive Sda where
  | high | freed | stuck
  deriving DecidableEq, Repr

/-- The ingress conditions of R59. -/
inductive Ingress where
  | los | align | fec
  deriving DecidableEq, Repr

/-- A request of link training to a transmitter (R49): coefficient `tap` of the five of IEEE 802.3 moves one step, or all take
preset `n`. -/
inductive TapAsk where
  | up (tap : Fin 5) | down (tap : Fin 5) | preset (n : Fin 8)
  deriving DecidableEq, Repr

/-- The layers of an overhead object (R406). -/
inductive OhRef where
  | flow (f : Fin 4096)
  | otuc (c : Fin 48)
  | oduc (c : Fin 48)
  deriving DecidableEq, Repr

/-- The rings of a doorbell page (Table 14-2). -/
inductive RingKind where
  | command | event | overhead | telemetry | capture
  deriving DecidableEq, Repr

/-- A carrier or a flow, for DEG (R145). -/
inductive DegRef where
  | carrier (c : Fin 48)
  | flow (f : Fin 4096)
  deriving DecidableEq, Repr

/-- How a candidate's monitor failed (R338). -/
inductive MonFail where
  | los
  | frq (ppb : Int)
  deriving DecidableEq, Repr

/-- The party that last failed to make progress on a held path (R421). -/
inductive Stalled where
  | master | target | both
  deriving DecidableEq, Repr

/-- The memories of Table 19-3. -/
inductive MemRef where
  | carrier (c : Fin 48)
  | decoderUnit (m : Fin 4) (u : Fin 448)
  | poolBuffer (m : Fin 4)
  | drypoint (g : Fin 8)
  | capture (g : Fin 8)
  | framer
  | connection
  | context (f : Fin 4096)
  | client (p : Fin 64)
  | glanorRam (core : Fin 3)
  | core3Instr
  | core3Data (addr : Word)
  | trustRam
  | keyVault
  | ringEngine (e : Fin 2)
  | linkAgent
  deriving DecidableEq, Repr

/-- A part that Proof tests at start-up (Table 20-2). -/
inductive ProofPart where
  | unit (u : UnitRef)
  | slice (c : Fin 48) (adc : Fin 4) (i : Fin 64)
  | carrierMem (c : Fin 48)
  | core3Mem
  | hubMem
  | storeMem
  deriving DecidableEq, Repr

/-- One frame's measurement of a mode by the receive modem (R284): training correlation of each polarisation in
1/1000 and the pilots of each polarisation, out of 4,080, decided in error. -/
structure Metric where
  corrX : Nat
  corrY : Nat
  errX : Nat
  errY : Nat
  deriving DecidableEq, Repr

/-- What the acquisition of a search finds in one frame (R272, R278, R283, R289): the measurement of each candidate q with the
place of its training block among the frame's samples at its working rate, the dispersion in 10 ps/nm and the coarse offset in
MHz. How the search comes by them the spec leaves open, but for their bounds and times. -/
structure Acq where
  cands : List (Metric × Nat)
  cd : Int
  offset : Int
  deriving DecidableEq, Repr

/-- A Jaljan descriptor as the host wrote it (Table 14-4). `par` holds bytes 28 to 63. -/
structure Desc where
  op : BitVec 16
  flags : Byte
  tag : Word
  obj : Word
  addr : BitVec 64
  len : Word
  par : List Byte
  deriving DecidableEq, Repr

/-- How a read of host memory made for a ring ended (R390). -/
inductive ReadEnd where
  | data (d : Desc)
  | error
  | poisoned
  deriving DecidableEq, Repr

/-- An owner authorisation block with the verdicts of its two signatures (R446). -/
structure Auth where
  counter : BitVec 64
  ecdsa : Bool
  mldsa : Bool
  deriving DecidableEq, Repr

/-- The verdicts on a signed party (R453): signature, certificate chain, and its identity. -/
structure Signed where
  sig : Bool
  chain : Bool
  ident : BitVec 64
  deriving DecidableEq, Repr

/-- A firmware image as IMAGE_WRITE brings it (chapter 16, "Secure boot"). -/
structure Image where
  version : Word
  minVersion : Word
  validated : Bool
  /-- Both signatures of the header verify. -/
  sigs : Bool
  /-- The body matches its digest. -/
  digestOk : Bool
  digest : BitVec 384
  deriving DecidableEq, Repr

/-- A HELLO message (Table 13-2). -/
structure Hello where
  k : Fin 4
  ver : BitVec 16
  en : Bool
  ident : BitVec 64
  epoch : Word
  view : BitVec 4
  seq : Word
  deriving DecidableEq, Repr

/-- A protection pair as PROT_SET names it (R379). -/
structure Pair where
  pkg : Fin 4
  flow : Fin 4096
  role : Bool
  peerPkg : Fin 4
  peerFlow : Fin 4096
  holdoff : Nat
  slots : Nat
  deriving DecidableEq, Repr

/-- A remote-source request (R328): package, the package named, and the carriers per direction. -/
structure SumReq where
  pkg : Fin 4
  named : Fin 4
  tx : List (Fin 48)
  rx : List (Fin 48)
  deriving DecidableEq, Repr

/-- The shared configuration of a band set (R374). -/
structure Shared where
  reqs : List SumReq
  pairs : List Pair
  seq : Word
  deriving DecidableEq, Repr

/-- A flow entry of a STATE message (Table 13-7). -/
structure StateEntry where
  flow : Fin 4096
  peer : Fin 4096
  role : Bool
  act : Bool
  req : Bool
  nak : Bool
  ready : Bool
  inForce : Bool
  defect : Byte
  deriving DecidableEq, Repr

/-- A STATE message (Table 13-6). -/
structure StateMsg where
  epoch : Word
  rxs : List Byte
  entries : List StateEntry
  deriving DecidableEq, Repr

/-- A GCC2 message as it came in between two flags, escaped (R452), with what the algorithms outside this spec make of it: the
verdicts on its signature and certificate, the identity it proves (R453), and the secret Z ‖ K that it leads to (R454). -/
structure KaMsg where
  bytes : List Byte
  from_ : Signed
  secret : List Byte
  deriving DecidableEq, Repr

/-- A board controller port transaction (R506, R507): its command byte, address, data and number of clocks. -/
structure BcFrame where
  cmd : Byte
  addr : BitVec 16
  data : Word
  clocks : Nat
  deriving DecidableEq, Repr

/-- The commands: one constructor per row of the table of operations, in the table's order. -/
inductive Instr where
  -- register access and dies (chapters 0, 1)
  | registerWrite (m : Master) (sp : Space) (addr : Addr) (data : Word)
  | misalignedAccess (bar : Bar) (read : Bool)
  | broadcastWrite (m : Master) (addr : Addr) (data : Word)
  | broadcastRead (m : Master) (addr : Addr)
  | dieLossByCredit (x : Fin 16)
  | dieLossBySupply (x : Fin 16)
  | unitFence (u : UnitRef)
  | commitRequest (m : Master) (k : Cluster)
  | commitBoundary (k : Cluster) (side : Side)
  | clusterReset (m : Master) (k : Cluster) (req : Bool)
  | clusterResetEnd (k : Cluster)
  | bridgeTimeout (x y : Fin 16) (neighbourOf : Option (Fin 48))
  -- client ports (chapter 2)
  | portMapWrite (m : Master) (p : Fin 64) (data : Word)
  | laneCtrlWrite (m : Master) (l : Fin 128) (data : Word)
  | laneReady (l : Fin 128)
  | trainingComplete (l : Fin 128) (far near : List TapAsk)
  | trainingTimeout (p : Fin 64)
  | trainingRestart (p : Fin 64)
  | eyeScanStart (m : Master) (site : EyeSite) (data : Word)
  | eyeScanDone (site : EyeSite) (errors : Nat)
  | laneLossOfSignal (l : Fin 128)
  | laneSkewExceeded (p : Fin 64)
  | clientLocalFaultEnter (p : Fin 64) (why : Ingress)
  | clientFaultRestore (p : Fin 64)
  -- the switch (chapter 3)
  | oduMultiframe
  | swapArm (m : Master)
  | pageCopy (m : Master)
  | pageCopyDone
  | rxPageSwap
  | rxLateSwap
  | bohBlockReceived (c : Fin 48)
  | flowSkewEnter (f : Fin 4096)
  | flowSkewExit (f : Fin 4096)
  | change (clusters : List Cluster)
  | prepareAck (k : Cluster)
  | prepareTimeout
  | changeCommit
  -- the cipher (chapter 4)
  | txCryptoBlock (f : Fin 4096) (lanes : List (List (BitVec 10)))
  | rxCryptoBlock (f : Fin 4096)
  | receiveSlotRetire (f : Fin 4096)
  | keyRotate (t : Fin 4096)
  | rotationConfirmTimeout (f : Fin 4096)
  | flowClusterMove (f : Fin 4096)
  | contextExport (f : Fin 4096)
  | spotCheck (f : Fin 4096) (dir : Dir) (lane : Fin 64) (laneTag : BitVec 128)
  -- frames, defects and overhead (chapters 3, 5, 10)
  | carrierFrameTx (c : Fin 48) (lanes : List (List (BitVec 10)))
  | carrierFrameRx (c : Fin 48) (codes : List (List Int)) (acq : Acq)
  | delineationTimeout (c : Fin 48)
  | warmSearchTimeout (c : Fin 48)
  | retestTimeout (c : Fin 48)
  | estimateWindowEnd (c : Fin 48)
  | packageBandMultiframe
  | loliInterval (c : Fin 48) (meanSquare : Nat)
  | carrierDefectEnter (c : Fin 48) (d : Fin 11)
  | carrierDefectExit (c : Fin 48) (d : Fin 11)
  | flowDefectEnter (f : Fin 4096) (d : Fin 10)
  | flowDefectExit (f : Fin 4096) (d : Fin 10)
  | degSecond (o : DegRef)
  | oduFrameRx (o : OhRef)
  -- the decoder pools (chapter 6)
  | codewordArrival (m : Fin 4) (x : Fin 12)
  | unitSlot (m : Fin 4) (decided : List (Fin 448 × List Nat))
  | codewordEmission (m : Fin 4)
  | outputBufferDrain (m : Fin 4) (n : Nat)
  | unitMemoryError (m : Fin 4) (u : Fin 448)
  -- carrier start and stop, converters (chapters 7, 8, 9)
  | laserPoll (c : Fin 48) (status : BitVec 16)
  | tuneTimeout (c : Fin 48)
  | rampStep (c : Fin 48)
  | rampEnd (c : Fin 48)
  | converterReady (c : Fin 48)
  | swingStep (g : Fin 8)
  | captureArm (m : Master) (g : Fin 8) (data : Word)
  | captureStart (g : Fin 8)
  | captureDone (g : Fin 8)
  | sliceHandover (g : Fin 8) (measured : List (Nat × List Int))
  | deferredHandover (g : Fin 8)
  | backgroundRunEnd (g : Fin 8)
  -- front-end control (chapter 9)
  | spiTransaction (g : Fin 8)
  | spiTransactionEnd (g : Fin 8) (echo : Byte) (data : BitVec 16)
  | spiRetry (g : Fin 8)
  | i2cTransferEnd (g : Fin 8) (ack : Bool) (sda : Sda) (data : List Byte)
  | i2cStretchTimeout (g : Fin 8) (sda : Sda)
  | sdaStuckClear (m : Master) (g : Fin 8) (sda : Sda)
  | gainDwell (c : Fin 48) (power : Nat)
  | loSteerUpdate (c : Fin 48)
  | txTrimPeriod (c : Fin 48)
  | hkConversion (g : Fin 8) (code : BitVec 16)
  | hkUrgentRequest (g : Fin 8) (i : Fin 12)
  | hkSnapshotArm (m : Master) (g : Fin 8) (data : Word)
  | hkSnapshot (g : Fin 8) (code : BitVec 16)
  | hkCalibrate (m : Master) (g : Fin 8)
  | hkCalibrationEnd (g : Fin 8) (offset : Int) (gain : Nat)
  -- Crosshatch (chapter 11)
  | xhTxArm (m : Master) (c : Fin 48)
  | xhTxSwap (c : Fin 48)
  | xhTxCopy (m : Master) (c : Fin 48)
  | xhRxCopy (m : Master) (c : Fin 48)
  | xhCopyDone (c : Fin 48) (dir : Dir)
  | xhRxSwap (c : Fin 48)
  | xhRxLateSwap (c : Fin 48)
  | xhBankEntryWrite (m : Master) (c : Fin 48) (i : Fin 4096) (data : Word)
  | xhRxhWrite (m : Master) (c : Fin 48) (data : Word)
  | xhRxaLdWrite (m : Master) (c : Fin 48)
  | neighbourChange (c : Fin 48) (dir : Dir) (slot : Fin 4)
  | summaryAbsent (k : Fin 4) (dir : Dir) (car : Fin 48)
  | refinementStep (c : Fin 48) (moves : List Word) (snr : Nat)
  | refinementEvaluation (c : Fin 48) (snr : Nat)
  -- the timing core (chapter 12)
  | loopUpdate
  | phaseSample (err : Int) (at_ : Fin 4000)
  | sysoscLoss
  | candidateDisqualify (n : Fin 8) (why : MonFail)
  | candidateMonitorsPass (n : Fin 8) (ppb : Int)
  | waitToRestoreEnd (n : Fin 8)
  | timingLock
  | tmCvWrite (m : Master) (data : Word)
  | tmSwphWrite (m : Master) (data : Word)
  | softwareTimeout
  | historyStore
  -- the Registration link and band sets (chapter 13)
  | rlTrainingFrame (j : Fin 3) (lane : Fin 8) (request own : Byte)
  | rlTrainingTimeout (j : Fin 3)
  | rlTrainingRestart (j : Fin 3)
  | rlRetrain (m : Master) (j : Fin 3)
  | skipSet (j : Fin 3) (found : List Bool) (fill : List Int) (violations : Nat)
  | cellReceived (j : Fin 3) (cell : List Byte)
  | hello (j : Fin 3) (h : Hello)
  | helloSend
  | helloTimeout (j : Fin 3)
  | epochReq (k : Fin 4)
  | epochGrant
  | epochBusy
  | epochReqTimeout
  | epochSet (k : Fin 4) (epoch : Word) (cfg : Shared)
  | cfgSyncRequest (k : Fin 4)
  | cfgSyncResponse (k : Fin 4) (epoch : Word) (cfg : Shared)
  | cfgSyncTimeout
  | epochAdopt
  | time (k : Fin 4) (offset : Int)
  | timeSend
  | state (k : Fin 4) (msg : StateMsg)
  | stateSend
  | stateTimeout (k : Fin 4)
  | protectionHoldoff (f : Fin 4096)
  | sumReq (k : Fin 4) (tx rx : List (Fin 48))
  | sumAck (k : Fin 4)
  | sumReqRepeat (k : Fin 4)
  | ctx (k : Fin 4) (record : List Byte)
  | ctxAck (f : Fin 4096) (dir : Dir) (accepted : Bool)
  | ctxAckTimeout (f : Fin 4096) (dir : Dir)
  | summary (k : Fin 4) (dir : Dir) (index : Fin 2) (stamp : BitVec 64) (validA validB : Bool)
      (samplesA samplesB : List Byte)
  | rlIdleEnter (m : Master) (j : Fin 3)
  | idleAnnounce (j : Fin 3)
  | rlSignalLoss (j : Fin 3)
  | rlIdleExit (j : Fin 3)
  | rlIdleExitTimeout (j : Fin 3)
  -- host rings (chapter 14)
  | doorbell (t : Fin 4096) (r : RingKind) (idx : BitVec 16)
  | hostReadCompletion (t : Fin 4096) (r : RingKind) (res : ReadEnd)
  | hostReadTimeout (t : Fin 4096) (r : RingKind)
  | functionLevelReset (fn : Fin 257)
  | busMasterDisable (fn : Fin 257)
  | ringEnable (t : Fin 4096) (r : RingKind) (data : Word)
  | commandGrant (e : Fin 2)
  | msixModerationEnd (t : Fin 4096) (r : RingKind)
  | cancel (t : Fin 4096) (idx : BitVec 16)
  | nop (t : Fin 4096)
  | flowCreate (t : Fin 4096) (tx rx : List Nat)
  | flowDelete (t : Fin 4096)
  | statRead (t : Fin 4096)
  | grant (slots : List Nat) (auth : Option Auth)
  | revoke (auth : Option Auth)
  | bind (auth : Option Auth)
  | unbind (auth : Option Auth)
  | telemSub
  | telemetryPeriod
  | engine (data : List Byte)
  | protSetRemove
  | protSetWorking
  | protSetProtection
  | protSetForce
  | txTti (t : Fin 4096) (buf : List Byte)
  | expTti (t : Fin 4096) (buf : List Byte)
  | txField (t : Fin 4096) (buf : List Byte)
  | txGcc (t : Fin 4096) (buf : List Byte)
  | recv (t : Fin 4096)
  | gccRecvTimeout (t : Fin 4096) (idx : BitVec 16)
  | capBuf
  -- control matrix, Stylus cores, interrupts and console (chapter 15)
  | matrixTimeout (m : Master)
  | lateCompletion (m : Master)
  | pathWatchdog (m : Master) (x : Fin 16) (addr : Addr) (who : Stalled)
  | fenceRelease
  | coreReset (n : Fin 3)
  | core3Reset (m : Master)
  | dieWindowReset (x : Fin 16)
  | interruptSource (s : Fin 512) (high : Bool)
  | interruptDelivery (n : Fin 4) (wfi ie : Bool)
  | eoi (n : Fin 4) (s : BitVec 9)
  | thaw (n : Fin 4)
  | hold (n : Fin 4) (on : Bool)
  | holdTimeout (n : Fin 4)
  | icPendWrite (n : Fin 4) (mask : Bool) (w : Fin 16) (data : Word)
  | moderationEnd (s : Fin 512)
  | uartRxByte (b : Byte) (stop : Bool)
  | uartBreak
  | uartDataWrite (m : Master) (data : Word)
  | uartDataRead (m : Master)
  -- the trust core (chapter 16)
  | status
  | attest (nonce : List Byte)
  | selftest (pass : Bool)
  | entropyHealthFailure
  | enrol (keyHash : BitVec 384) (nonce : List Byte) (approved : Bool) (auth : Auth)
  | peerList (ids : List (BitVec 64)) (auth : Auth)
  | wrapOut (peer : Signed) (ownerHash : BitVec 384) (kwk : BitVec 256) (auth : Auth)
  | wrapIn (sender : Signed) (pair : Nat) (kwk : BitVec 256) (wrapped : List Byte) (auth : Auth)
  | ephemeralDrawn
  | imageWrite (img : Image)
  | imageWriteDone
  | imageCommit (auth : Auth)
  | zeroizeFlows (auth : Auth)
  | zeroizeKeys (auth : Auth)
  | zeroizeDevice (auth : Auth)
  | zeroizationDone
  | zeroizeNFall
  | zeroizeNRise
  | sensorTrip (i : Fin 3)
  | kaInit (f : Fin 4096) (msg : KaMsg)
  | kaResp (f : Fin 4096) (msg : KaMsg)
  | kaReady (f : Fin 4096) (msg : KaMsg)
  | kaAbort (f : Fin 4096) (msg : KaMsg)
  | kaInitRepeat (f : Fin 4096)
  | kaTimeout (f : Fin 4096)
  -- Drypoint and counters (chapter 17)
  | dpCtrlWrite (m : Master) (g : Fin 8) (data : Word)
  | dpBankSwap (m : Master) (g : Fin 8)
  | detectorWindowEnd (g : Fin 8) (zeros : Nat)
  | ptaEnter (g : Fin 8)
  | ptaExit (g : Fin 8)
  | dpCaptureArm (m : Master) (g : Fin 8) (data : Word)
  | dpCaptureDone (g : Fin 8) (zeros : Nat)
  | pmSecond
  | counterOverflow (b : Fin 66) (i : Fin 9)
  | counterLoRead (m : Master) (b : Fin 66) (i : Fin 9) (snap : Bool)
  | glbTimeLoRead (m : Master)
  | pcGlbSnap (m : Master)
  | pcGlbFreeze (m : Master)
  | pcGlbClear (m : Master)
  | pcGlbTick
  | blockFreeze (m : Master) (b : Fin 66) (on : Bool)
  | blockClear (m : Master) (b : Fin 66)
  -- power (chapter 18)
  | reqRun (m : Master)
  | reqIdle (m : Master)
  | reqSleep (m : Master)
  | reqDeep (m : Master)
  | reqOff (m : Master)
  | entryWindow
  | stateTransitionDone
  | hostAccessWake (doorbell : Bool)
  | wakeTimerExpiry
  | wakeEdge
  | wakeLevel
  | lightDetect (g : Fin 8) (level : BitVec 16)
  | linkSignalWake (j : Fin 3)
  | offWake
  | regionGate (m : Master) (g : Fin 8) (st : Fin 3)
  | regionReady (g : Fin 8)
  | lingerExpiry (g : Fin 8)
  | padRelease (m : Master) (regions : BitVec 8) (dev : Bool)
  | avsStep (n : Fin 8) (target : Nat)
  | readVoutPoll (n : Fin 8) (code : BitVec 16)
  | avsStepTimeout (n : Fin 8)
  | bcRead (fr : BcFrame)
  | bcWrite (fr : BcFrame)
  -- faults, memory protection and calibration (chapter 19)
  | faultAssert (x : Fin 16) (i : Fin 64)
  | faultStatusClear (m : Master) (x : Fin 16) (i : Fin 64)
  | faultInject (m : Master) (maintenance : Bool) (x : Fin 16) (i : Fin 64)
  | collectorClockLoss
  | correctedError (x : Fin 16)
  | uncorrectableError (mem : MemRef)
  | hubDatapathReset (m : Master)
  | hubDatapathResetEnd
  | fullCalibration (m : Master) (regions : BitVec 8) (refsOk : Bool)
  | fullCalibrationEnd (g : Fin 8) (measured : List (Nat × List Int)) (temp : BitVec 16)
  | burnishSample (g : Fin 8) (temp : BitVec 16) (refsOk : Bool)
  | calStoreDone (readBack : Bool)
  -- start-up and reset (chapter 20)
  | powerOnReset
  | resetNFall
  | resetNRise (failed : List ProofPart) (katFail : Bool)
  | bootComplete
  | deviceResetCommand (m : Master)
  | regionReset (m : Master) (g : Fin 8)
  -- rows at the table's end
  | laneSignalReturn (l : Fin 128)
  | pcsAlignmentGain (p : Fin 64)
  | suppliesRemoved
  | ringEngineReset (e : Fin 2)
  | linkAgentReset
  | dieWindowResetEnd (x : Fin 16)
  | uartByteSent
  deriving DecidableEq, Repr

end Sys2Proof
end

