-- ==== Sys2Proof/Machine/State.lean ====
section
/-!
DEFINITION. The state of the RB48 as plain data: the register words (host view and active copies), the hidden state of
every object the spec names, the queue of waiting commands, and what the device has sent. `State.reset` is the machine
right after a power-on reset whose RESET_N is held low: nothing has booted yet (R535, R539).
-/
namespace Sys2Proof.Machine

/-- A sparse map: keys strictly rising, no entry equal to its default (so equal maps are equal lists). -/
abbrev SMap (α : Type) := List (Nat × α)

/-- One key slot of a direction of a flow (chapter 4, "Key slots and rotation"). -/
structure KeySlot where
  loaded : Bool := false
  key : BitVec 256 := 0
  salt : BitVec 32 := 0
  deriving DecidableEq, Repr

/-- Where a rotation stands (R98). -/
inductive RotStage where
  | agree
  | confirm
  | confirmed
  | switchAt (b : BitVec 64)
  deriving DecidableEq, Repr

/-- A rotation of a flow (R98): the local directions named, and whether a KEY_ROTATE command waits for it. -/
structure Rot where
  tx : Bool
  rx : Bool
  stage : RotStage
  command : Bool
  deriving DecidableEq, Repr

/-- A key agreement of a flow (R455, R456). -/
structure Ka where
  initiator : Bool
  id : BitVec 32
  dirs : Byte
  newFlow : Bool
  nonce : List Byte
  secret : List Byte
  salt : List Byte
  /-- The content of KA_INIT, which the signature of KA_RESP covers too (Table 16-5). -/
  init : List Byte := []
  answered : Bool
  loaded : Bool
  loadedTx : Option Bool
  loadedRx : Option Bool
  deriving DecidableEq, Repr

/-- The last block of a direction as the spot verifier recomputes it (R116): the slot and counter used, its additional data, the
plaintext of a transmitted block or the ciphertext of a received one, and the tag that the lane gave. -/
structure LaneBlock where
  slot : KeySlot
  counter : BitVec 64
  aad : List Byte
  text : List Byte
  tag : BitVec 128
  deriving DecidableEq, Repr

/-- The spot verifier's window of one direction of a flow (R116, R117): blocks of it so far, the one chosen, whether its check is due,
and the last block. -/
structure SpotWin where
  n : Nat := 0
  pick : Nat := 0
  due : Bool := false
  last : Option LaneBlock := none
  deriving DecidableEq, Repr

/-- One direction of the BIP-8 of a frame structure: the codes of the last two frames, older first (R149). -/
structure Bip where
  last : List Byte := []
  deriving DecidableEq, Repr

/-- Transport counters of a carrier or flow (Table 17-3). -/
structure Pm where
  corrected : Nat := 0
  wrapped : Bool := false
  uncorrectable : Nat := 0
  bip : Nat := 0
  bei : Nat := 0
  authFail : Nat := 0
  defectSeconds : Nat := 0
  /-- A defect has been reported in the running second. -/
  seen : Bool := false
  deriving DecidableEq, Repr

/-- How the last received crypto block of a flow ended: none has come, it authenticated, it failed, or it named an empty slot
(R94, R102, R103). -/
inductive BlockEnd where
  | none | good | bad | empty
  deriving DecidableEq, Repr

/-- What the package holds of one flow (chapters 3, 4, 5, 13). -/
structure Flow where
  alive : Bool := false
  coming : Bool := false
  owner : Nat := 0
  port : Nat := 0
  slots : Nat := 0
  hold : Bool := false
  standby : Bool := false
  cl : Nat := 0
  moveTo : Option Nat := none
  deleting : Bool := false
  txKi : Bool := false
  rxKi : Bool := false
  tx0 : KeySlot := {}
  tx1 : KeySlot := {}
  rx0 : KeySlot := {}
  rx1 : KeySlot := {}
  last0 : Option (BitVec 64) := none
  last1 : Option (BitVec 64) := none
  txCtr : BitVec 64 := 0
  /-- Crypto-block periods of the transmit direction so far, sent as blocks or as ODU-LCK. -/
  blocks : BitVec 64 := 0
  lastTag : BitVec 128 := 0
  started : Bool := false
  run : Nat := 0
  runKi : Bool := false
  good : Nat := 0
  rxEnd : BlockEnd := .none
  /-- The other receive slot holds an earlier key, to be zeroized by R99. -/
  retireDue : Bool := false
  ctl : Option Word := none
  spot : Option Word := none
  ka : Option Ka := none
  rot : Option Rot := none
  kaDone : Bool := false
  exportAt : Option (BitVec 64) := none
  ctxWaitTx : Bool := false
  ctxWaitRx : Bool := false
  impTx : Bool := false
  impRx : Bool := false
  act : Bool := false
  askTakeover : Bool := false
  pairInForce : Option (Nat × Nat × Bool) := none
  nak : Bool := false
  raw : BitVec 10 := 0
  squelch : Bool := false
  degBad : Nat := 0
  degGood : Nat := 0
  /-- Frames of the running second, and those of them with a BIP-8 violation (R145). -/
  secFrames : Nat := 0
  secErrored : Nat := 0
  pm : Pm := {}
  snap : Pm := {}
  /-- A protection flow has resumed from an imported record and its rotation has not started yet (R112). -/
  rotDue : Bool := false
  /-- The agreement that led to the loaded slots of a rotation which waits for its confirmation (R98). -/
  kaLast : Option Ka := none
  spotTx : SpotWin := {}
  spotRx : SpotWin := {}
  /-- The one further block of a flow that is being deleted has been sent (R95). -/
  stopped : Bool := false
  /-- Ingress: bits of 257B blocks that wait for the OPUflex, and whether a packet is open at their end (R56, R57). -/
  fill : List Bool := []
  inPacket : Bool := false
  /-- Egress: delivered bits short of a whole 257B block; none while the stream is interrupted (R60). -/
  drain : Option (List Bool) := none
  /-- ODUflex bytes that wait for GMP, its accumulator, and the data words of the running OPUCn multiframe and of the next one
  (R65, R70). -/
  txBytes : List Byte := []
  gmpAcc : Nat := 0
  gmpWords : List (List Byte) := []
  gmpNext : List (List Byte) := []
  bipTx : Bip := {}
  bipRx : Bip := {}
  /-- BIP-8 violation counts of received frames that have not gone back in a BEI yet, oldest first (R149). -/
  beiDue : List Nat := []
  /-- Received GMP words by number, each a map from flow slot index to 16 bytes; the next word to take, and the number of data words
  of each OPUCn multiframe (R66, R70). -/
  rxWords : SMap (SMap (List Byte)) := []
  rxNext : Option Nat := none
  rxCm : SMap Nat := []
  /-- Received ODUflex bytes short of a whole frame, and whole frames that wait for the cipher. -/
  rxBytes : List Byte := []
  rxFrames : List (List Byte) := []
  deriving DecidableEq, Repr

/-- The received and transmitted overhead of one layer of one object (R152 to R155). -/
structure Overhead where
  txTti : List Byte := []
  txTtiNext : Option (List Byte) := none
  expTti : List Byte := []
  expTtiNext : Option (List Byte × Nat) := none
  timMode : Nat := 0
  accTti : List Byte := []
  candTti : List Byte := []
  candRun : Nat := 0
  txFields : List (Nat × Nat × List Byte) := []
  accAps : List (Nat × BitVec 32) := []
  candAps : List (Nat × BitVec 32 × Nat) := []
  stat : BitVec 3 := 0
  statRun : Nat := 0
  /-- Consecutive frames whose STAT is not that of the maintenance defect present. -/
  statOff : Nat := 0
  bdiLast : Bool := false
  bdiRun : Nat := 0
  oofRun : Nat := 0
  oomRun : Nat := 0
  oof : Bool := true
  oom : Bool := true
  /-- GCC channels that lost bytes since the last descriptor written (R154). -/
  gap : List Nat := []
  /-- Bytes of a whole TTI as they come in, one a frame. -/
  ttiIn : List Byte := []
  /-- Bytes queued for sending on each GCC channel (R154). -/
  gccTx : SMap (List Byte) := []
  deriving DecidableEq, Repr

/-- An accepted band overhead block's fields that the receiver keeps (Table 5-2). -/
structure Boh where
  band : BitVec 16
  pkg : BitVec 2
  set : Bool
  ident : BitVec 64
  epoch : Word
  cbmf : Word
  page : Bool
  pend : Bool
  swapAt : Word
  omfRef : Word
  xhBank : Bool
  xhPend : Bool
  xhAt : Word
  ofs : List (BitVec 16)
  ofsSeq : Byte
  rxs : List Byte
  /-- The block whole, for the telemetry ring (R137). -/
  bytes : List Byte
  deriving DecidableEq, Repr

/-- Why a ramp runs, hence where it ends (R207 to R209, R252, R517). -/
inductive RampWhy where
  | up | disable | regrid | safe | reset
  deriving DecidableEq, Repr

/-- What the package holds of one carrier beside its registers (chapters 5, 7, 9, 10, 11). -/
structure Carrier where
  txen : Bool := false
  /-- Launch level in steps of depth / 64: 0 is dark, 64 is attenuation 0 dB (R247). -/
  level : Nat := 0
  why : RampWhy := .up
  convReady : Bool := false
  midCode : Bool := true
  unused : Bool := false
  squelch : Bool := false
  /-- Transmit settings committed with a grid change, which take effect as the carrier enters TUNE (R208). -/
  regrid : Option (List (Nat × Word)) := none
  /-- Receive settings committed with it, and those that serve both directions. -/
  regridRx : Option (List (Nat × Word) × List (Nat × Word)) := none
  /-- Ramp depth in dB and address of function 4 as the always-on island keeps them over a device reset (R252). -/
  island : Option (Nat × BitVec 16) := none
  fofsNow : Int := 0
  bmfas : Nat := 0
  acc : Nat := 0
  block : List Byte := []
  /-- OTUCn-M bytes that wait for a carrier frame, the BIP-8 of each OTUC instance sent and received, and the violation counts of
  each instance that go back in its SM BEI (R123, R149). -/
  otuTx : List Byte := []
  bipTx : List Bip := []
  bipRx : List Bip := []
  beiDue : List (List Nat) := []
  /-- CARR_SYM, CARR_FMT, CARR_TX and CARR_CTRL.zr that the modem keeps sending while a carrier ramps down (R208, R209). -/
  prev : Option (Word × Word × Word × Bool) := none
  rxCn : Nat := 0
  /-- The running search is warm (R286). -/
  warm : Bool := false
  /-- Dispersion in use in 10 ps/nm (R272). -/
  cd : Int := 0
  /-- Candidates of the running search or retest (R288). -/
  cands : List (Word × Word) := []
  /-- The dispersion that RX_CTRL.cdfix and RX_CD fix for them, in 10 ps/nm (R272, R288). -/
  cdFix : Option Int := none
  retestQ : List Nat := []
  retestAt : Option Nat := none
  /-- Consecutive frames in which each candidate met the lock criterion. -/
  goodMet : List Nat := []
  badMet : Nat := 0
  framesIn : Nat := 0
  phase : Option Nat := none
  delin : Option Nat := none
  locfBad : Nat := 0
  locfGood : Nat := 0
  loliLow : Nat := 0
  loliHigh : Nat := 0
  loliFirst : Bool := false
  raw : BitVec 11 := 0
  arrival : Option Nat := none
  /-- ODU multiframes that have started on the received carrier since its running band multiframe began (R80). -/
  mfRx : Nat := 0
  boh : Option Boh := none
  sinceBoh : Nat := 4
  lockedSeen : Bool := false
  offset : Int := 0
  slicesBad : Bool := false
  /-- The Crosshatch announcement of the last accepted block. -/
  xhSeen : Option Word := none
  xhDiff : Nat := 0
  xhAt : Option Word := none
  /-- A late receive bank change waits, with whether it raises an event (R316). -/
  xhLate : Option Bool := none
  xhFirst : Bool := true
  /-- The bank in use is not loaded (R318). -/
  xhStop : Bool := false
  snrBefore : Nat := 0
  oldTrims : List Word := []
  degBad : Nat := 0
  degGood : Nat := 0
  /-- Frames of OTUC instances of the running second, and those of them with a BIP-8 violation (R145). -/
  secFrames : Nat := 0
  secErrored : Nat := 0
  pm : Pm := {}
  snap : Pm := {}
  badSlices : List (Nat × Nat) := []
  badMem : Bool := false
  deriving DecidableEq, Repr

/-- One frame that the transmit modem has taken from the framer: the format and entropy it is coded in, its number in the band
multiframe, training pattern, symbol rate in 0.125 GBd, and the Crosshatch bank that corrects it with its header. -/
structure TxFrame where
  fmt : Nat
  ent : Nat
  i : Nat
  tpat : Nat
  rate : Nat
  bank : Option (Nat × Word)
  deriving DecidableEq, Repr

/-- The transmit modem of a carrier (chapter 7). -/
structure TxModem where
  /-- The frame taken last; none while the modem sends nothing. -/
  last : Option TxFrame := none
  /-- The data stream from bit `from_` of the band multiframe on, and the codeword to encode next with the leading dimensions of it
  that are not sent (R168, R191). -/
  from_ : Nat := 0
  bits : List Bool := []
  word : Nat := 0
  cut : Nat := 0
  /-- Dimensions encoded, and the frames that wait for theirs (R167). -/
  dims : List Int := []
  frames : List TxFrame := []
  /-- The instant in ns of symbol 0, the rate in 0.125 GBd, the symbols formed from number `first` on, and the frames of them that
  Crosshatch has not corrected yet (R120, R302). -/
  start : Nat := 0
  rate : Nat := 0
  first : Nat := 0
  syms : List Pol := []
  done : List TxFrame := []
  /-- Corrected symbols from number `outFirst` on, the DAC sample to be sent next, and the turns of the fine frequency shift at it
  (R197 to R200). -/
  outFirst : Nat := 0
  out : List Pol := []
  sample : Nat := 0
  turns : Rat := 0
  /-- 400ZR: client bits that wait for a frame of the interoperable mode (R201). -/
  zr : List Bool := []
  deriving DecidableEq, Repr

/-- A received carrier frame whose data is not decoded yet: its number counted from delineation, and whether its training block
stood at its expected position. -/
structure RxPending where
  i : Nat
  trainAt : Bool
  deriving DecidableEq, Repr

/-- A recovered frame that waits for Crosshatch cancellation (R303): its symbols, the measurement of the mode in use, cycle slips,
the offset in MHz and the clock offset in 0.01 ppm. -/
structure RxHeld where
  syms : List Pol
  use : Metric
  slips : Nat
  offset : Int
  timing : Int
  deriving DecidableEq, Repr

/-- The receive modem of a carrier (chapter 10): each stage of Table 10-1 with the samples that wait before it, and its loops. -/
structure RxModem where
  /-- The stages run on the mode in use, since a search has locked. -/
  run : Bool := false
  /-- The last input samples, the place of the next working sample behind them, and the turns of the derotation there (R268). -/
  tail : List Pol := []
  place : Rat := 0
  turns : Rat := 0
  /-- The symbol clock offset in 0.01 ppm (R270). -/
  clock : Rat := 0
  /-- Dispersion stage and equaliser: the samples that their next FFT begins with (R271, R274). -/
  cdIn : List Pol := []
  eqIn : List Pol := []
  /-- The 4,096 tap sets of the equaliser, and the matrix of the polarisation tracker (R274, R277). -/
  taps : List Jones := []
  tracker : Jones := {}
  /-- Spectra of equalised blocks that wait for their update, each with the number of the first sample kept of it (R276). -/
  blocks : List (Nat × List Pol) := []
  /-- Equalised samples from number `eqBase` on, and the place of the next frame's symbol 0 among them. -/
  eqBase : Nat := 0
  eqOut : List Pol := []
  symAt : Rat := 0
  /-- Samples about the training blocks of the running search for each candidate, newest first (R275). -/
  train : SMap (List (List Pol)) := []
  /-- Carrier recovery: frequency in MHz, phase of the loop and of each polarisation in turns (R278, R279). -/
  freq : Rat := 0
  phase : Rat := 0
  phaseX : Rat := 0
  phaseY : Rat := 0
  /-- Recovered frames that wait for cancellation, and the tentative decisions of this and earlier frames with the instant in ns of
  the first of them (R303). -/
  held : List RxHeld := []
  decided : List Pol := []
  decidedAt : Rat := 0
  /-- Noise variance of each polarisation on the pilots of the frame before (R291). -/
  noiseX : Rat := 0
  noiseY : Rat := 0
  /-- 400ZR: client bits received, and whether frame alignment is lost (R174, R290). -/
  zr : List Bool := []
  zrLost : Bool := false
  /-- The number of the frame that ends, counted from delineation; LLRs from the start of codeword `llrWord` on; codewords whole, for
  the pool (R170, R172). -/
  frame : Nat := 0
  llrWord : Nat := 0
  llrs : List Int := []
  ready : List (Nat × List Int) := []
  /-- How often delineation has been found: codewords of an earlier one are no part of this one's stream. -/
  gen : Nat := 0
  /-- Decoded codewords by number, frames that wait for them, and the number of the first frame once a slice has told it. -/
  words : SMap (List (List Bool)) := []
  frames : List RxPending := []
  base : Option Nat := none
  /-- Slices of the running band multiframe, and of the one that has ended whole (R135). -/
  slices : List (List Byte) := []
  ended : List (List Byte) := []
  /-- OTUCn-M bytes that wait to make up a frame, the MFAS and OMFI expected next, and aligned frames whose ODUCn overhead and slots
  have not been taken yet, each with its MFAS and OMFI (R128, R142). -/
  otu : List Byte := []
  mfas : Option Nat := none
  omfi : Nat := 0
  otuFrames : List (List Byte × Nat × Nat) := []
  /-- Estimates of the running window: frames, frames in LOCKED, noise power and pilots, sums of frequency and clock (R293). -/
  estFrames : Nat := 0
  estLocked : Nat := 0
  estNoise : Rat := 0
  estPilots : Nat := 0
  estFreq : Rat := 0
  estClock : Rat := 0
  deriving DecidableEq, Repr

/-- A client lane (chapter 2). -/
structure Lane where
  ready : Bool := false
  trained : Bool := false
  los : Bool := false
  /-- The transmitter's five taps as training has set them, in steps from where it began (R49). -/
  taps : List Int := []
  /-- The requests that this lane's receiver made for the module's taps, latest first. -/
  asked : List TapAsk := []
  deriving DecidableEq, Repr

/-- A client port beside its registers (chapter 2). -/
structure Port where
  aligned : Bool := false
  fec : Bool := false
  replaced : Bool := false
  /-- The last 58 bits of the descrambler and of the scrambler, newest first, symbols of each lane and bits to be sent that are short of
  a whole codeword (R47). -/
  descr : List Bool := []
  scr : List Bool := []
  inSyms : List (List (BitVec 10)) := []
  outBits : List Bool := []
  /-- 257B blocks sent since the last alignment markers. -/
  sinceAm : Nat := 0
  deriving DecidableEq, Repr

/-- A cluster's commit machinery beside CLUS_CMT (R16 to R20, R85). -/
structure Clus where
  reset : Bool := false
  locked : Bool := false
  txDone : Bool := false
  rxDone : Bool := false
  flowsLeft : List Nat := []
  /-- A committed change procedure: the locked shadow is taken at the next boundary, without a second check (R87). -/
  due : Bool := false
  deriving DecidableEq, Repr

/-- A die (R12, R547). -/
structure Die where
  lost : Bool := false
  reset : Bool := false
  deriving DecidableEq, Repr

/-- The switch beside its registers (chapter 3). -/
structure Switch where
  rxArm : Option Word := none
  annSeen : Option Word := none
  diffRun : Nat := 0
  rxLate : Bool := false
  copyRxStopped : Bool := false
  /-- Clusters whose acknowledgement was outstanding when a change was aborted (R86). -/
  lateAcks : List Cluster := []
  deriving DecidableEq, Repr

/-- A running change procedure (R84 to R88, R376): the affected clusters, those that have not acknowledged, those whose
acknowledgement is missing (R88), whether one refused, band multiframe b, the index of the command it serves, and the
shared configuration it brings, if any. `granted`: the set is held for it; `prepared`: firmware has committed it. -/
structure Change where
  clusters : List Cluster
  waiting : List Cluster
  missing : List Cluster
  refused : Bool
  boundary : Word
  swap : Bool
  granted : Bool
  prepared : Bool
  cmd : BitVec 16
  shared : Option (List Pair)
  deriving DecidableEq, Repr

/-- A codeword in a decoder pool (chapter 6): carrier index, times in ns, iterations run, mark; its number in its carrier's band
multiframe, the LLR of each code bit (R170), and the hard decisions of the last iteration and of the one before, in blocks of 512
bits; its number among the arrivals of the pool, and the delineation it belongs to. -/
structure Cw where
  x : Nat
  arr : Nat
  deadline : Nat
  emit : Nat
  iter : Nat
  marked : Bool
  seq : Nat := 0
  gen : Nat := 0
  w : Nat := 0
  llr : List Int := []
  now : List Nat := []
  before : List Nat := []
  deriving DecidableEq, Repr

/-- A decoder pool beside its registers. -/
structure Pool where
  now : Nat := 0
  ready : List Cw := []
  units : SMap Cw := []
  held : SMap Cw := []
  out : List Cw := []
  /-- Units whose fence waits for the codeword they hold to enter the output buffer (R182). -/
  fenceAfter : List Nat := []
  /-- Codewords that have arrived, to tell apart those of one moment (R179). -/
  count : Nat := 0
  deriving DecidableEq, Repr

/-- A transaction of the engine control bus (R239 to R241): its class (0 to 3), whether an ENGINE command waits for it, and
the carrier whose gain step it sets. -/
structure Spi where
  cls : Nat
  read : Bool
  addr : BitVec 16
  data : BitVec 16
  ring : Bool
  gain : Option Nat
  retried : Bool
  deriving DecidableEq, Repr

/-- Levels of the SPI and I2C pads of an engine port. -/
structure EnginePads where
  sck : Bool
  mosi : Bool
  csN : Bool
  scl : Bool
  sda : Bool
  deriving DecidableEq, Repr

/-- A calibration factor in the unit of its limits (Table 19-5), and the temperature in 0.01 °C at which it was measured. -/
structure Factor where
  value : Int
  temp : BitVec 16
  deriving DecidableEq, Repr

/-- A background calibration run (R232 to R234, R530): position 0 is step 1 of Table 8-3, position 1 + i is slice i, and 65 is
past the last one; `spare` holds while the spare fills that position. -/
structure CalRun where
  startTemp : BitVec 16
  position : Nat
  spare : Bool
  carriers : List Nat
  /-- The sets of factors that the run has accepted so far, by set (R532). -/
  found : SMap (List Factor) := []
  deriving DecidableEq, Repr

/-- The housekeeping ADC (R261 to R265). -/
structure Hk where
  current : Nat := 0
  urgent : List Nat := []
  deriving DecidableEq, Repr

/-- A Drypoint stage: its delay lines, newest first, and whether an odd number of inputs has come (R466). -/
structure DpStage where
  i : List Int := []
  q : List Int := []
  odd : Bool := false
  deriving DecidableEq, Repr

/-- A Drypoint chain beside its registers (R466 to R472): its stages, the envelope e as env / 2^envExp, the window's peak, sum
of squares and outputs so far, and the outputs that a capture has stored. -/
structure DpChain where
  /-- Samples of the tapped component that have come and are not filtered yet, oldest first. -/
  input : List (Int × Int) := []
  stages : SMap DpStage := []
  env : Nat := 0
  envExp : Nat := 0
  peak : Nat := 0
  squares : Nat := 0
  n : Nat := 0
  stored : Nat := 0
  deriving DecidableEq, Repr

/-- A region beside its registers: front end, converters, Drypoint chain (chapters 8, 9, 17, 18). -/
structure Region where
  queue : List Spi := []
  bus : Option Spi := none
  waiting : List Spi := []
  i2c : Bool := false
  /-- The SDA line as the controller last found it. -/
  sda : Sda := .high
  swing : Nat := 20
  capRun : Bool := false
  /-- Its capture has completed and has not been written to the capture ring yet (R408). -/
  capDone : Bool := false
  /-- Codes that its converters gave since the capture started (R224). -/
  capCodes : SMap (List Byte) := []
  run : Option CalRun := none
  full : Bool := false
  /-- Sets of calibration factors in force: set 65 k + i is slice i of ADC k of the region, i = 64 the spare, and set 1,560 + k its DAC
  k; those not listed are the factory record's (R220, R532). -/
  factors : SMap (List Factor) := []
  /-- The engine port pads at the values they are latched at (R498). -/
  padHeld : Option EnginePads := none
  hk : Hk := {}
  /-- Taps of the Drypoint bank in use; DP_COEF holds those of the other one (R468). -/
  taps : SMap (BitVec 16) := []
  dp : DpChain := {}
  deriving DecidableEq, Repr

/-- The timing core beside its registers (chapter 12). CV is in 10^-12. -/
structure Timing where
  cv : Int := 0
  /-- Applied CV summed over the loop updates of this second, their number, and whether the whole second was good (R348). -/
  cvSum : Int := 0
  cvN : Nat := 0
  secondOk : Bool := false
  /-- Candidate in use. -/
  inUse : Option Nat := none
  /-- Newest first; `none` is an entry that is not valid. -/
  history : List (Option Int) := []
  /-- Last phase error and the one before, in 0.25 ns, the phase offset of the reference that the loop has absorbed, and whether a
  sample waits for the loop (R334, R343). -/
  perr : Int := 0
  perrOld : Int := 0
  absorbed : Option Int := none
  sampled : Bool := false
  /-- Candidates that requalify without a wait-to-restore (R351). -/
  requal : List Nat := []
  swCv : Option Int := none
  swPhase : Option Int := none
  /-- The output time counter, and how far it stands ahead of its target, in 10^-7 ns (R352). -/
  counter : Int := 0
  lead : Int := 0
  /-- TM_CTRL has been written since the last commit. -/
  modeWritten : Bool := false
  deriving DecidableEq, Repr

/-- A cell of a Registration link before it is numbered (Table 13-1). -/
structure CellBody where
  type : Byte
  flags : Byte
  payload : List Byte
  deriving DecidableEq, Repr

/-- A Registration link beside its registers (chapter 13). -/
structure Link where
  /-- Message cells that wait, the next sequence numbers, and the band-set times at which TIME was last sent and last came (R361,
  R364). -/
  cells : List CellBody := []
  seqs : SMap Nat := []
  /-- Lanes whose running disparity is positive (R357). -/
  rdPlus : List Nat := []
  timeSent : BitVec 64 := 0
  timeHeard : BitVec 64 := 0
  misses : List Nat := []
  readyNear : List Nat := []
  readyFar : List Nat := []
  hello : Option Hello := none
  message : List (List Byte) := []
  messageType : Nat := 0
  burst : Bool := false
  lastSeq : SMap Nat := []
  deriving DecidableEq, Repr

/-- The band set beside its registers (chapter 13). -/
structure BandSet where
  /-- Consecutive HELLO periods in which every present package agreed, and the links heard in this one (R372). -/
  agree : Nat := 0
  heard : List Nat := []
  shared : Shared := ⟨[], [], 0⟩
  /-- A configuration received whole, to be adopted (R374). -/
  sync : Option (Word × Shared) := none
  /-- The package that CFG_SYNC asks, and how often it was repeated. -/
  syncAsk : Option Nat := none
  syncTries : Nat := 0
  /-- At the leader: the package whose change holds the set (R376). -/
  holder : Option Nat := none
  sumWait : List Nat := []
  sumServe : List SumReq := []
  /-- Remote summary streams present: package, whether receive, carrier (R327). -/
  streams : List (Nat × Bool × Nat) := []
  /-- Samples of each remote stream, newest first, with their band-set time in 250 ps (R326). -/
  samples : SMap (List (Nat × Nat)) := []
  /-- The time of the next summary sample sent, by link and direction (R363). -/
  sumNext : SMap Nat := []
  peers : SMap StateMsg := []
  /-- Band-set time in 250 ps, with the ps past it, the correction still to be slewed in ps, and whether the next measured
  offset steps it (R375). -/
  time : BitVec 64 := 0
  frac : Nat := 0
  slew : Int := 0
  stepDue : Bool := false
  deriving DecidableEq, Repr

/-- A command that has won arbitration (R402) and whether a cancel came after it (R401). -/
structure Granted where
  idx : BitVec 16
  desc : Desc
  late : Bool
  drop : Bool
  deriving DecidableEq, Repr

/-- One ring (Table 14-3 and R394 to R408). -/
structure Ring where
  baseLo : Word := 0
  baseHi : Word := 0
  cfg : Word := 4
  idx : BitVec 16 := 0
  db : BitVec 16 := 0
  stat : Word := 0
  fetched : List (BitVec 16 × Desc) := []
  granted : Option Granted := none
  cancelled : List (BitVec 16) := []
  recvs : List (BitVec 16 × Desc × List Byte × Bool) := []
  lost : Nat := 0
  cnt : Nat := 0
  seq : Nat := 0
  modBusy : Bool := false
  modHeld : Bool := false
  deriving DecidableEq, Repr

/-- What a tenant holds (chapter 14): its grants, each of a flow, a port and line slots. -/
structure Tenant where
  grants : List (Nat × Nat × List Nat) := []
  deriving DecidableEq, Repr

/-- A ring engine's arbitration (R402). -/
structure Engine where
  lastTenant : Nat := 0
  ownerLast : Bool := false
  deriving DecidableEq, Repr

/-- An access that waits for a die window under reset (R547) or a waking region (R36); one through a broadcast aperture keeps
the members of its acceptance (R33). -/
structure Waiting where
  master : Master
  addr : Addr
  write : Option Word
  members : Option (List Nat)
  deriving DecidableEq, Repr

/-- An access that the matrix never answers (R418): its address as MX_ERR_ADR records it. -/
structure Unanswered where
  master : Master
  adr : Word
  read : Bool
  deriving DecidableEq, Repr

/-- The control matrix beside its registers (chapter 15): accesses never answered, accesses that wait for a target or for an ID of
their master (R417), and the master granted last, after which a round goes on (R413, R414). -/
structure Matrix where
  unanswered : List Unanswered := []
  windowWait : List Waiting := []
  regionWait : List Waiting := []
  idWait : List Waiting := []
  lastGrant : Nat := 8
  deriving DecidableEq, Repr

/-- A Stylus core's side of the interrupt controller (R426 to R433), with its interrupt enable and the pcs and enables that deliveries
saved, newest first. Hardware sets and clears under a hold wait in `held`, oldest first. The code that a core runs is outside the
model. -/
structure Core where
  stack : List Nat := []
  clock : Bool := true
  running : Bool := false
  held : List (Nat × Bool) := []
  pc : Word := 0
  ie : Bool := false
  saved : List (Word × Bool) := []
  deriving DecidableEq, Repr

/-- An image slot of the store die (chapter 16, "Secure boot"). -/
structure Slot where
  img : Option Image := none
  trial : Bool := false
  ran : Bool := false
  confirmed : Nat := 0
  deriving DecidableEq, Repr

/-- The trust core (chapter 16). Slots are indexed 2 × kind + slot, kinds 0 T, 1 G, 2 O. -/
structure Trust where
  dwk : Option (BitVec 256) := none
  ownerHash : Option (BitVec 384) := none
  peers : List (BitVec 64) := []
  counter : BitVec 64 := 0
  slots : SMap Slot := []
  floors : SMap Nat := []
  running : SMap Nat := []
  writing : Option (Nat × Image) := none
  /-- Report pairs drawn, the last of which counts, and whether one is being drawn (R451). -/
  pair : Nat := 0
  drawing : Bool := false
  /-- Nonces of the ATTEST requests served since the last reset (R447). -/
  nonces : List (List Byte) := []
  /-- Zeroizations that wait and the one that runs: scope, and whether a mailbox request waits for it. -/
  zqueue : List (Nat × Bool) := []
  zscope : Option (Nat × Bool) := none
  /-- A device reset waits for the zeroization: whether RESET_N ordered it (R541). -/
  resetAfter : Option Bool := none
  zLow : Bool := false
  /-- A sensor trip holds (R461). -/
  tripHeld : Bool := false
  provisioned : Bool := false
  approved : Bool := false
  adrLo : Word := 0
  adrHi : Word := 0
  len : Word := 0
  svc : Word := 0
  /-- MB_SVC as a doorbell took it, until the service runs. -/
  req : Option Word := none
  rsp : Word := 0
  res : Word := 0
  confirms : Nat := 0
  deriving DecidableEq, Repr

/-- A counter block beside PC_SEL, PC_CTRL, PC_OVF and PC_SSEQ (Table 17-6); counter 8 is the cycle counter. -/
structure PcBlk where
  cyc : Nat := 0
  cnt : SMap Nat := []
  snapCyc : Nat := 0
  snap : SMap Nat := []
  latch : SMap Nat := []
  deriving DecidableEq, Repr

/-- A voltage step of a rail (R501, R502). -/
structure AvsStep where
  prev : Nat
  target : Nat
  raise : Bool
  again : Bool
  deriving DecidableEq, Repr

/-- The power controller beside its registers (chapter 18). -/
structure Power where
  /-- The state that a running transition leads to, and whether its entry window is open (R492). -/
  to_ : Option Nat := none
  window : Bool := false
  /-- A wake source that follows at once on the entry that runs (R492). -/
  wakeDue : Option Nat := none
  /-- A state whose transition waits for a voltage step (R503). -/
  after : Option Nat := none
  steps : SMap AvsStep := []
  /-- Last VOUT_COMMAND of each rail in mV, and when its last lowering step began in ns, plus 1 (R501). -/
  vout : SMap Nat := []
  lowered : SMap Nat := []
  /-- Fractions of a millisecond of the wake timer, in ticks. -/
  msLeft : Nat := 1000
  /-- The links are idle for SLEEP or DEEP (R487). -/
  linkIdle : Bool := false
  /-- TSTATE[2:0] and PULSE_OUT0 to PULSE_OUT3 at the values they are latched at (R498). -/
  padHeld : Option (Nat × List Bool) := none
  /-- Doorbells recorded while the device is gated: descriptors still to be read (R493). -/
  dbWait : List (Nat × RingKind × BitVec 16 × Nat) := []
  deriving DecidableEq, Repr

/-- The fault collector beside its registers (chapter 19): times of CLUSTER and REGION reactions (R516). -/
structure Faults where
  acted : List (Nat × Nat × Nat) := []
  deriving DecidableEq, Repr

/-- A calibration record of the store die (R533): its sequence number, the factors and BN_TREF_g of each region, the regions whose
factors are the factory record's, and the CRC-32 written last. -/
structure CalRec where
  seq : Word
  factors : List (SMap (List Int))
  tref : List Word
  fact : Nat
  crc : Word
  deriving DecidableEq, Repr

/-- Burnish and the calibration store (R528 to R534). -/
structure Burnish where
  /-- The slot a store writes (true is B) and its record; the slot is invalid meanwhile. -/
  storing : Option (Bool × CalRec) := none
  queued : Bool := false
  slotA : Option CalRec := none
  slotB : Option CalRec := none
  lastStore : Option Nat := none
  /-- Until when no background run of a region starts again after one was abandoned (R530). -/
  holdRun : SMap Nat := []
  deriving DecidableEq, Repr

/-- The console's FIFOs (R437). -/
structure Uart where
  rx : List Byte := []
  tx : List Byte := []
  deriving DecidableEq, Repr

/-- What ALIVE does (R519). -/
inductive Alive where
  | still | wave | undefined
  deriving DecidableEq, Repr

/-- Where start-up stands (R535 to R537, R444, R489). -/
inductive Boot where
  | held | running | recovery | ready | off
  deriving DecidableEq, Repr

/-- An event that a rule raises and for which Table 14-9 lists no record type (log entry 6). -/
inductive Why where
  | commitRefused | swapRefused | swapLate | xhArmRefused | xhArmLate | bandMismatch
  | receiveLate | noBank | trimClamp | spiAbandoned | i2cAbandoned | sdaStuck | ready | entryAbort | avsFallback
  | matrixTimeout | keyEvent | rotation | dieLost | linkEvent | bandSet | timing | protection
  | modeChange | spotMismatch | zeroized | agreementFailed | context | coreEvent | neighbour | clientEvent | frontEnd | dpEvent
  deriving DecidableEq, Repr

/-- The kind of a ring record (Table 14-9). `other` stands for an event for which that table lists no type. -/
inductive RecKind where
  | completion | defect | reject | lost | fault | ring | block
  | boh | est | pm
  | other (why : Why)
  deriving DecidableEq, Repr

/-- An event or telemetry record (Table 14-9). -/
structure Rec where
  kind : RecKind
  code : Nat
  die : Nat
  block : Nat
  obj : Nat
  data : List Nat
  deriving DecidableEq, Repr

/-- A message on the Registration link (Table 13-2). -/
inductive LinkMsg where
  | hello (h : Hello)
  | epochReq (k : Fin 4)
  | grant | busy
  | epochSet (epoch : Word) (cfg : Shared)
  | cfgSyncReq
  | cfgSync (epoch : Word) (cfg : Shared)
  | time
  | state (m : StateMsg)
  | sumReq (r : SumReq)
  | sumAck
  | ctx (record : List Byte)
  | ctxAck (f : Nat) (dir : Dir) (ok : Bool)
  deriving DecidableEq, Repr

/-- A GCC2 message sent on a flow (Table 16-5). -/
inductive Gcc2 where
  | init (id : BitVec 32) (dirs : Byte) (nonce : List Byte)
  | resp (id : BitVec 32) (nonce : List Byte)
  | ready (id : BitVec 32) (role : Nat) (confirm : BitVec 128)
  | abort (id : BitVec 32)
  deriving DecidableEq, Repr

/-- A symbol of a Registration link lane before its 8B/10B code (R357): K28.5, K28.0, K28.1 and K28.3, and data. -/
inductive LinkSym where
  | comma | filler | marker | announce
  | data (b : Byte)
  deriving DecidableEq, Repr

/-- What the device sends to the world outside, newest first in `State.out`. -/
inductive Out where
  /-- A record written to an RB48-produced ring: tenant, ring, index, sequence number, phase, timestamp. -/
  | record (t : Nat) (r : RingKind) (idx : BitVec 16) (seq : Nat) (phase : Bool) (stamp : BitVec 64) (rec : Rec)
  /-- Write-back of `res` of a descriptor. -/
  | res (t : Nat) (r : RingKind) (idx : BitVec 16) (v : Word)
  /-- Write-back of `st` of a descriptor. -/
  | st (t : Nat) (r : RingKind) (idx : BitVec 16) (v : Byte)
  /-- Bytes written to a host buffer. -/
  | buffer (t : Nat) (bytes : List Byte)
  /-- The `n` codes of a converter written to the capture buffers (R408): those it gave first, then free values from a count on, as
  `captureCode` gives them, of a DAC or not. -/
  | codes (g conv n : Nat) (known : List Byte) (free : Nat) (dac : Bool)
  | msix (fn : Nat) (vec : Nat)
  /-- A read completing to its master. -/
  | reply (m : Master) (v : Word)
  /-- A read of a descriptor requested of the host. -/
  | fetch (t : Nat) (r : RingKind) (idx : BitVec 16)
  /-- A transaction on an engine control bus: its clocks and their period in ns. -/
  | spi (g : Nat) (read : Bool) (addr data : BitVec 16) (clocks period : Nat)
  /-- A transfer on an I2C bus, at 400 kHz or 100 kHz (R244). -/
  | i2c (g : Nat) (fast read : Bool) (addr len : Nat) (data : List Byte)
  /-- Nine clocks and a STOP on an I2C bus (R245). -/
  | i2cRecover (g : Nat)
  | link (j : Nat) (msg : LinkMsg)
  /-- A message to a package of the band set. -/
  | toPkg (k : Nat) (msg : LinkMsg)
  /-- What a lane of a Registration link sends, in 10-bit codes (R357): training frames (R365, R370), a skip set and a block of cells
  (R359, R361), or K28.3 four times in place of a skip set (R369). -/
  | lane (j lane : Nat) (codes : List (BitVec 10))
  /-- A client lane's request for its module's transmitter taps (R49). -/
  | tapAsk (l : Nat) (a : TapAsk)
  /-- A message queued on the GCC2 of a flow (R452). -/
  | gcc2 (f : Nat) (msg : Gcc2)
  /-- Codes of the four DACs of a carrier, XI, XQ, YI and YQ (R215). -/
  | dac (c : Nat) (codes : List (List Byte))
  /-- What a client port sends on its lanes in 10-bit symbols of RS(544,514), or electrical idle (R47, R60, R61). -/
  | client (p : Nat) (lanes : List (List (BitVec 10)))
  | clientIdle (p : Nat)
  /-- Information bits of one decoded inner codeword, by outer codeword (R164). -/
  | codeword (m x : Nat) (words : List (List Bool))
  /-- VOUT_COMMAND of a rail's regulator: its PMBus address, the speed, and the voltage in ULINEAR16 (R500). -/
  | pmbus (rail : Nat) (addr : Nat) (fast : Bool) (code : Nat)
  | vector (core : Nat) (addr : Word)
  | uart (b : Byte)
  /-- What BC_MISO carries, clock by clock, in a transaction of the board controller port (R506). -/
  | bc (bits : List Bool)
  /-- A mailbox response written to the host buffer: service, buffer address and its figures. -/
  | mailbox (svc addr : Nat) (figures : List Nat)
  /-- A context record exported wrapped (R111). -/
  | context (f : Nat) (dir : Dir) (wrapped : List Byte)
  deriving DecidableEq, Repr

/-- Everything the package holds beside its connection memory and its decoder pools. -/
structure Dev where
  /-- Capture-island time in ns (R27, GLB_TIME). -/
  time : Nat := 0
  /-- The count that freshens free values (the model's own field). -/
  free : Nat := 0
  capTick : BitVec 16 := 0
  /-- The time at which the current package band multiframe started (R86). -/
  bmfAt : Nat := 0
  /-- Words of BAR0 as a host reads them; for cluster configuration the shadow copy (R15). -/
  regs : SMap Word := []
  /-- Active copies of cluster configuration (R15). -/
  act : SMap Word := []
  /-- Active copies for the receive direction of fields that serve both directions (Table 1-3), and the active CIPH_CTRL of
  cipher cluster 1 (Table 4-5, R119). -/
  actRx : SMap Word := []
  /-- Words of the interrupt controller (Table 15-6). -/
  ic : SMap Word := []
  /-- Sources whose line is high, and sources under moderation (R430, R433). -/
  lines : List Nat := []
  modBusy : List Nat := []
  clus : SMap Clus := []
  dies : SMap Die := []
  lanes : SMap Lane := []
  ports : SMap Port := []
  carriers : SMap Carrier := []
  txm : SMap TxModem := []
  rxm : SMap RxModem := []
  /-- The OTUC frame that the transmit framer forms next: MFAS, and its place in the OPUCn multiframe of 20 frames (R65, R128). -/
  otuMfas : Nat := 0
  otuOmfi : Nat := 0
  flows : SMap Flow := []
  /-- The time in ns at which the spot verifier of each cipher cluster is free (R117). -/
  spotFree : SMap Nat := []
  oh : SMap Overhead := []
  /-- Crosshatch banks: key ((2c + direction) × 2 + bank) × 4096 + word (R306). -/
  banks : SMap Word := []
  /-- Drypoint buffers and converter capture memories: key g × 2^20 + word. -/
  dpBuf : SMap Word := []
  /-- The offset report last sent and its sequence number (Table 5-2). -/
  ofsLast : List (BitVec 16) := List.replicate 48 0x8000#16
  ofsSeq : Byte := 0
  /-- Bridges (16x + y) whose transfer is being retried (R22), with the time of its first timeout plus 1. -/
  bridgeRetry : SMap Nat := []
  /-- Fenced frequency-bin engines, as (carrier, bin) (R13, Table 20-2). -/
  binFence : List (Nat × Nat) := []
  sw : Switch := {}
  chg : Option Change := none
  regions : SMap Region := []
  tm : Timing := {}
  links : SMap Link := []
  bs : BandSet := {}
  tenants : SMap Tenant := []
  rings : SMap Ring := []
  engines : SMap Engine := []
  /-- NumVFs: functions 1 to this number are enabled (R386). -/
  numVfs : Nat := 256
  /-- Capture buffers: bytes of a completed capture not written yet, and captures written (R408). -/
  capLeft : Nat := 0
  capCount : Nat := 0
  telem : Option (Nat × Nat) := none
  mx : Matrix := {}
  cores : SMap Core := []
  uart : Uart := {}
  tc : Trust := {}
  pcs : SMap PcBlk := []
  /-- PC_GLB's freeze in force and a clear that waits for its tick (R482). -/
  pcGlbFrz : Bool := false
  pcGlbClr : Bool := false
  timeLatch : SMap Word := []
  pw : Power := {}
  fc : Faults := {}
  bn : Burnish := {}
  boot : Boot := .held
  alive : Alive := .still
  safe : Bool := false
  resetLow : Bool := true
  /-- The ready event waits for the owner's event ring (R537). -/
  readyDue : Bool := false
  /-- Parts that failed Proof at the last boot by RESET_N (R538). -/
  proof : List ProofPart := []
  /-- Core 3 is held in reset by a Proof failure of its memory (Table 20-2). -/
  core3Bad : Bool := false
  pwrReq : Bool := true
  /-- The board controller port serves: from the first boot after a power-on reset (R505). -/
  bcUp : Bool := false
  bcRegs : SMap Word := []
  /-- The Stylus memories (Table 15-4), as far as anything outside the cores' code has written them. -/
  mem : List Host.Cell := []
  /-- Everything the device has sent, newest first (the model's own field). -/
  out : List Out := []
  deriving DecidableEq, Repr

/-- Connection memory and the carrier base tables (R63, R70): the one memory of the switch. The key of an entry is
page × 2^15 + direction × 2^14 + slot (or carrier); direction 1 is receive. -/
structure Conn where
  pages : SMap Word := []
  bases : SMap Word := []
  deriving DecidableEq, Repr

/-- The state of the package. -/
structure State where
  /-- Commands that wait, first in, first out (the block form's own field). -/
  pending : List Instr := []
  dev : Dev := {}
  conn : Conn := {}
  pools : SMap Pool := []
  deriving DecidableEq, Repr

/-- Why the machine stops with a fault. -/
inductive Fault where
  /-- Raised by no command: the RB48 reports every failure in its own registers and goes on. Safe. -/
  | none
  deriving DecidableEq, Repr

/-- Why a command has no meaning here. -/
inductive Refusal where
  /-- Raised by an arm of `exec` that has no meaning yet. Safe. -/
  | notModelled (mnemonic : String)
  deriving DecidableEq, Repr

/-- The machine at the instant of a power-on reset: supplies good, RESET_N low, nothing booted (R535, R539, R540). -/
def State.reset : State := {}

end Sys2Proof.Machine
end

