-- ==== Sys2Proof/Machine/LineCode.lean ====
section
/-!
DEFINITION. The line code of a Registration link: 8B/10B with running disparity, as IEEE 802.3 Clause 36 gives it (R357, log entry 115).
-/
namespace Sys2Proof.Machine

/-- The 6-bit codes abcdei of D.0 to D.31 at negative disparity. -/
def codes6 : List (BitVec 6) :=
  [0b100111, 0b011101, 0b101101, 0b110001, 0b110101, 0b101001, 0b011001, 0b111000,
   0b111001, 0b100101, 0b010101, 0b110100, 0b001101, 0b101100, 0b011100, 0b010111] ++
  [0b011011, 0b100011, 0b010011, 0b110010, 0b001011, 0b101010, 0b011010, 0b111010,
   0b110011, 0b100110, 0b010110, 0b110110, 0b001110, 0b101110, 0b011110, 0b101011]

/-- The 4-bit codes fghj of x.0 to x.7 at negative disparity. -/
def codes4 : List (BitVec 4) := [0b1011, 0b1001, 0b0101, 0b1100, 0b1101, 0b1010, 0b0110, 0b1110]

/-- Bits at 1. -/
def weight {w : Nat} (v : BitVec w) : Nat := ((List.range w).filter fun i => v.getLsbD i).length

/-- x.7 takes its alternate code where the other would make a run of five. -/
def alternate7 (rd : Bool) (x : Nat) : Bool :=
  if rd then decide (x = 11 ∨ x = 13 ∨ x = 14) else decide (x = 17 ∨ x = 18 ∨ x = 20)

/-- A data symbol at running disparity `rd`, true for positive: its code, a the most significant bit and first sent, and the disparity
after it. -/
def codeData (rd : Bool) (b : Byte) : BitVec 10 × Bool :=
  let x := b.toNat % 32
  let y := b.toNat / 32
  let s := codes6.getD x 0
  let s := if rd && (decide (weight s ≠ 3) || decide (x = 7)) then ~~~s else s
  let rd1 := xor rd (decide (weight s ≠ 3))
  let f := if y = 7 ∧ alternate7 rd1 x then 0b0111 else codes4.getD y 0
  let f := if rd1 && (decide (weight f ≠ 2) || decide (y = 3)) then ~~~f else f
  (s ++ f, xor rd1 (decide (weight f ≠ 2)))

/-- A control symbol by its code at negative disparity. -/
def codeControl (rd : Bool) (c : BitVec 10) : BitVec 10 × Bool := (if rd then ~~~c else c, xor rd (decide (weight c ≠ 5)))

/-- A symbol of a lane: K28.5, K28.0, K28.1, K28.3, or data. -/
def LinkSym.code (rd : Bool) : LinkSym → BitVec 10 × Bool
  | .comma => codeControl rd 0b0011111010
  | .filler => codeControl rd 0b0011110100
  | .marker => codeControl rd 0b0011111001
  | .announce => codeControl rd 0b0011110011
  | .data b => codeData rd b

/-- The symbols of a lane one after the other. -/
def codeLane (rd : Bool) : List LinkSym → List (BitVec 10) × Bool
  | [] => ([], rd)
  | s :: rest =>
    let c := s.code rd
    let r := codeLane c.2 rest
    (c.1 :: r.1, r.2)

end Sys2Proof.Machine
end

