-- ==== Sys2Proof/Machine/RegMap.lean ====
section
/-!
DEFINITION. The register map of BAR0 (chapter 21 and the register tables of every chapter): for each register its base
address, its index strides, its fields with access codes (Table 0-4), ranges and reset values, and the kind of cluster
whose configuration it is (R15). The interrupt controller (Table 15-6), the ring blocks (Table 14-3) and the owner
mailbox (Table 16-3) lie outside BAR0 and have tables of their own here.
-/
namespace Sys2Proof.Machine

/-- The registers of the manual, by name. -/
inductive RegId where
  | glbId | glbScr | glbEpoch | glbTimeLo | glbTimeHi | rstCtrl | rstStat | temp | rejStat
  | cgrpLo | cgrpHi | bcStat
  | pwrCtrl | pwrStat | pwrCfg | pwrReg | pwrRstat | pwrTmr | padRelease | pwrLd | avsCtrl | avsRail | avsVout
  | fcStatLo | fcStatHi | fcCls | fcSuppLo | fcSuppHi | fcCtrl | fcInj | fcEcc | fcScrub
  | bnCtrl | bnTemp | bnStat | bnTref | bnSlot
  | clusCmt
  | tmCtrl | tmStat | tmLoop | tmLock | tmHold | tmQual | tmSw | tmCv | tmPerr | tmPseq | tmSwph | tmHval
  | refinCfg | tmCand | tmPout | tmUdiv | tmPofs | tmSlew | tmClko
  | mxLpri | mxQos | mxQos8 | mxTo | mxWdog | mxSlice | mxFence | mxErr | mxErrAdr | mxCnt
  | styCtrl | uartCtrl | uartData | uartStat | tcStat
  | pcCycLo | pcCycHi | pcCntLo | pcCntHi | pcSel | pcCtrl | pcOvf | pcInfo | pcScycLo | pcScycHi | pcScntLo | pcScntHi
  | pcSseq | pcGlb
  | frId | bmfCnt | loliThr | degCfg | caCarr | caFlow | cdef | bohRx | fdef | portMap | portStat
  | swCtrl | swTgt | swStat | txOmf | dskCtrl | dskOfs
  | baseStbTx | baseStbRx | baseActTx | baseActRx | pageStbTx | pageStbRx | pageActTx | pageActRx
  | ciphCtrl | spotCtrl | spotStat | ciphFence | flowCstat
  | hiDisc | tenBind
  | laneCtrl | eyeCtrl | eyeRes
  | carrCtrl | carrSym | carrFmt | carrFreq | carrTx | carrZr | carrShp | carrStat | carrPem
  | rxcA | rxcB | rxCtrl | rxCd | rxLoop | rxDmap | rxEstcfg | rxStat | rxModeA | rxModeB | rxEst
  | poolWin | poolStat | poolFloor | poolFence
  | xhCtrl | xhNbLo | xhNbHi | xhTxb | xhTxt | xhTxh | xhTxa | xhRxb | xhRxh | xhRxa | xhRofs | xhStat | xhCbmf | xhTrim
  | xhBankTx | xhBankRx
  | dpCtrl | dpShiftLo | dpShiftHi | dpBank | dpBhdr | dpDet | dpPeak | dpRms | dpEnv | dpPta | dpStat | dpCap | dpCoef
  | dpBuf
  | cvtMode | cvtTxlvl | cvtDacg | cvtDsk | capTick | capCtrl | capMask | capStat | cvtCal | cvtClip
  | feSpi | feProf | feGain | feGman | feRamp | feSteer | feTtrim | feLim | feStat | feTrim | feBus
  | hkCtrl | hkRes | hkTrig | hkSnap | hkCal
  | rlCfg | rlVer | rlSet | rlTofs | rlLink | rlCtrl | rlTap | rlEyeCtrl | rlEyeRes
  | stStat
  | icCfg | icPend | icMask | icCtrl | icStat | icVbase | icEoi | icSrc
  | ringBaseLo | ringBaseHi | ringCfg | ringDb | ringIdx | ringStat | ringCancel
  | mbAdrLo | mbAdrHi | mbLen | mbSvc | mbDb | mbRsp | mbRes
  deriving DecidableEq, Repr

/-- Access codes of Table 0-4 (R8). -/
inductive Acc where
  | rw | ro | wo | w1c | w1s | rws
  deriving DecidableEq, Repr

/-- The values a field may be written with. -/
inductive Rng where
  | any
  | nat (lo hi : Nat)
  | int (lo hi : Int)
  deriving DecidableEq, Repr

/-- One row of a register table. -/
structure FieldDesc where
  fld : Fld
  acc : Acc
  rng : Rng
  rst : Nat
  deriving DecidableEq, Repr

/-- The kind of cluster whose shadow configuration a register is (R15); `none` for a register that acts when written. -/
inductive ClKind where
  | none | carrier | pool | framer | switch | cipher | timing
  deriving DecidableEq, Repr

/-- One register table entry: `dims` are the (stride, count) pairs of its indices, outermost first. -/
structure RegDesc where
  id : RegId
  base : Nat
  dims : List (Nat × Nat)
  cl : ClKind
  fields : List FieldDesc
  deriving DecidableEq, Repr

namespace RegMap

def rw (l w r : Nat) : FieldDesc := ⟨⟨l, w⟩, .rw, .any, r⟩
def rwR (l w lo hi r : Nat) : FieldDesc := ⟨⟨l, w⟩, .rw, .nat lo hi, r⟩
def rwI (l w : Nat) (lo hi : Int) (r : Nat) : FieldDesc := ⟨⟨l, w⟩, .rw, .int lo hi, r⟩
def rws (l w r : Nat) : FieldDesc := ⟨⟨l, w⟩, .rws, .any, r⟩
def rwsR (l w lo hi r : Nat) : FieldDesc := ⟨⟨l, w⟩, .rws, .nat lo hi, r⟩
def rwsI (l w : Nat) (lo hi : Int) (r : Nat) : FieldDesc := ⟨⟨l, w⟩, .rws, .int lo hi, r⟩
def ro (l w r : Nat) : FieldDesc := ⟨⟨l, w⟩, .ro, .any, r⟩
def wo (l w : Nat) : FieldDesc := ⟨⟨l, w⟩, .wo, .any, 0⟩
def woR (l w lo hi : Nat) : FieldDesc := ⟨⟨l, w⟩, .wo, .nat lo hi, 0⟩
def w1c (l : Nat) : FieldDesc := ⟨⟨l, 1⟩, .w1c, .any, 0⟩
def w1cs (l w : Nat) : FieldDesc := ⟨⟨l, w⟩, .w1c, .any, 0⟩
def w1s (l : Nat) : FieldDesc := ⟨⟨l, 1⟩, .w1s, .any, 0⟩
def w1ss (l w : Nat) : FieldDesc := ⟨⟨l, w⟩, .w1s, .any, 0⟩

/-- Strides of a carrier block: modem die, then carrier of the die (R211). -/
def dCarr : List (Nat × Nat) := [(0x400000, 4), (0x20000, 12)]
/-- Strides of the Crosshatch registers of a carrier (R333). -/
def dXh : List (Nat × Nat) := [(0x400000, 4), (0x100, 12)]
/-- Strides of the Drypoint chains: modem die, then region of the die (R464). -/
def dDp : List (Nat × Nat) := [(0x400000, 4), (0x10000, 2)]
/-- Strides of the modem dies. -/
def dMd : List (Nat × Nat) := [(0x400000, 4)]
/-- Strides of the converter dies (R236, R266). -/
def dCvd : List (Nat × Nat) := [(0x100000, 8)]

/-- Fields of CLUS_CMT (Table 1-4). -/
def fClusCmt : List FieldDesc := [w1s 0, ro 1 1 0, w1c 2, wo 3 1, ro 16 16 0]
/-- Fields of REJ_STAT (Table 1-5). -/
def fRej : List FieldDesc := [w1c 0, w1c 1, ro 8 20 0]
/-- Fields of a bank header (Table 11-5) without `ld`. -/
def fHdr (a : Acc) : List FieldDesc :=
  [⟨⟨0, 12⟩, a, .nat 0 2048, 0⟩, ⟨⟨12, 3⟩, a, .any, 0⟩, ⟨⟨16, 7⟩, a, .nat 0 64, 32⟩, ⟨⟨23, 3⟩, a, .nat 0 5, 0⟩]
/-- Fields of one neighbour slot at bit `l` (Table 11-4). -/
def fNb (l : Nat) : List FieldDesc := [rwsR l 6 0 47 0, rwsR (l + 6) 2 0 2 0, rws (l + 8) 2 0]
/-- Fields of EYE_CTRL (Table 2-3); on Registration link lanes bits 8:7 are reserved (R368). -/
def fEye (nrz : Bool) : List FieldDesc :=
  [w1s 0, rw 1 6 0] ++ (if nrz then [] else [rwR 7 2 0 2 0]) ++ [rw 9 7 0, rw 16 4 0]
/-- Fields of EYE_RES (Table 2-4). -/
def fEyeRes : List FieldDesc := [w1c 0, w1c 1, ro 2 30 0]

/-- The hub global window (chapters 1, 12, 15 to 21). -/
def hubTable : List RegDesc := [
  ⟨.glbId, 0x0, [], .none, [ro 0 16 0x4830, ro 16 8 0xB1, ro 24 1 0]⟩,
  ⟨.glbScr, 0x4, [], .none, [rw 0 32 0]⟩,
  ⟨.glbEpoch, 0x8, [], .none, [ro 0 32 0]⟩,
  ⟨.glbTimeLo, 0x10, [], .none, [ro 0 32 0]⟩,
  ⟨.glbTimeHi, 0x14, [], .none, [ro 0 32 0]⟩,
  ⟨.rstCtrl, 0x20, [], .none, [wo 0 1, wo 1 1, wo 8 8]⟩,
  ⟨.rstStat, 0x24, [], .none, [ro 0 1 0, ⟨⟨1, 1⟩, .w1c, .any, 1⟩, w1c 2, w1c 3, ro 16 16 0]⟩,
  ⟨.temp, 0x40, [(4, 16)], .none, [ro 0 16 0, ro 16 1 0]⟩,
  ⟨.rejStat, 0xFF0, [], .none, fRej⟩,
  ⟨.cgrpLo, 0x1000, [(8, 16)], .none, [rw 0 32 0]⟩,
  ⟨.cgrpHi, 0x1004, [(8, 16)], .none, [rw 0 16 0]⟩,
  ⟨.bcStat, 0x1080, [], .none, [w1c 0, w1c 1, w1c 2, ro 8 5 0]⟩,
  ⟨.pwrCtrl, 0x2000, [], .none, [woR 0 3 0 4]⟩,
  ⟨.pwrStat, 0x2004, [], .none, [ro 0 3 0, ro 3 1 0, w1c 4, w1c 5, w1c 6, ro 7 1 0, ro 8 3 0, ro 16 16 0]⟩,
  ⟨.pwrCfg, 0x2008, [], .none, [rw 0 1 0, rw 1 1 0, rw 2 1 0, rw 3 1 1, rw 4 1 0, rw 5 1 0, rwR 8 8 1 255 10,
    rw 16 8 0]⟩,
  ⟨.pwrReg, 0x200C, [], .none, [rwR 0 2 0 2 0, rwR 2 2 0 2 0, rwR 4 2 0 2 0, rwR 6 2 0 2 0, rwR 8 2 0 2 0,
    rwR 10 2 0 2 0, rwR 12 2 0 2 0, rwR 14 2 0 2 0]⟩,
  ⟨.pwrRstat, 0x2010, [], .none, [ro 0 16 0, ro 16 8 0, ro 24 1 0]⟩,
  ⟨.pwrTmr, 0x2014, [], .none, [rw 0 32 0]⟩,
  ⟨.padRelease, 0x2018, [], .none, [wo 0 8, wo 8 1]⟩,
  ⟨.pwrLd, 0x201C, [], .none, [rw 0 16 0x800]⟩,
  ⟨.avsCtrl, 0x2020, [], .none, [rw 0 1 0, rw 1 1 1]⟩,
  ⟨.avsRail, 0x2030, [(4, 8)], .none, [rw 0 7 0, rw 7 1 0, rwR 8 11 500 1100 700, rwR 19 11 500 1100 900]⟩,
  ⟨.avsVout, 0x2050, [(4, 8)], .none, [ro 0 11 0, ro 11 11 0]⟩,
  ⟨.fcStatLo, 0x3000, [(8, 16)], .none, [w1cs 0 32]⟩,
  ⟨.fcStatHi, 0x3004, [(8, 16)], .none, [w1cs 0 32]⟩,
  ⟨.fcCls, 0x3100, [(0x20, 16), (4, 8)], .none, [rw 0 3 0, ro 3 1 0, rw 4 3 0, ro 7 1 0, rw 8 3 0, ro 11 1 0,
    rw 12 3 0, ro 15 1 0, rw 16 3 0, ro 19 1 0, rw 20 3 0, ro 23 1 0, rw 24 3 0, ro 27 1 0, rw 28 3 0, ro 31 1 0]⟩,
  ⟨.fcSuppLo, 0x3300, [(8, 16)], .none, [ro 0 32 0]⟩,
  ⟨.fcSuppHi, 0x3304, [(8, 16)], .none, [ro 0 32 0]⟩,
  ⟨.fcCtrl, 0x3380, [], .none, [rwR 0 14 1 10000 1000, ro 14 1 0]⟩,
  ⟨.fcInj, 0x3384, [], .none, [wo 0 6, wo 6 4, wo 31 1]⟩,
  ⟨.fcEcc, 0x3400, [(4, 16)], .none, [ro 0 16 0, ro 16 16 0]⟩,
  ⟨.fcScrub, 0x3440, [], .none, [rwR 0 8 1 168 24, ro 16 16 0]⟩,
  ⟨.bnCtrl, 0x3800, [], .none, [w1ss 0 8, rw 8 1 1]⟩,
  ⟨.bnTemp, 0x3804, [], .none, [rwR 0 8 5 200 30]⟩,
  ⟨.bnStat, 0x3808, [], .none, [w1c 0, w1c 1, w1c 2, ro 8 8 0, ro 16 16 0]⟩,
  ⟨.bnTref, 0x3810, [(4, 8)], .none, [ro 0 16 0, ro 16 16 0]⟩,
  ⟨.bnSlot, 0x3830, [], .none, [ro 0 1 0, ro 1 1 0, ro 2 1 0, ro 16 16 0]⟩,
  ⟨.clusCmt, 0x4004, [], .none, fClusCmt⟩,
  ⟨.mxLpri, 0x6000, [(4, 16)], .none, [rw 0 27 0]⟩,
  ⟨.mxQos, 0x6040, [], .none, [rw 0 32 0]⟩,
  ⟨.mxQos8, 0x6044, [], .none, [rw 0 4 0]⟩,
  ⟨.mxTo, 0x6084, [(4, 8)], .none, [rwR 0 8 1 255 10]⟩,
  ⟨.mxWdog, 0x60C0, [], .none, [rwR 0 10 10 1000 100]⟩,
  ⟨.mxSlice, 0x60C4, [], .none, [rw 0 9 0, rw 16 16 0]⟩,
  ⟨.mxFence, 0x60C8, [], .none, [ro 0 9 0, ro 16 16 0]⟩,
  ⟨.mxErr, 0x60CC, [], .none, [ro 0 4 0, ro 4 2 0, wo 31 1]⟩,
  ⟨.mxErrAdr, 0x60D0, [], .none, [ro 0 32 0]⟩,
  ⟨.mxCnt, 0x60D4, [], .none, [ro 0 16 0, ro 16 16 0]⟩,
  ⟨.pcGlb, 0x8C00, [], .none, [rw 0 1 0, w1s 1, wo 2 1]⟩,
  ⟨.styCtrl, 0xA000, [], .none, [wo 0 1]⟩,
  ⟨.uartCtrl, 0xC000, [], .none, [rwR 0 5 1 27 27, rw 5 6 8, rw 11 1 0]⟩,
  ⟨.uartData, 0xC004, [], .none, [rw 0 8 0, ro 8 1 0]⟩,
  ⟨.uartStat, 0xC008, [], .none, [ro 0 7 0, w1c 7, w1c 8, ro 9 7 0, ro 16 16 0]⟩,
  ⟨.tcStat, 0xE000, [], .none, [ro 0 1 0, ro 1 1 0, ro 2 1 0, ro 3 1 0, ro 4 1 0, ro 5 1 0, w1c 6, ro 7 1 0,
    w1cs 8 3, ro 12 3 0, ro 15 1 0, ro 16 16 0]⟩]

/-- The timing cluster's registers (Table 12-3). -/
def timingTable : List RegDesc := [
  ⟨.tmCtrl, 0x4000, [], .timing, [rws 0 2 0, rws 2 1 1, rws 3 1 0, rws 4 3 0]⟩,
  ⟨.tmStat, 0x4008, [], .none, [ro 0 3 0, ro 3 3 0, ro 6 1 0, w1c 7, w1c 8, w1c 9, ro 10 1 0, ro 16 16 0]⟩,
  ⟨.tmLoop, 0x400C, [], .timing, [rwsR 0 5 0 18 11, rwsR 8 5 0 18 12, rwsR 16 7 1 80 50]⟩,
  ⟨.tmLock, 0x4010, [], .timing, [rwsR 0 10 1 1000 100, rwsR 16 8 1 255 10]⟩,
  ⟨.tmHold, 0x4014, [], .timing, [rwsR 0 13 60 7200 1000, rwsR 16 10 10 600 60]⟩,
  ⟨.tmQual, 0x4018, [], .timing, [rwsR 0 7 1 100 12, rwsR 16 10 0 1023 300]⟩,
  ⟨.tmSw, 0x401C, [], .timing, [rwsR 0 8 1 255 10]⟩,
  ⟨.tmCv, 0x4020, [], .none, [rw 0 32 0]⟩,
  ⟨.tmPerr, 0x4024, [], .none, [ro 0 32 0]⟩,
  ⟨.tmPseq, 0x4028, [], .none, [ro 0 16 0]⟩,
  ⟨.tmSwph, 0x402C, [], .none, [wo 0 32]⟩,
  ⟨.tmHval, 0x4030, [], .none, [ro 0 32 0]⟩,
  ⟨.refinCfg, 0x4040, [(4, 4)], .timing, [rwsR 0 30 1000 800000000 10000000, rws 30 1 0]⟩,
  ⟨.tmCand, 0x4060, [(4, 8)], .timing, [rws 0 1 0, rwsR 1 3 0 3 0, rws 4 6 0, rws 10 4 1, rws 14 4 0, ro 18 1 0,
    ro 19 1 0, w1c 20, w1c 21]⟩,
  ⟨.tmPout, 0x4080, [(4, 4)], .timing, [rwsR 0 3 0 4 0, rwsR 3 8 1 255 10]⟩,
  ⟨.tmUdiv, 0x4090, [], .timing, [rwsR 0 30 10 100000000 100000]⟩,
  ⟨.tmPofs, 0x4094, [], .timing, [rwsI 0 30 (-500000000) 500000000 0]⟩,
  ⟨.tmSlew, 0x4098, [], .timing, [rwsR 0 10 1 1000 75]⟩,
  ⟨.tmClko, 0x409C, [], .timing, [rwsR 0 3 0 4 0, rwsR 4 3 0 4 0]⟩]

/-- The framer, switch, cipher and host windows (chapters 2 to 5 and 14). -/
def coreTable : List RegDesc := [
  ⟨.clusCmt, 0x100004, [], .none, fClusCmt⟩,
  ⟨.frId, 0x100010, [], .framer, [rw 0 16 0, rw 16 16 0]⟩,
  ⟨.bmfCnt, 0x100018, [], .none, [ro 0 32 0]⟩,
  ⟨.loliThr, 0x100020, [], .framer, [rwR 0 7 0 100 70]⟩,
  ⟨.degCfg, 0x100024, [], .framer, [rwR 0 7 1 100 30, rwR 7 4 2 10 7, rwR 11 7 1 100 30, rwR 18 4 2 10 7]⟩,
  ⟨.caCarr, 0x100100, [(4, 11)], .framer, [rw 0 1 0, rw 1 1 0, rw 2 1 1]⟩,
  ⟨.caFlow, 0x100140, [(4, 10)], .framer, [rw 0 1 0, rw 1 1 0, rw 2 1 1]⟩,
  ⟨.rejStat, 0x100FF0, [], .none, fRej⟩,
  ⟨.cdef, 0x101000, [(4, 48)], .none, [ro 0 11 0, ro 16 11 0]⟩,
  ⟨.bohRx, 0x101100, [(4, 48)], .none, [ro 0 16 0, ro 16 2 0, ro 18 1 0, ro 19 1 0, ro 20 1 0]⟩,
  ⟨.fdef, 0x104000, [(4, 4096)], .none, [ro 0 10 0, ro 16 10 0]⟩,
  ⟨.portMap, 0x108000, [(4, 64)], .none, [rw 0 1 0, rwR 1 2 1 3 1, rw 3 7 0, rw 10 1 0]⟩,
  ⟨.portStat, 0x108100, [(4, 64)], .none, [ro 0 1 0, ro 1 1 0, ro 2 1 0, w1c 3, w1c 4]⟩,
  ⟨.clusCmt, 0x140004, [], .none, fClusCmt⟩,
  ⟨.swCtrl, 0x140010, [], .none, [w1s 0, w1s 1, rw 2 1 0]⟩,
  ⟨.swTgt, 0x140014, [], .none, [rw 0 32 0]⟩,
  ⟨.swStat, 0x140018, [], .none, [ro 0 1 0, ro 1 1 0, w1c 2, w1c 3, ro 4 1 0, w1c 5, ro 6 1 0, w1c 7, ro 16 16 0]⟩,
  ⟨.txOmf, 0x14001C, [], .none, [ro 0 32 0]⟩,
  ⟨.dskCtrl, 0x140020, [], .switch, [rwR 0 8 3 160 160]⟩,
  ⟨.dskOfs, 0x140400, [(4, 48)], .none, [ro 0 16 0xFFFF]⟩,
  ⟨.rejStat, 0x140FF0, [], .none, fRej⟩,
  ⟨.baseStbTx, 0x141000, [(4, 48)], .none, [rwR 0 13 0 5119 0]⟩,
  ⟨.baseStbRx, 0x141100, [(4, 48)], .none, [rwR 0 13 0 5119 0]⟩,
  ⟨.baseActTx, 0x141200, [(4, 48)], .none, [ro 0 13 0]⟩,
  ⟨.baseActRx, 0x141300, [(4, 48)], .none, [ro 0 13 0]⟩,
  ⟨.pageStbTx, 0x150000, [(4, 5120)], .none, [rw 0 1 0, rw 1 12 0, rwR 13 9 0 319 0]⟩,
  ⟨.pageStbRx, 0x158000, [(4, 5120)], .none, [rw 0 1 0, rw 1 12 0, rwR 13 9 0 319 0]⟩,
  ⟨.pageActTx, 0x160000, [(4, 5120)], .none, [ro 0 1 0, ro 1 12 0, ro 13 9 0]⟩,
  ⟨.pageActRx, 0x168000, [(4, 5120)], .none, [ro 0 1 0, ro 1 12 0, ro 13 9 0]⟩,
  ⟨.ciphCtrl, 0x180000, [], .cipher, [rwR 0 6 1 60 10, rwR 6 5 6 20 10]⟩,
  ⟨.clusCmt, 0x180004, [(0x8000, 2)], .none, fClusCmt⟩,
  ⟨.spotCtrl, 0x180010, [(4, 2)], .cipher, [rw 0 16 0x3FF]⟩,
  ⟨.spotStat, 0x180020, [(4, 2)], .none, [w1c 0, w1c 1, ro 16 12 0]⟩,
  ⟨.ciphFence, 0x180030, [(4, 2)], .none, [ro 0 32 0]⟩,
  ⟨.rejStat, 0x180FF0, [], .none, fRej⟩,
  ⟨.flowCstat, 0x184000, [(4, 4096)], .none, [ro 0 12 0]⟩,
  ⟨.hiDisc, 0x1C0000, [], .none, [ro 0 16 0, ro 16 15 0, wo 31 1]⟩,
  ⟨.rejStat, 0x1C0FF0, [], .none, fRej⟩,
  ⟨.tenBind, 0x1C1000, [(4, 4096)], .none, [ro 0 9 0, ro 9 4 0, ro 13 1 0]⟩]

/-- The client die windows (chapter 2). -/
def clientTable : List RegDesc := [
  ⟨.rejStat, 0x200FF0, [(0x100000, 2)], .none, fRej⟩,
  ⟨.laneCtrl, 0x210000, [(0x100000, 2), (0x40, 64)], .none, [rw 0 1 1, rw 1 1 0, rw 2 1 0]⟩,
  ⟨.eyeCtrl, 0x210008, [(0x100000, 2), (0x40, 64)], .none, fEye false⟩,
  ⟨.eyeRes, 0x21000C, [(0x100000, 2), (0x40, 64)], .none, fEyeRes⟩]

/-- The carrier blocks of the modem dies (Tables 7-4 and 10-6). -/
def carrierTable : List RegDesc := [
  ⟨.carrCtrl, 0x400000, dCarr, .carrier, [rws 0 1 0, rws 1 1 0]⟩,
  ⟨.clusCmt, 0x400004, dCarr, .none, fClusCmt⟩,
  ⟨.carrSym, 0x400010, dCarr, .carrier, [rwsR 0 11 240 1200 1024, rwsR 16 5 1 20 2]⟩,
  ⟨.carrFmt, 0x400014, dCarr, .carrier, [rwsR 0 3 0 4 3, rwsR 8 9 160 448 215, rwsR 20 9 20 320 106]⟩,
  ⟨.carrFreq, 0x400018, dCarr, .carrier, [rwsR 0 12 0 2080 0, rwsI 16 12 (-2000) 2000 0]⟩,
  ⟨.carrTx, 0x40001C, dCarr, .carrier, [rws 0 3 0]⟩,
  ⟨.carrZr, 0x400020, dCarr, .carrier, [rws 0 6 0]⟩,
  ⟨.carrShp, 0x400024, dCarr, .none, [ro 0 9 0, ro 16 15 0]⟩,
  ⟨.carrStat, 0x400028, dCarr, .none, [ro 0 3 0, w1c 3]⟩,
  ⟨.carrPem, 0x400100, dCarr ++ [(4, 28)], .carrier, [rws 0 12 0]⟩,
  ⟨.rxcA, 0x400200, dCarr ++ [(8, 4)], .carrier, [rwsR 0 11 240 1200 1024, rws 16 3 0, rws 31 1 0]⟩,
  ⟨.rxcB, 0x400204, dCarr ++ [(8, 4)], .carrier, [rwsR 0 3 0 4 3, rwsR 8 9 160 448 215, rwsR 20 9 20 320 106]⟩,
  ⟨.rxCtrl, 0x400220, dCarr, .carrier, [rws 0 1 0, rws 1 1 1]⟩,
  ⟨.rxCd, 0x400224, dCarr, .carrier, [rwsI 0 16 (-12000) 12000 0]⟩,
  ⟨.rxLoop, 0x400228, dCarr, .carrier, [rwsR 0 4 4 15 10, rwsR 4 4 1 12 6, rws 8 3 3, rwsR 12 7 16 96 64]⟩,
  ⟨.rxDmap, 0x40022C, dCarr, .carrier, [rwsR 0 5 1 31 8]⟩,
  ⟨.rxEstcfg, 0x400230, dCarr, .carrier, [rwsR 0 5 6 20 12, rwsR 8 8 100 250 200]⟩,
  ⟨.rxStat, 0x400240, dCarr, .none, [ro 0 3 0, ro 3 2 0, w1c 5, w1c 6, w1c 7, w1c 8, ro 16 16 0]⟩,
  ⟨.rxModeA, 0x400244, dCarr, .none, [ro 0 31 0, ro 31 1 0]⟩,
  ⟨.rxModeB, 0x400248, dCarr, .none, [ro 0 32 0]⟩,
  ⟨.rxEst, 0x400260, dCarr ++ [(4, 8)], .none, [ro 0 16 0, ro 16 8 0, ro 24 1 0]⟩]

/-- Decoder pools, Crosshatch and Drypoint of the modem dies (Tables 6-5 to 6-8, 11-4 and 17-2). -/
def modemTable : List RegDesc := [
  ⟨.poolWin, 0x600000, dMd, .pool, [rwR 0 8 15 120 60]⟩,
  ⟨.clusCmt, 0x600004, dMd, .none, fClusCmt⟩,
  ⟨.poolStat, 0x600008, dMd, .none, [ro 0 1 0, w1c 1, w1c 2, ro 16 9 0]⟩,
  ⟨.poolFloor, 0x600040, dMd ++ [(4, 12)], .pool, [rwR 0 6 1 32 8, rwR 8 6 1 32 32]⟩,
  ⟨.poolFence, 0x600080, dMd ++ [(4, 14)], .none, [ro 0 32 0]⟩,
  ⟨.xhCtrl, 0x680000, dXh, .carrier, [rws 0 1 0, rws 1 1 0, rws 2 1 0]⟩,
  ⟨.xhNbLo, 0x680004, dXh, .carrier, fNb 0 ++ fNb 16⟩,
  ⟨.xhNbHi, 0x680008, dXh, .carrier, fNb 0 ++ fNb 16⟩,
  ⟨.xhTxb, 0x680010, dXh, .none, [ro 0 1 0, w1s 1, w1s 2, w1c 3, w1c 4]⟩,
  ⟨.xhTxt, 0x680014, dXh, .none, [rw 0 32 0]⟩,
  ⟨.xhTxh, 0x680018, dXh, .none, fHdr .rw⟩,
  ⟨.xhTxa, 0x68001C, dXh, .none, fHdr .ro⟩,
  ⟨.xhRxb, 0x680020, dXh, .none, [ro 0 1 0, ro 1 1 0, w1s 2, w1c 3, w1c 4]⟩,
  ⟨.xhRxh, 0x680024, dXh, .none, fHdr .rw ++ [rw 31 1 0]⟩,
  ⟨.xhRxa, 0x680028, dXh, .none, fHdr .ro ++ [rw 31 1 0]⟩,
  ⟨.xhRofs, 0x68002C, dXh, .carrier, [rws 0 16 0, rws 16 16 0]⟩,
  ⟨.xhStat, 0x680030, dXh, .none, [ro 0 4 0, ro 4 4 0, ro 8 1 0, w1c 9, w1c 10]⟩,
  ⟨.xhCbmf, 0x680034, dXh, .none, [ro 0 32 0]⟩,
  ⟨.xhTrim, 0x680040, dXh ++ [(4, 5)], .none, [rw 0 16 0x4000, rw 16 16 0]⟩,
  ⟨.xhBankTx, 0x6A0000, [(0x400000, 4), (0x8000, 12), (4, 4096)], .none, [rw 0 32 0]⟩,
  ⟨.xhBankRx, 0x6A4000, [(0x400000, 4), (0x8000, 12), (4, 4096)], .none, [rw 0 32 0]⟩,
  ⟨.dpCtrl, 0x700000, dDp, .none, [rw 0 1 0, rwR 1 3 0 5 0, rw 4 1 0, rw 5 2 2, rwR 7 4 0 12 0, rw 11 1 0]⟩,
  ⟨.dpShiftLo, 0x700004, dDp, .none, [rw 0 30 0]⟩,
  ⟨.dpShiftHi, 0x700008, dDp, .none, [rw 0 6 0]⟩,
  ⟨.dpBank, 0x70000C, dDp, .none, [ro 0 1 0, w1s 1, ro 2 1 0, w1c 3]⟩,
  ⟨.dpBhdr, 0x700010, dDp, .none, [rw 0 1 0]⟩,
  ⟨.dpDet, 0x700020, dDp, .none, [rwR 0 5 4 20 12, rw 8 3 2, rw 12 3 6]⟩,
  ⟨.dpPeak, 0x700024, dDp, .none, [ro 0 16 0, ro 16 8 0, ro 24 1 0]⟩,
  ⟨.dpRms, 0x700028, dDp, .none, [ro 0 16 0, ro 16 8 0, ro 24 1 0]⟩,
  ⟨.dpEnv, 0x70002C, dDp, .none, [ro 0 16 0, ro 16 8 0, ro 24 1 0]⟩,
  ⟨.dpPta, 0x700030, dDp, .none, [rw 0 16 0x2000, rwR 16 8 1 255 10]⟩,
  ⟨.dpStat, 0x700034, dDp, .none, [w1c 0, ro 1 1 0, w1c 2, ro 16 16 0]⟩,
  ⟨.dpCap, 0x700040, dDp, .none, [rwR 0 4 8 14 14, w1c 4, w1c 5, w1c 6, w1s 31]⟩,
  ⟨.dpCoef, 0x700100, dDp ++ [(4, 31)], .none, [rw 0 16 0]⟩,
  ⟨.dpBuf, 0x708000, dDp ++ [(4, 8192)], .none, [ro 0 32 0]⟩,
  ⟨.rejStat, 0x7FFF00, dMd, .none, fRej⟩]

/-- The converter die windows (Tables 8-5 and 9-2). -/
def converterTable : List RegDesc := [
  ⟨.cvtMode, 0x1410000, dCvd, .none, [rw 0 1 0]⟩,
  ⟨.cvtTxlvl, 0x1410004, dCvd, .none, [rwR 0 5 0 30 20]⟩,
  ⟨.cvtDacg, 0x1410010, dCvd ++ [(4, 6)], .none, [rwR 0 8 1 255 128]⟩,
  ⟨.cvtDsk, 0x1410040, dCvd ++ [(4, 48)], .none, [rwI 0 10 (-200) 200 0]⟩,
  ⟨.capTick, 0x1410100, dCvd, .none, [ro 0 16 0]⟩,
  ⟨.capCtrl, 0x1410104, dCvd, .none, [rw 0 16 0, rwR 16 2 0 1 0, rwR 18 4 10 15 10, w1s 31]⟩,
  ⟨.capMask, 0x1410108, dCvd, .none, [rw 0 24 0xFFFFFF]⟩,
  ⟨.capStat, 0x141010C, dCvd, .none, [w1c 0, w1c 1, w1c 2, ro 8 8 0]⟩,
  ⟨.cvtCal, 0x1410200, dCvd, .none, [ro 0 2 0, ro 8 7 0, ro 15 1 0]⟩,
  ⟨.cvtClip, 0x1410204, dCvd, .none, [w1c 0, w1c 1]⟩,
  ⟨.feSpi, 0x1420000, dCvd, .none, [rw 0 4 0, rw 4 3 0]⟩,
  ⟨.feProf, 0x1420010, dCvd ++ [(4, 6)], .none, [rw 0 16 0]⟩,
  ⟨.feGain, 0x1420040, dCvd, .none, [rwR 0 6 1 40 14, rwR 8 6 1 40 10, rwR 16 8 1 255 10]⟩,
  ⟨.feGman, 0x1420050, dCvd ++ [(4, 6)], .none, [rw 0 1 0, rw 1 5 16]⟩,
  ⟨.feRamp, 0x1420080, dCvd, .none, [rwR 0 10 1 1000 100, rwR 16 6 10 40 30]⟩,
  ⟨.feSteer, 0x1420090, dCvd, .none, [rw 0 1 1, rwR 1 10 1 1000 1000, rw 12 3 2, rw 16 8 20]⟩,
  ⟨.feTtrim, 0x1420094, dCvd, .none, [rw 0 1 1, rwR 1 7 1 100 5, rw 8 3 1, rw 16 8 25]⟩,
  ⟨.feLim, 0x1420098, dCvd, .none, [rwR 0 12 0 3500 3000, rwR 16 12 0 2000 1000]⟩,
  ⟨.feStat, 0x14200A0, dCvd ++ [(4, 6)], .none, [ro 0 5 16, w1c 5, w1c 6, w1c 7]⟩,
  ⟨.feTrim, 0x14200C0, dCvd ++ [(4, 6)], .none, [ro 0 16 0, ro 16 16 0]⟩,
  ⟨.feBus, 0x14200E0, dCvd, .none, [w1c 0, w1c 1, w1c 2, rw 3 1 1]⟩,
  ⟨.hkCtrl, 0x1420100, dCvd, .none, [rw 0 12 0xFFF, rw 12 1 0, w1s 13, w1c 14]⟩,
  ⟨.hkRes, 0x1420110, dCvd ++ [(4, 12)], .none, [ro 0 16 0, ro 16 1 0]⟩,
  ⟨.hkTrig, 0x1420140, dCvd, .none, [rw 0 16 0, rwR 16 4 0 11 0, w1s 31]⟩,
  ⟨.hkSnap, 0x1420144, dCvd, .none, [ro 0 16 0, w1c 16, w1c 17]⟩,
  ⟨.hkCal, 0x1420148, dCvd, .none, [ro 0 16 0, ro 16 16 0x8000]⟩,
  ⟨.rejStat, 0x14FFF00, dCvd, .none, fRej⟩]

/-- The Registration link and store windows (Tables 13-4 and 21-2). -/
def linkTable : List RegDesc := [
  ⟨.rlCfg, 0x1C00000, [], .none, [rw 0 2 0, rw 2 1 0, rw 3 3 7]⟩,
  ⟨.rlVer, 0x1C00004, [], .none, [ro 0 16 1]⟩,
  ⟨.rlSet, 0x1C00008, [], .none, [ro 0 1 0, ro 1 2 0, ro 4 4 0, ro 8 3 0, w1c 11]⟩,
  ⟨.rlTofs, 0x1C0000C, [], .none, [ro 0 32 0]⟩,
  ⟨.rlLink, 0x1C00010, [(4, 3)], .none, [ro 0 3 0, ro 3 2 0, ro 5 1 0, w1c 6, w1c 7, w1c 8, ro 16 16 0]⟩,
  ⟨.rlCtrl, 0x1C00020, [(4, 3)], .none, [rw 0 1 0, w1s 1]⟩,
  ⟨.rlTap, 0x1C00100, [(4, 24)], .none, [ro 0 3 2, ro 4 4 4]⟩,
  ⟨.rejStat, 0x1C00FF0, [], .none, fRej⟩,
  ⟨.rlEyeCtrl, 0x1C01008, [(0x40, 24)], .none, fEye true⟩,
  ⟨.rlEyeRes, 0x1C0100C, [(0x40, 24)], .none, fEyeRes⟩,
  ⟨.stStat, 0x1D00000, [], .none, [ro 0 1 0, ro 1 2 0, ro 16 16 0]⟩,
  ⟨.rejStat, 0x1D00FF0, [], .none, fRej⟩]

/-- The registers of one placement of counter blocks (Tables 17-4 and 17-6). -/
def pcDescs (base : Nat) (dims : List (Nat × Nat)) : List RegDesc := [
  ⟨.pcCycLo, base + 0x00, dims, .none, [ro 0 32 0]⟩,
  ⟨.pcCycHi, base + 0x04, dims, .none, [ro 0 32 0]⟩,
  ⟨.pcCntLo, base + 0x10, dims ++ [(8, 8)], .none, [ro 0 32 0]⟩,
  ⟨.pcCntHi, base + 0x14, dims ++ [(8, 8)], .none, [ro 0 32 0]⟩,
  ⟨.pcSel, base + 0x50, dims ++ [(4, 8)], .none, [rw 0 8 0, rw 8 6 0, rw 14 1 0, rw 15 1 0, rw 16 1 0, rw 17 1 0]⟩,
  ⟨.pcCtrl, base + 0x70, dims, .none, [rw 0 1 0, wo 1 1, rw 2 1 0, rw 16 12 0]⟩,
  ⟨.pcOvf, base + 0x74, dims, .none, [w1cs 0 8, w1c 8]⟩,
  ⟨.pcInfo, base + 0x78, dims, .none, [ro 0 16 0, ro 16 3 0]⟩,
  ⟨.pcScycLo, base + 0x80, dims, .none, [ro 0 32 0]⟩,
  ⟨.pcScycHi, base + 0x84, dims, .none, [ro 0 32 0]⟩,
  ⟨.pcScntLo, base + 0x90, dims ++ [(8, 8)], .none, [ro 0 32 0]⟩,
  ⟨.pcScntHi, base + 0x94, dims ++ [(8, 8)], .none, [ro 0 32 0]⟩,
  ⟨.pcSseq, base + 0xD0, dims, .none, [ro 0 16 0]⟩]

/-- Every register of BAR0 (R545, R553). -/
def table : List RegDesc :=
  hubTable ++ timingTable ++ coreTable ++ clientTable ++ carrierTable ++ modemTable ++ converterTable ++ linkTable
  ++ pcDescs 0x410000 dCarr ++ pcDescs 0x601000 dMd ++ pcDescs 0x8000 [(0x100, 12)]
  ++ pcDescs 0x201000 [(0x100000, 2)]

/-- The interrupt controller's registers at core address 0x4000_0000 (Table 15-6). -/
def icTable : List RegDesc := [
  ⟨.icCfg, 0x0, [], .none, [rw 0 3 4]⟩,
  ⟨.icPend, 0x100, [(4, 16)], .none, [rw 0 32 0]⟩,
  ⟨.icMask, 0x200, [(4, 16)], .none, [rw 0 32 0xFFFFFFFF]⟩,
  ⟨.icCtrl, 0x300, [(0x20, 4)], .none, [rw 0 1 0, wo 1 1]⟩,
  ⟨.icStat, 0x304, [(0x20, 4)], .none, [ro 0 5 0, ro 5 1 0, w1c 6, w1c 7, w1c 8, ro 16 9 0]⟩,
  ⟨.icVbase, 0x308, [(0x20, 4)], .none, [rw 0 32 0]⟩,
  ⟨.icEoi, 0x30C, [(0x20, 4)], .none, [wo 0 9]⟩,
  ⟨.icSrc, 0x1000, [(4, 512)], .none, [rw 0 8 0, rw 8 2 0, rw 10 1 0, rw 16 8 0]⟩]

/-- One ring block (Table 14-3), at offsets from the ring's base in its doorbell page. -/
def ringTable : List RegDesc := [
  ⟨.ringBaseLo, 0x0, [], .none, [rw 12 20 0]⟩,
  ⟨.ringBaseHi, 0x4, [], .none, [rw 0 32 0]⟩,
  ⟨.ringCfg, 0x8, [], .none, [rwR 0 5 4 16 4, rw 5 1 0, rw 6 1 0, rw 8 8 0, rw 16 8 0]⟩,
  ⟨.ringDb, 0xC, [], .none, [wo 0 16]⟩,
  ⟨.ringIdx, 0x10, [], .none, [ro 0 16 0]⟩,
  ⟨.ringStat, 0x14, [], .none, [ro 0 1 0, w1c 1, w1c 2, w1c 3, w1c 4]⟩,
  ⟨.ringCancel, 0x18, [], .none, [wo 0 16]⟩]

/-- The owner mailbox (Table 16-3), at offsets from PF0 BAR4 + 0x1_0000. -/
def mbTable : List RegDesc := [
  ⟨.mbAdrLo, 0x0, [], .none, [rw 0 32 0]⟩,
  ⟨.mbAdrHi, 0x4, [], .none, [rw 0 32 0]⟩,
  ⟨.mbLen, 0x8, [], .none, [rwR 0 25 0 0x1000000 0]⟩,
  ⟨.mbSvc, 0xC, [], .none, [rw 0 8 0, rw 8 8 0, rw 16 16 0]⟩,
  ⟨.mbDb, 0x10, [], .none, [wo 0 1]⟩,
  ⟨.mbRsp, 0x20, [], .none, [ro 0 7 0, ro 7 1 0, ro 16 16 0]⟩,
  ⟨.mbRes, 0x24, [], .none, [ro 0 32 0]⟩]


/-- The indices that lead from a base to offset `off`, if any. -/
def matchDims : List (Nat × Nat) → Nat → Option (List Nat)
  | [], off => if off = 0 then some [] else none
  | (st, n) :: ds, off =>
    if off / st < n then (matchDims ds (off % st)).map (fun is => off / st :: is) else none

/-- The register at byte offset `a` of a register table, with its indices. -/
def find (t : List RegDesc) (a : Nat) : Option (RegDesc × List Nat) :=
  t.findSome? fun d => if d.base ≤ a then (matchDims d.dims (a - d.base)).map (fun is => (d, is)) else none

/-- A die of Table 14-9 by kind, for the source tables: 0 converter, 1 modem, 2 hub, 3 client, 4 store. -/
def dieKind (x : Nat) : Nat :=
  if x < 8 then 0 else if x < 12 then 1 else if x = 12 then 2 else if x < 15 then 3 else 4

/-- (classes permitted, reset class, fixed) of fault source `i` of die `x` (Tables 19-1 and 21-6); a reserved source
permits LOG only. -/
def sourceClass (x i : Nat) : List Nat × Nat × Bool :=
  if i = 0 then ([0, 4], 0, false)
  else if i = 1 then ([0], 0, true)
  else if i = 2 then ([0, 4], 4, false)
  else if i ≤ 5 then ([0], 0, true)
  else if i ≤ 7 then (if x < 8 then ([0, 4], 0, false) else ([0], 0, false))
  else match dieKind x with
    | 0 => if i ≤ 13 then ([0, 1, 2, 3, 4], 2, false) else if i = 14 then ([0, 3], 0, false)
           else if i = 17 then ([3, 4], 3, false) else ([0], 0, false)
    | 1 => if i ≤ 19 then ([0, 1, 2, 3, 4], 2, false) else if i = 20 then ([0, 4], 0, false)
           else if i = 21 then ([0, 2], 0, false) else ([0], 0, false)
    | 2 => if i = 8 ∨ i = 9 ∨ i = 11 ∨ i = 12 then ([4], 4, true)
           else if i = 10 ∨ i = 17 then ([0, 4], 0, false) else if i = 13 then ([0, 4], 4, false)
           else if i = 14 ∨ i = 15 then ([0], 0, true) else ([0], 0, false)
    | 3 => if i ≤ 15 then ([0, 4], 0, false) else ([0], 0, false)
    | _ => if i = 8 then ([0], 0, true) else if i = 9 then ([4], 4, true) else ([0], 0, false)

/-- The source exists: sources not listed are reserved and never assert (R555). -/
def sourceExists (x i : Nat) : Bool :=
  if i ≤ 5 then true else if i ≤ 7 then decide (x < 8)
  else match dieKind x with
    | 0 => decide (i ≤ 17)
    | 1 => decide (i ≤ 21)
    | 2 => decide (i ≤ 17)
    | 3 => decide (i ≤ 15)
    | _ => decide (i ≤ 9)

/-- Reset word of FC_CLS_x_w: for source i = 8w + j the reset class in bits 4j+2:4j and the fixed mark in bit 4j+3
(R513). -/
def fcClsReset (x w : Nat) : Nat :=
  (List.range 8).foldl (fun acc j =>
    let c := sourceClass x (8 * w + j)
    acc + ((c.2.1 + (if c.2.2 then 8 else 0)) <<< (4 * j))) 0

/-- Reset word of one neighbour slot `d` of carrier `c` (R320): local carrier c + d where it exists. -/
def nbReset (c : Nat) (d : Int) : Nat :=
  let n : Int := (c : Int) + d
  if 0 ≤ n ∧ n ≤ 47 then n.toNat + (1 <<< 6) else 0

/-- Reset values that depend on a register's indices. -/
def resetSpecial (id : RegId) (base : Nat) (idx : List Nat) : Option Nat :=
  match id, idx with
  | .glbId, _ => some (0x00B14830 + (if Config.isFips then 0x1000000 else 0))
  | .stStat, _ => some (Config.storeWear.toNat <<< 16)
  | .portMap, [p] => some (2 + ((2 * p) <<< 3))
  | .caCarr, [d] => some (if d ≤ 7 then 7 else 4)
  | .caFlow, [d] => some (if d ≤ 4 ∨ d = 6 ∨ d = 7 then 7 else 4)
  | .carrPem, [_, _, j] => some (if j % 7 = 3 then 1024 else 0)
  | .rxcA, [_, _, q] => some (1024 + (if q = 0 then 0x80000000 else 0))
  | .xhNbLo, [m, x] => some (nbReset (12 * m + x) (-2) + (nbReset (12 * m + x) (-1) <<< 16))
  | .xhNbHi, [m, x] => some (nbReset (12 * m + x) 1 + (nbReset (12 * m + x) 2 <<< 16))
  | .tenBind, [t] => some (if t = 0 then 1 <<< 13 else 0)
  | .fcCls, [x, w] => some (fcClsReset x w)
  | .dpCoef, [_, _, i] => some (if i = 15 then 0x4000 else 0)
  | .pcSel, idx =>
    let i := idx.getLastD 0
    let blk := idx.headD 0
    if base = 0x601050 ∧ i < 4 then some ((i + 1) + (1 <<< 14))
    else if base = 0x8050 ∧ blk < 4 ∧ i < 4 then some ((i + 1) + (63 <<< 8) + (1 <<< 14))
    else some 0
  | .pcInfo, idx =>
    if base = 0x410078 then some 1500
    else if base = 0x601078 then some (1500 + (1 <<< 16))
    else if base = 0x8078 then some (1000 + ((if idx.headD 0 < 4 then 2 else 3) <<< 16))
    else some (1250 + (4 <<< 16))
  | .icSrc, [n] => some (if 448 ≤ n then 3 <<< 8 else 0)
  | _, _ => none

/-- The reset value of a register. -/
def resetWord (d : RegDesc) (idx : List Nat) : Word :=
  match resetSpecial d.id d.base idx with
  | some v => BitVec.ofNat 32 v
  | none => BitVec.ofNat 32 (d.fields.foldl (fun acc f => acc + (f.rst <<< f.fld.lsb)) 0)

/-- The reset value of the BAR0 word at `a`; an unmapped address holds nothing and reads as 0. -/
def resetAt (a : Nat) : Word :=
  match find table a with
  | some (d, is) => resetWord d is
  | none => 0

/-- The reset value of an interrupt controller word. -/
def icResetAt (a : Nat) : Word :=
  match find icTable a with
  | some (d, is) => resetWord d is
  | none => 0

/-- Bits of the word that some field of the register covers; every other bit is reserved (R7). -/
def assigned (d : RegDesc) : Word :=
  d.fields.foldl (fun acc f => acc ||| BitVec.ofNat 32 ((2 ^ f.fld.width - 1) <<< f.fld.lsb)) 0

/-- The value lies in the field's range. -/
def Rng.ok (r : Rng) (f : Fld) (w : Word) : Bool :=
  match r with
  | .any => true
  | .nat lo hi => decide (lo ≤ f.get w ∧ f.get w ≤ hi)
  | .int lo hi => decide (lo ≤ f.int w ∧ f.int w ≤ hi)

/-- A write of `w` sets a reserved bit or a field value out of range (R7, R29). Read-only fields are ignored without
reject (R8). -/
def badValue (d : RegDesc) (w : Word) : Bool :=
  (w &&& ~~~ assigned d) ≠ 0 || d.fields.any fun f => f.acc ≠ .ro && !(Rng.ok f.rng f.fld w)

/-- One field of a register after a write of `w` over `old`, by its access code (Table 0-4). -/
def writeField (w : Word) (acc : Word) (f : FieldDesc) : Word :=
  match f.acc with
  | .rw | .rws => f.fld.set (f.fld.get w) acc
  | .ro => acc
  | .wo => f.fld.set 0 acc
  | .w1c => acc &&& ~~~ (f.fld.set (f.fld.get w) 0)
  | .w1s => acc ||| f.fld.set (f.fld.get w) 0

/-- The stored word after a write of `w` over `old` (R8). -/
def written (d : RegDesc) (old w : Word) : Word := d.fields.foldl (writeField w) old

/-- The word after a reset that keeps RWS fields (R8, R20). -/
def resetKeepingRws (d : RegDesc) (idx : List Nat) (old : Word) : Word :=
  d.fields.foldl (fun acc f => if f.acc = .rws then f.fld.set (f.fld.get old) acc else acc) (resetWord d idx)

/-- Block base of carrier `c` (R211). -/
def carrBase (c : Nat) : Nat := 0x400000 + (c / 12) * 0x400000 + (c % 12) * 0x20000
/-- Crosshatch register base of carrier `c` (R333). -/
def xhBase (c : Nat) : Nat := 0x680000 + (c / 12) * 0x400000 + (c % 12) * 0x100
/-- Pool base (chapter 6). -/
def poolBase (m : Nat) : Nat := 0x600000 + m * 0x400000
/-- Drypoint base of region `g` (R464). -/
def dpBase (g : Nat) : Nat := 0x700000 + (g / 2) * 0x400000 + (g % 2) * 0x10000
/-- Converter registers of region `g` (R236). -/
def cvtBase (g : Nat) : Nat := 0x1410000 + g * 0x100000
/-- Front-end registers of region `g` (R266). -/
def feBase (g : Nat) : Nat := 0x1420000 + g * 0x100000
/-- Lane block of client lane `l` (R51). -/
def laneBase (l : Nat) : Nat := 0x210000 + (l / 64) * 0x100000 + (l % 64) * 0x40
/-- Base of counter block `b` (Table 17-4). -/
def pcBase (b : Nat) : Nat :=
  if b < 48 then carrBase b + 0x10000
  else if b < 52 then 0x601000 + (b - 48) * 0x400000
  else if b < 64 then 0x8000 + (b - 52) * 0x100
  else 0x201000 + (b - 64) * 0x100000

/-- A BAR0 window (Table 21-1): its base, the die it belongs to (Table 14-9 numbers) and its REJ_STAT address. -/
structure Window where
  base : Nat
  die : Nat
  rej : Nat
  deriving DecidableEq, Repr

/-- The window that holds byte offset `a`, if one does (R545). -/
def windowOf (a : Nat) : Option Window :=
  if a < 0x100000 then some ⟨0, 12, 0xFF0⟩
  else if a < 0x140000 then some ⟨0x100000, 12, 0x100FF0⟩
  else if a < 0x180000 then some ⟨0x140000, 12, 0x140FF0⟩
  else if a < 0x1C0000 then some ⟨0x180000, 12, 0x180FF0⟩
  else if a < 0x200000 then some ⟨0x1C0000, 12, 0x1C0FF0⟩
  else if a < 0x300000 then some ⟨0x200000, 13, 0x200FF0⟩
  else if a < 0x400000 then some ⟨0x300000, 14, 0x300FF0⟩
  else if a < 0x1400000 then
    let m := (a - 0x400000) / 0x400000
    some ⟨0x400000 + m * 0x400000, 8 + m, 0x400000 + m * 0x400000 + 0x3FFF00⟩
  else if a < 0x1C00000 then
    let g := (a - 0x1400000) / 0x100000
    some ⟨0x1400000 + g * 0x100000, g, 0x1400000 + g * 0x100000 + 0xFFF00⟩
  else if a < 0x1D00000 then some ⟨0x1C00000, 12, 0x1C00FF0⟩
  else if a < 0x1E00000 then some ⟨0x1D00000, 15, 0x1D00FF0⟩
  else none

end RegMap
end Sys2Proof.Machine
end

