-- ==== Sys2Proof/Machine/Ops.lean ====
section
/-!
DEFINITION. The named operations over State that every family shares: sparse maps, register words and their fields,
the objects of the package, free values, ring records (R397, R398, R409) and completions (R400).
-/
namespace Sys2Proof.Machine

/-- What a command answers. -/
abbrev Answer := Host.Outcome State Fault Refusal

/-! Sparse maps. -/

/-- The value at a key, the default where none is listed. -/
def SMap.get {α : Type} : SMap α → Nat → α → α
  | [], _, v => v
  | (j, w) :: r, k, v => if j = k then w else SMap.get r k v

/-- The map without a key. -/
def SMap.erase {α : Type} : SMap α → Nat → SMap α
  | [], _ => []
  | (j, w) :: r, k => if j = k then SMap.erase r k else (j, w) :: SMap.erase r k

/-- An entry put in front of the first larger key. -/
def SMap.insert {α : Type} : SMap α → Nat → α → SMap α
  | [], k, v => [(k, v)]
  | (j, w) :: r, k, v => if k < j then (k, v) :: (j, w) :: r else (j, w) :: SMap.insert r k v

/-- The map with `v` at `k`; a value equal to the default is not listed. -/
def SMap.put {α : Type} [DecidableEq α] (m : SMap α) (k : Nat) (dflt v : α) : SMap α :=
  if v = dflt then SMap.erase m k else SMap.insert (SMap.erase m k) k v

/-- Keys rise strictly from above `lo`, and no entry equals what an unlisted key reads as. -/
def SMap.wfFrom {α : Type} [DecidableEq α] (dflt : Nat → α) : Nat → SMap α → Bool
  | _, [] => true
  | lo, (k, v) :: r => decide (lo ≤ k) && decide (v ≠ dflt k) && SMap.wfFrom dflt (k + 1) r

/-- The canonical form of a sparse map. -/
def SMap.wf {α : Type} [DecidableEq α] (dflt : Nat → α) (m : SMap α) : Bool := SMap.wfFrom dflt 0 m

/-! The Stylus memories (Table 15-4): a key is core × 2^32 + core address. A byte that nothing has written has no value. -/

/-- A byte of memory, `none` where nothing has written it (R525). -/
def Mem.read : List Host.Cell → Nat → Option Byte
  | [], _ => none
  | (j, b) :: r, k => if j = k then some b else Mem.read r k

/-- The memory with byte `b` at key `k`. -/
def Mem.write (m : List Host.Cell) (k : Nat) (b : Byte) : List Host.Cell := SMap.insert (SMap.erase m k) k b

/-- Keys rise strictly from `lo` on. -/
def Mem.wfFrom : Nat → List Host.Cell → Bool
  | _, [] => true
  | lo, (k, _) :: r => decide (lo ≤ k) && Mem.wfFrom (k + 1) r

/-- The canonical form of a memory. -/
def Mem.wf (m : List Host.Cell) : Bool := Mem.wfFrom 0 m

/-- A word of zeros written at key `k`. -/
def Mem.zeroWord (m : List Host.Cell) (k : Nat) : List Host.Cell :=
  (List.range 4).foldl (fun m i => Mem.write m (k + i) 0) m

/-- Folds an operation over a list of operands, first operand first. -/
def each {α β : Type} (xs : List α) (f : α → β → β) (d : β) : β := xs.foldl (fun d x => f x d) d

/-- Adds one to a counter that saturates at `max`. -/
def satInc (max n : Nat) : Nat := if n < max then n + 1 else max

/-! Register words. -/

/-- The word a host reads at a BAR0 address (the shadow copy of cluster configuration, R15). -/
def Dev.reg (d : Dev) (a : Nat) : Word := SMap.get d.regs a (RegMap.resetAt a)

def Dev.setReg (d : Dev) (a : Nat) (w : Word) : Dev :=
  { d with regs := SMap.put d.regs a (RegMap.resetAt a) w }

/-- A field of a register. -/
def Dev.fld (d : Dev) (a : Nat) (f : Fld) : Nat := f.get (d.reg a)

def Dev.bit (d : Dev) (a i : Nat) : Bool := (d.reg a).getLsbD i

def Dev.setFld (d : Dev) (a : Nat) (f : Fld) (v : Nat) : Dev := d.setReg a (f.set v (d.reg a))

/-- One bit set, or cleared, in a register. -/
def Dev.setBit (d : Dev) (a i : Nat) (b : Bool := true) : Dev := d.setFld a ⟨i, 1⟩ b.toNat

/-- Adds one to a field that saturates at its greatest value. -/
def Dev.satFld (d : Dev) (a : Nat) (f : Fld) : Dev := d.setFld a f (satInc (2 ^ f.width - 1) (d.fld a f))

/-- Adds one to a field that wraps. -/
def Dev.incFld (d : Dev) (a : Nat) (f : Fld) : Dev := d.setFld a f ((d.fld a f + 1) % 2 ^ f.width)

/-- The word of the active copy of cluster configuration (R15). -/
def Dev.actReg (d : Dev) (a : Nat) : Word := SMap.get d.act a (RegMap.resetAt a)

def Dev.setAct (d : Dev) (a : Nat) (w : Word) : Dev :=
  { d with act := SMap.put d.act a (RegMap.resetAt a) w }

def Dev.actFld (d : Dev) (a : Nat) (f : Fld) : Nat := f.get (d.actReg a)

def Dev.icReg (d : Dev) (a : Nat) : Word := SMap.get d.ic a (RegMap.icResetAt a)

def Dev.setIc (d : Dev) (a : Nat) (w : Word) : Dev :=
  { d with ic := SMap.put d.ic a (RegMap.icResetAt a) w }

/-! Objects. -/

def Dev.carrier (d : Dev) (c : Nat) : Carrier := SMap.get d.carriers c {}
def Dev.onCarrier (d : Dev) (c : Nat) (f : Carrier → Carrier) : Dev :=
  { d with carriers := SMap.put d.carriers c {} (f (d.carrier c)) }
def Dev.txModem (d : Dev) (c : Nat) : TxModem := SMap.get d.txm c {}
def Dev.onTxm (d : Dev) (c : Nat) (f : TxModem → TxModem) : Dev := { d with txm := SMap.put d.txm c {} (f (d.txModem c)) }
def Dev.rxModem (d : Dev) (c : Nat) : RxModem := SMap.get d.rxm c {}
def Dev.onRxm (d : Dev) (c : Nat) (f : RxModem → RxModem) : Dev := { d with rxm := SMap.put d.rxm c {} (f (d.rxModem c)) }
/-- Both modems of a carrier lose what they hold: a carrier that stops, is reset or is lost. -/
def Dev.modemsClear (d : Dev) (c : Nat) : Dev := (d.onTxm c fun _ => {}).onRxm c fun m => { gen := m.gen + 1 }
def Dev.flow (d : Dev) (f : Nat) : Flow := SMap.get d.flows f {}
def Dev.onFlow (d : Dev) (f : Nat) (g : Flow → Flow) : Dev :=
  { d with flows := SMap.put d.flows f {} (g (d.flow f)) }
def Dev.lane (d : Dev) (l : Nat) : Lane := SMap.get d.lanes l {}
def Dev.onLane (d : Dev) (l : Nat) (f : Lane → Lane) : Dev :=
  { d with lanes := SMap.put d.lanes l {} (f (d.lane l)) }
def Dev.port (d : Dev) (p : Nat) : Port := SMap.get d.ports p {}
def Dev.onPort (d : Dev) (p : Nat) (f : Port → Port) : Dev :=
  { d with ports := SMap.put d.ports p {} (f (d.port p)) }
def Dev.die (d : Dev) (x : Nat) : Die := SMap.get d.dies x {}
def Dev.onDie (d : Dev) (x : Nat) (f : Die → Die) : Dev :=
  { d with dies := SMap.put d.dies x {} (f (d.die x)) }
def Dev.cluster (d : Dev) (k : Nat) : Clus := SMap.get d.clus k {}
def Dev.onCluster (d : Dev) (k : Nat) (f : Clus → Clus) : Dev :=
  { d with clus := SMap.put d.clus k {} (f (d.cluster k)) }
def Dev.overhead (d : Dev) (o : Nat) : Overhead := SMap.get d.oh o {}
def Dev.onOverhead (d : Dev) (o : Nat) (f : Overhead → Overhead) : Dev :=
  { d with oh := SMap.put d.oh o {} (f (d.overhead o)) }
def Dev.region (d : Dev) (g : Nat) : Region := SMap.get d.regions g {}
def Dev.onRegion (d : Dev) (g : Nat) (f : Region → Region) : Dev :=
  { d with regions := SMap.put d.regions g {} (f (d.region g)) }
def Dev.link (d : Dev) (j : Nat) : Link := SMap.get d.links j {}
def Dev.onLink (d : Dev) (j : Nat) (f : Link → Link) : Dev :=
  { d with links := SMap.put d.links j {} (f (d.link j)) }
def Dev.tenant (d : Dev) (t : Nat) : Tenant := SMap.get d.tenants t {}
def Dev.onTenant (d : Dev) (t : Nat) (f : Tenant → Tenant) : Dev :=
  { d with tenants := SMap.put d.tenants t {} (f (d.tenant t)) }
def Dev.engine (d : Dev) (e : Nat) : Engine := SMap.get d.engines e {}
def Dev.onEngine (d : Dev) (e : Nat) (f : Engine → Engine) : Dev :=
  { d with engines := SMap.put d.engines e {} (f (d.engine e)) }
def Dev.core (d : Dev) (n : Nat) : Core := SMap.get d.cores n {}
def Dev.onCore (d : Dev) (n : Nat) (f : Core → Core) : Dev :=
  { d with cores := SMap.put d.cores n {} (f (d.core n)) }
def Dev.pc (d : Dev) (b : Nat) : PcBlk := SMap.get d.pcs b {}
def Dev.onPc (d : Dev) (b : Nat) (f : PcBlk → PcBlk) : Dev :=
  { d with pcs := SMap.put d.pcs b {} (f (d.pc b)) }

/-- The rings of a doorbell page, in the order of Table 14-2. -/
def ringCode : RingKind → Nat
  | .command => 0 | .event => 1 | .overhead => 2 | .telemetry => 3 | .capture => 4

/-- Rings the RB48 produces (Table 14-2). -/
def ringProduced (k : RingKind) : Bool := k = .event ∨ k = .telemetry

def Dev.ring (d : Dev) (t : Nat) (k : RingKind) : Ring := SMap.get d.rings (8 * t + ringCode k) {}
def Dev.onRing (d : Dev) (t : Nat) (k : RingKind) (f : Ring → Ring) : Dev :=
  { d with rings := SMap.put d.rings (8 * t + ringCode k) {} (f (d.ring t k)) }

def State.pool (s : State) (m : Nat) : Pool := SMap.get s.pools m {}
def State.onPool (s : State) (m : Nat) (f : Pool → Pool) : State :=
  { s with pools := SMap.put s.pools m {} (f (s.pool m)) }

/-- An operation on everything beside connection memory and the decoder pools. -/
def State.on (s : State) (f : Dev → Dev) : State := { s with dev := f s.dev }

/-- The answer of a command that changes only `dev`. -/
def State.nextOn (s : State) (f : Dev → Dev) : Answer := .next (s.on f)

/-! What leaves the device. -/

def Dev.emit (d : Dev) (o : Out) : Dev := { d with out := o :: d.out }

/-- A free value, and the device with the next one to come (log entry 3). -/
def Dev.fresh (d : Dev) : BitVec 64 × Dev := (Config.freeValue d.free, { d with free := d.free + 1 })

/-! Rings (Table 14-3). -/

def Ring.lsize (r : Ring) : Nat := Fld.get ⟨0, 5⟩ r.cfg
def Ring.en (r : Ring) : Bool := r.cfg.getLsbD 5
def Ring.irq (r : Ring) : Bool := r.cfg.getLsbD 6
def Ring.vec (r : Ring) : Nat := Fld.get ⟨8, 8⟩ r.cfg
def Ring.mod (r : Ring) : Nat := Fld.get ⟨16, 8⟩ r.cfg
def Ring.halted (r : Ring) : Bool := r.stat.getLsbD 0

/-- Entries of an RB48-produced ring that the host has not returned yet (R395). -/
def Ring.used (r : Ring) : Nat := (r.idx - r.db).toNat

/-- The timestamp of a record: capture-island time, accurate to ±100 ns (R27); the error is a free value. -/
def Dev.stamp (d : Dev) : BitVec 64 :=
  BitVec.ofNat 64 d.time + BitVec.ofNat 64 ((Config.freeValue d.free).toNat % 201) - 100#64

/-- Writes a record to an RB48-produced ring, or drops and counts it when the ring is full (R397, R398). A record for a
disabled ring is dropped (R511). The phase is bit lsize of the count of records, inverted. -/
def Dev.record (d : Dev) (t : Nat) (k : RingKind) (rec : Rec) : Dev :=
  let r := d.ring t k
  if !r.en then d
  else if 2 ^ r.lsize ≤ r.used then
    d.onRing t k fun r => { r with lost := r.lost + 1, stat := Fld.set ⟨3, 1⟩ 1 r.stat }
  else
    let d1 := d.emit (.record t k r.idx r.seq (!r.cnt.testBit r.lsize) d.stamp rec)
    let d2 := { d1 with free := d1.free + 1 }
    d2.onRing t k fun r => { r with idx := r.idx + 1, cnt := r.cnt + 1, seq := (r.seq + 1) % 2 ^ 32 }

/-- A record on the owner's event ring (R409). -/
def Dev.ownerRecord (d : Dev) (rec : Rec) : Dev := d.record 0 .event rec

/-- An event for which Table 14-9 lists no type, on the owner's event ring. `die` is numbered as there. -/
def Dev.event (d : Dev) (why : Why) (die obj : Nat) (data : List Nat := []) : Dev :=
  d.ownerRecord ⟨.other why, 0, die, 0, obj, data⟩

/-- The tenant whose event ring takes events about a flow (R409): its owner, tenant 0 for a flow nobody owns. -/
def Dev.flowTenant (d : Dev) (f : Nat) : Nat := if (d.flow f).alive then (d.flow f).owner else 0

/-- An event of no listed type about a flow. -/
def Dev.flowEvent (d : Dev) (why : Why) (f : Nat) (data : List Nat := []) : Dev :=
  d.record (d.flowTenant f) .event ⟨.other why, 0, 12, 0, f, data⟩

/-- A RING event (Table 14-9): the ring and its RING_STAT. -/
def Dev.ringEvent (d : Dev) (t : Nat) (k : RingKind) : Dev :=
  d.ownerRecord ⟨.ring, 0, 12, 0, t, [ringCode k, (d.ring t k).stat.toNat]⟩

/-- The function a tenant is bound to (Table 14-10). -/
def Dev.fnOf (d : Dev) (t : Nat) : Nat := d.fld (0x1C1000 + 4 * t) ⟨0, 9⟩

/-- Sends a ring's MSI-X message, held back while the interval of RING_CFG.mod runs (R400). -/
def Dev.ringMsix (d : Dev) (t : Nat) (k : RingKind) : Dev :=
  let r := d.ring t k
  if r.modBusy then d.onRing t k fun r => { r with modHeld := true }
  else (d.emit (.msix (d.fnOf t) r.vec)).onRing t k fun r => { r with modBusy := decide (0 < r.mod) }

/-- The completion of a descriptor (R400, Table 14-5): res, then st, then the COMPLETION record, then the message.
`drop` discards them all (R391); bit 7 of st marks a late cancel (R401). -/
def Dev.complete (d : Dev) (t : Nat) (k : RingKind) (g : Granted) (st : Nat) (res : Word := 0) : Dev :=
  if g.drop then d
  else
    let st8 : Byte := BitVec.ofNat 8 (st + if g.late then 0x80 else 0)
    let d1 := (d.emit (.res t k g.idx res)).emit (.st t k g.idx st8)
    let d2 := if g.desc.flags.getLsbD 2
      then d1.record t .event
        ⟨.completion, 0, 12, 0, t, [ringCode k, g.idx.toNat, g.desc.op.toNat, st8.toNat, g.desc.tag.toNat]⟩
      else d1
    if g.desc.flags.getLsbD 1 && (d2.ring t k).irq then d2.ringMsix t k else d2

/-- Status codes of Table 14-5. -/
def stDone : Nat := 1
def stRefused : Nat := 2
def stBusy : Nat := 3
def stCancelled : Nat := 4
def stBadop : Nat := 5
def stDenied : Nat := 6
def stDmaerr : Nat := 7

/-- Completes the granted command of a tenant's command ring, whose turn then ends (R402). -/
def Dev.completeCommand (d : Dev) (t : Nat) (st : Nat) (res : Word := 0) : Dev :=
  match (d.ring t .command).granted with
  | none => d
  | some g =>
    (d.complete t .command g st res).onRing t .command fun r => { r with granted := none }

end Sys2Proof.Machine
end

