-- ==== Sys2Proof/Machine/Events.lean ====
section
/-!
DEFINITION. Performance counters as events reach them (R476 to R480) and the source lines of the Stylus interrupt
controller (R430, R432, R554).
-/
namespace Sys2Proof.Machine
open RegMap (pcBase)

/-! Counter blocks. -/

/-- PC_SEL_i of block `b`. -/
def Dev.pcSel (d : Dev) (b i : Nat) : Word := d.reg (pcBase b + 0x50 + 4 * i)

/-- The block is frozen, by PC_CTRL.frz or by PC_GLB.frz (R482). -/
def Dev.pcFrozen (d : Dev) (b : Nat) : Bool := d.bit (pcBase b + 0x70) 0 || d.pcGlbFrz

/-- Counter `i` is the even counter of a chained pair (R479). -/
def Dev.pcEvenChained (d : Dev) (b i : Nat) : Bool := decide (i % 2 = 0) && (d.pcSel b (i + 1)).getLsbD 17

/-- Counter `i` is the odd half of a chained pair: it counts nothing of its own. -/
def Dev.pcOddChained (d : Dev) (b i : Nat) : Bool := decide (i % 2 = 1) && (d.pcSel b i).getLsbD 17

/-- The die a counter block lies on (Table 17-4, Table 14-9). -/
def pcDie (b : Nat) : Nat :=
  if b < 48 then 8 + b / 12 else if b < 52 then 8 + (b - 48) else if b < 64 then 12 else 13 + (b - 64)

/-- The overflow event of counter `i` of block `b`; 8 is the cycle counter (R480, R556). -/
def Dev.blockEvent (d : Dev) (b i : Nat) : Dev := d.ownerRecord ⟨.block, 16 * b + i, pcDie b, b, 0, []⟩

/-- Adds `n` to programmable counter `i` of block `b` (Table 17-7). -/
def Dev.pcAdd (d : Dev) (b i n : Nat) : Dev :=
  let v := SMap.get (d.pc b).cnt i 0 + n
  let store (x : Nat) (d : Dev) : Dev := d.onPc b fun p => { p with cnt := SMap.put p.cnt i 0 x }
  let flag (j : Nat) (d : Dev) : Dev := d.setBit (pcBase b + 0x74) j
  if d.pcEvenChained b i then
    if v < 2 ^ 96 then store v d else ((flag (i + 1) (store (v % 2 ^ 96) d))).blockEvent b (i + 1)
  else if v < 2 ^ 48 then store v d
  else if (d.pcSel b i).getLsbD 16 then flag i (store (2 ^ 48 - 1) d)
  else (flag i (store (v % 2 ^ 48) d)).blockEvent b i

/-- Counter `i` of block `b` is set to count event `evt` at index `idx` (R476). -/
def Dev.pcCounts (d : Dev) (b i evt idx : Nat) : Bool :=
  let sel := d.pcSel b i
  sel.getLsbD 14 && decide (Fld.get ⟨0, 8⟩ sel = evt) &&
    (decide (Fld.get ⟨8, 6⟩ sel = 63) || decide (Fld.get ⟨8, 6⟩ sel = idx)) &&
    !d.pcFrozen b && !d.pcOddChained b i

/-- `n` occurrences of a line event, or a value event of value `n`, at block `b` (R476). How many cycles the
occurrences of one command fall in is open, so with lvl at 1 the count is a free value from 1 to `n` (log entry 3). -/
def Dev.count (d : Dev) (b evt idx n : Nat) (value : Bool := false) : Dev :=
  if n = 0 then d
  else each (List.range 8) (fun i d =>
    if d.pcCounts b i evt idx then
      if value || !(d.pcSel b i).getLsbD 15 || n = 1 then d.pcAdd b i n
      else { d.pcAdd b i (1 + (Config.freeValue d.free).toNat % n) with free := d.free + 1 }
    else d) d

/-- `n` cycles of the island clock of block `b` (R476, Table 17-7). -/
def Dev.pcCycles (d : Dev) (b n : Nat) : Dev :=
  if d.pcFrozen b then d
  else
    let v := (d.pc b).cyc + n
    if v < 2 ^ 64 then d.onPc b fun p => { p with cyc := v }
    else ((d.onPc b fun p => { p with cyc := v % 2 ^ 64 }).setBit (pcBase b + 0x74) 8).blockEvent b 8

/-- Clears the counters, PC_OVF and the read latches of block `b` (Table 17-6, R481). -/
def Dev.pcClear (d : Dev) (b : Nat) : Dev :=
  (d.onPc b fun p => { p with cyc := 0, cnt := [], latch := [] }).setReg (pcBase b + 0x74) 0

/-- Copies the counters of block `b` into its snapshot cells (R482). -/
def Dev.pcSnap (d : Dev) (b : Nat) : Dev :=
  (d.onPc b fun p => { p with snapCyc := p.cyc, snap := p.cnt }).incFld (pcBase b + 0xD0) ⟨0, 16⟩

/-- The block that counts for a cluster or unit of the hub (Table 17-4). -/
def pcFramer : Nat := 56
def pcSwitch : Nat := 57
def pcCipher (x : Nat) : Nat := 58 + x
def pcLink : Nat := 60
def pcHost : Nat := 61
def pcMatrix : Nat := 62
def pcTrust : Nat := 63

/-- A counter of block `b` as cell word `hi` of counter `i` shows it (Table 17-6, R479). -/
def Dev.pcCell (d : Dev) (b : Nat) (cnt : SMap Nat) (i : Nat) (hi : Bool) : Nat :=
  if d.pcOddChained b i then (if hi then 0 else SMap.get cnt (i - 1) 0 / 2 ^ 64 % 2 ^ 32)
  else if hi then SMap.get cnt i 0 / 2 ^ 32 % 2 ^ 32 else SMap.get cnt i 0 % 2 ^ 32

/-- What a HI cell at offset `off` shows besides the read latch, and every other counter cell: offsets below 0x50 are
live, from 0x80 the snapshot. -/
def Dev.pcLive (d : Dev) (b off : Nat) : Nat :=
  let snap := decide (0x80 ≤ off)
  let o := if snap then off - 0x80 else off
  let cyc := if snap then (d.pc b).snapCyc else (d.pc b).cyc
  let cnt := if snap then (d.pc b).snap else (d.pc b).cnt
  if o = 0 then cyc % 2 ^ 32
  else if o = 4 then cyc / 2 ^ 32
  else d.pcCell b cnt ((o - 0x10) / 8) (decide (o % 8 = 4))

/-! Interrupt sources. -/

/-- The core a source goes to (R425). -/
def Dev.sourceCore (d : Dev) (s : Nat) : Nat := Fld.get ⟨8, 2⟩ (d.icReg (0x1000 + 4 * s))

/-- The pending bit of a source. -/
def Dev.pendBit (d : Dev) (s : Nat) : Bool := (d.icReg (0x100 + 4 * (s / 32))).getLsbD (s % 32)

def Dev.setPendBit (d : Dev) (s : Nat) (b : Bool) : Dev :=
  d.setIc (0x100 + 4 * (s / 32)) (Fld.set ⟨s % 32, 1⟩ b.toNat (d.icReg (0x100 + 4 * (s / 32))))

/-- IC_CTRL_n.hold. -/
def Dev.held (d : Dev) (n : Nat) : Bool := (d.icReg (0x300 + 0x20 * n)).getLsbD 0

/-- A hardware set or clear of a pending bit, kept in the shadow of its core while that core holds (R430, R432). -/
def Dev.pend (d : Dev) (s : Nat) (b : Bool) : Dev :=
  let n := d.sourceCore s
  if d.held n then d.onCore n fun c => { c with held := c.held ++ [(s, b)] } else d.setPendBit s b

/-- The copy of a source that goes to core 3 (R554). -/
def sourceCopy (s : Nat) : Option Nat :=
  if s < 48 then some (449 + s) else if 52 ≤ s ∧ s < 60 then some (497 + (s - 52))
  else if s = 99 then some 505 else if s = 107 then some 506 else none

/-- Reserved sources never pend (R554). -/
def sourceReserved (s : Nat) : Bool := decide ((175 ≤ s ∧ s ≤ 447) ∨ 507 ≤ s)

/-- A rising edge on a block's line: the source and its copy pend (R430, R554). -/
def Dev.line (d : Dev) (s : Nat) : Dev :=
  if sourceReserved s then d
  else match sourceCopy s with
    | none => d.pend s true
    | some k => (d.pend s true).pend k true

end Sys2Proof.Machine
end

