-- ==== Sys2Proof/Machine/Operands.lean ====
section
/-!
DEFINITION. What the operands of the commands name: cluster numbers and their registers (Table 1-3, Table 21-3), the
addresses of registers that several families use, and the line slots of carriers (R62).
-/
namespace Sys2Proof.Machine
open RegMap

/-- The number of a cluster: its counter block (Table 17-4), and 99 for the timing cluster, which has none. -/
def clusterCode : Cluster → Nat
  | .carrier c => c | .pool m => 48 + m | .framer => 56 | .switch => 57 | .cipher x => 58 + x | .timing => 99

def clusterKind : Cluster → ClKind
  | .carrier _ => .carrier | .pool _ => .pool | .framer => .framer | .switch => .switch | .cipher _ => .cipher
  | .timing => .timing

/-- CLUS_CMT of a cluster (Table 21-3). -/
def cmtAddr : Cluster → Nat
  | .carrier c => carrBase c + 4 | .pool m => poolBase m + 4 | .framer => 0x100004 | .switch => 0x140004
  | .cipher x => 0x180004 + 0x8000 * x | .timing => 0x4004

/-- The die a cluster lies on (Table 1-1). -/
def clusterDie : Cluster → Nat
  | .carrier c => 8 + c / 12 | .pool m => 8 + m | _ => 12

/-- The cluster whose configuration register a descriptor with indices is. CIPH_CTRL belongs to both cipher clusters and
is given here under cluster 0. -/
def ownerCluster (d : RegDesc) (idx : List Nat) : Option Cluster :=
  match d.cl, idx with
  | .carrier, m :: x :: _ => if h : 12 * m + x < 48 then some (.carrier ⟨12 * m + x, h⟩) else none
  | .pool, m :: _ => if h : m < 4 then some (.pool ⟨m, h⟩) else none
  | .framer, _ => some .framer
  | .switch, _ => some .switch
  | .cipher, x :: _ => if h : x < 2 then some (.cipher ⟨x, h⟩) else none
  | .cipher, [] => some (.cipher 0)
  | .timing, _ => some .timing
  | _, _ => none

/-- Every cluster of the package. -/
def allClusters : List Cluster :=
  (List.finRange 48).map .carrier ++ (List.finRange 4).map .pool ++
    [.framer, .switch, .cipher 0, .cipher 1, .timing]

/-! Addresses that several families use. -/

def aRstStat : Nat := 0x24
def aEpoch : Nat := 0x8
def aPwrStat : Nat := 0x2004
def aPwrCfg : Nat := 0x2008
def aPwrRstat : Nat := 0x2010
def aFcCtrl : Nat := 0x3380
def aTmStat : Nat := 0x4008
def aMxFence : Nat := 0x60C8
def aTcStat : Nat := 0xE000
def aBmfCnt : Nat := 0x100018
def aSwCtrl : Nat := 0x140010
def aSwTgt : Nat := 0x140014
def aSwStat : Nat := 0x140018
def aTxOmf : Nat := 0x14001C
def aHiDisc : Nat := 0x1C0000
def aPortMap (p : Nat) : Nat := 0x108000 + 4 * p
def aPortStat (p : Nat) : Nat := 0x108100 + 4 * p
def aCarrCtrl (c : Nat) : Nat := carrBase c
def aCarrSym (c : Nat) : Nat := carrBase c + 0x10
def aCarrFmt (c : Nat) : Nat := carrBase c + 0x14
def aCarrFreq (c : Nat) : Nat := carrBase c + 0x18
def aCarrTx (c : Nat) : Nat := carrBase c + 0x1C
def aCarrZr (c : Nat) : Nat := carrBase c + 0x20
def aCarrStat (c : Nat) : Nat := carrBase c + 0x28
def aRxStat (c : Nat) : Nat := carrBase c + 0x240

/-- CLUS_CMT.pending. -/
def Dev.cmtPending (d : Dev) (k : Cluster) : Bool := d.bit (cmtAddr k) 1

/-- CARR_STAT.state codes (Table 7-4). -/
def csOff : Nat := 0
def csTune : Nat := 1
def csRampUp : Nat := 2
def csRun : Nat := 3
def csRampDown : Nat := 4
def csDark : Nat := 5

/-- CARR_STAT.state. -/
def Dev.cState (d : Dev) (c : Nat) : Nat := d.fld (aCarrStat c) ⟨0, 3⟩
def Dev.setCState (d : Dev) (c st : Nat) : Dev := d.setFld (aCarrStat c) ⟨0, 3⟩ st

/-- RX_STAT.state codes (Table 10-6). -/
def rxIdle : Nat := 0
def rxNolight : Nat := 1
def rxSearch : Nat := 2
def rxRetest : Nat := 3
def rxLocked : Nat := 4

/-- RX_STAT.state. -/
def Dev.rxState (d : Dev) (c : Nat) : Nat := d.fld (aRxStat c) ⟨0, 3⟩

/-- The carrier is enabled in the active copy. -/
def Dev.cEnabled (d : Dev) (c : Nat) : Bool := (d.actReg (aCarrCtrl c)).getLsbD 0

/-- The carrier runs the 400ZR interoperable mode (R201). -/
def Dev.cZr (d : Dev) (c : Nat) : Bool := (d.actReg (aCarrCtrl c)).getLsbD 1

/-- The slot count M_c in force; an interop carrier counts 0 slots (R202). -/
def Dev.cSlots (d : Dev) (c : Nat) : Nat := if d.cZr c then 0 else d.actFld (aCarrFmt c) ⟨20, 9⟩

/-! The line slots of carriers (R62). -/

/-- The key of a connection memory entry or a base table entry. -/
def connKey (page : Nat) (rx : Bool) (i : Nat) : Nat := page * 2 ^ 15 + rx.toNat * 2 ^ 14 + i

/-- The index of the active page of a direction (Table 3-6). -/
def Dev.actPage (d : Dev) (rx : Bool) : Nat := d.fld aSwStat ⟨rx.toNat, 1⟩

def Conn.entry (m : Conn) (page : Nat) (rx : Bool) (s : Nat) : Word := SMap.get m.pages (connKey page rx s) 0
def Conn.base (m : Conn) (page : Nat) (rx : Bool) (c : Nat) : Nat :=
  Fld.get ⟨0, 13⟩ (SMap.get m.bases (connKey page rx c) 0)

/-- The listed entries of one page and direction, as (line slot, word), those not listed being idle. -/
def Conn.listed (m : Conn) (page : Nat) (rx : Bool) : List (Nat × Word) :=
  m.pages.filterMap fun p =>
    let lo := connKey page rx 0
    if lo ≤ p.1 ∧ p.1 < lo + 2 ^ 14 ∧ p.2.getLsbD 0 then some (p.1 - lo, p.2) else none

/-- Fields of a connection memory entry (Table 3-3). -/
def entryFlow (w : Word) : Nat := Fld.get ⟨1, 12⟩ w
def entryIdx (w : Word) : Nat := Fld.get ⟨13, 9⟩ w
def entryOf (flow idx : Nat) : Word := BitVec.ofNat 32 (1 + flow % 2 ^ 12 * 2 + idx % 2 ^ 9 * 2 ^ 13)

/-- The carriers a list of line slots lies on, under a base table. -/
def carriersOf (m : Conn) (page : Nat) (rx : Bool) (slotsOf : Nat → Nat) (ss : List Nat) : List Nat :=
  (List.range 48).filter fun c =>
    let b := m.base page rx c
    ss.any fun s => decide (b ≤ s ∧ s < b + slotsOf c)

end Sys2Proof.Machine
end

