-- ==== Sys2Proof/Machine/Flags.lean ====
section
/-!
DEFINITION. The flags of the RB48: raw and reported defects of carriers and flows with their events (R139 to R144), the
consequent actions as functions of the state (R60, R61, R146, R148), in-frame (R577), FAULT_N (R518) and the entering of
SSF from the carriers (R143, R144).
-/
namespace Sys2Proof.Machine

/-- The lowest set bit below `n`: the highest defect of an ordered list (R139). -/
def lowestBit (n raw : Nat) : Option Nat := (List.range n).find? fun i => raw.testBit i

/-- The carrier defect reported (R139). -/
def Carrier.rep (c : Carrier) : Option Nat := lowestBit 11 c.raw.toNat
/-- The flow defect reported (R139). -/
def Flow.rep (f : Flow) : Option Nat := lowestBit 10 f.raw.toNat

def repBits (r : Option Nat) : Nat := match r with | none => 0 | some i => 2 ^ i

/-- CDEF_c (Table 5-9) and FDEF_f (Table 5-10). -/
def Dev.cdefWord (d : Dev) (c : Nat) : Word :=
  BitVec.ofNat 32 (repBits (d.carrier c).rep + (d.carrier c).raw.toNat * 2 ^ 16)
def Dev.fdefWord (d : Dev) (f : Nat) : Word :=
  BitVec.ofNat 32 (repBits (d.flow f).rep + (d.flow f).raw.toNat * 2 ^ 16)

/-- The actions in force of a carrier defect and of a flow defect (R146, R150). -/
def Dev.caCarr (d : Dev) (i : Nat) : Word := d.actReg (0x100100 + 4 * i)
def Dev.caFlow (d : Dev) (i : Nat) : Word := d.actReg (0x100140 + 4 * i)

/-- Bit `b` of the action register of the reported defect. -/
def Dev.carrAction (d : Dev) (c b : Nat) : Bool :=
  match (d.carrier c).rep with | none => false | some i => (d.caCarr i).getLsbD b
def Dev.flowAction (d : Dev) (f b : Nat) : Bool :=
  match (d.flow f).rep with | none => false | some i => (d.caFlow i).getLsbD b

/-- The carrier counts as signal fail for its flows: by its reported defect (R146) or by SQUELCH (Table 19-2). -/
def Dev.carrSf (d : Dev) (c : Nat) : Bool := d.carrAction c 0 || (d.carrier c).squelch

/-- The converter die or the modem die of a carrier is lost (Table 1-2). -/
def Dev.carrDead (d : Dev) (c : Nat) : Bool := (d.die (c / 6)).lost || (d.die (8 + c / 12)).lost

/-- SM BDI is sent on transmitted carrier `c`; PM BDI in transmitted flow `f` (R146, R148). -/
def Dev.smBdi (d : Dev) (c : Nat) : Bool := d.carrAction c 1
def Dev.pmBdi (d : Dev) (f : Nat) : Bool := d.flowAction f 1

/-- A hub datapath reset runs (R524): framer, switch and cipher clusters are in reset together. -/
def Dev.hubReset (d : Dev) : Bool :=
  (d.cluster 56).reset && (d.cluster 57).reset && (d.cluster 58).reset && (d.cluster 59).reset

/-- Client replacement of a flow: a reported defect with rep at 1, SQUELCH, SAFE, or a hub datapath reset (R60, R146,
Table 19-2, R517, R524). -/
def Dev.flowReplaced (d : Dev) (f : Nat) : Bool := d.flowAction f 0 || (d.flow f).squelch || d.safe || d.hubReset

/-- The flow bound to a port. -/
def Dev.flowOfPort (d : Dev) (p : Nat) : Option Nat :=
  (d.flows.find? fun e => e.2.alive && decide (e.2.port = p)).map fun e => e.1

/-- The interop carrier that carries a port (R202). -/
def Dev.interopOf (d : Dev) (p : Nat) : Option Nat :=
  (List.range 48).find? fun c => d.cEnabled c && d.cZr c && decide (d.actFld (aCarrZr c) ⟨0, 6⟩ = p)

/-- A received interop carrier delivers client data: its modem is LOCKED and 400ZR frames are aligned. -/
def Dev.zrDelivers (d : Dev) (c : Nat) : Bool :=
  decide (d.rxState c = rxLocked) && !(d.carrier c).raw.getLsbD 2 && !d.carrDead c

/-- What a port's egress sends. -/
inductive Egress where
  | idle | localFault | mapped
  deriving DecidableEq, Repr

/-- Egress of port `p` (R60, R61, R202, R381): a disabled port is idle; a port of an interop carrier sends what the carrier
delivers; a port whose flow has been deleted, or with a standby flow, sends local fault. What an enabled port sends that never had a flow
is not said: local fault too, the model's choice (log entry 118). -/
def Dev.egress (d : Dev) (p : Nat) : Egress :=
  let w := d.reg (aPortMap p)
  if !w.getLsbD 0 then .idle
  else match d.flowOfPort p with
    | none => match d.interopOf p with
      | some c => if d.zrDelivers c && !d.safe then .mapped else .localFault
      | none => .localFault
    | some f =>
      if (d.flow f).pairInForce.isSome && !(d.flow f).act then .localFault
      else if d.flowReplaced f then (if w.getLsbD 10 then .idle else .localFault) else .mapped

/-- The keys of overhead objects (R406). -/
def ohKey : OhRef → Nat
  | .flow f => f | .otuc c => 4096 + c | .oduc c => 4160 + c

/-- Received carrier `c` is in frame (R577). A carrier delivers no bytes while delineation is not found or the modem is
not LOCKED; its OTUCn-M is then out of frame and out of multiframe (R142). -/
def Dev.inFrame (d : Dev) (c : Nat) : Bool :=
  let k := d.carrier c
  let o := d.overhead (4096 + c)
  d.cEnabled c && !d.cZr c && !k.raw.getLsbD 0 && !k.raw.getLsbD 1 && !k.raw.getLsbD 2 &&
    decide (d.rxState c = rxLocked) && k.delin.isSome && !o.oof && !o.oom

/-- A carrier delivers no OTUCn-M bytes any more: out of frame and out of multiframe until FAS and MFAS are found again, and its
arrival is no longer measured (R142, R577). -/
def Dev.alignLost (d : Dev) (c : Nat) : Dev :=
  ((d.onCarrier c fun k => { k with arrival := none, mfRx := 0 }).onRxm c fun m =>
    { m with otu := [], mfas := none, otuFrames := [] }).onOverhead (4096 + c) fun o =>
      { o with oof := true, oom := true, oofRun := 0, oomRun := 0 }

/-- The lowest-numbered in-frame carrier (R80, R136). -/
def Dev.leadCarrier (d : Dev) : Option Nat := (List.range 48).find? fun c => d.inFrame c

/-- Byte j of the receive status of band overhead (R133). -/
def Dev.rxsByte (d : Dev) (j : Nat) : Byte :=
  match (d.carrier j).rep with | none => 0 | some i => BitVec.ofNat 8 (i + 1)

/-- DSK_OFS_c (R69): the arrival after the earliest in-frame carrier, in 10 ns. An in-frame carrier whose multiframe has not arrived yet
reads 0xFFFF and counts for no other, which is the model's choice (log entry 119). -/
def Dev.dskOfs (d : Dev) (c : Nat) : Nat :=
  let arr (x : Nat) : Option Nat := if d.inFrame x then (d.carrier x).arrival else none
  match arr c with
  | none => 0xFFFF
  | some a =>
    let first := (List.range 48).foldl (fun m x => match arr x with | none => m | some b => min m b) a
    min (a - first) 0xFFFE

/-! Events of defects. -/

/-- The layer a carrier defect's record names, with the codes of R406: OTUCn 1, ODUCn 2 (log entry 14). -/
def carrLayer (i : Nat) : Nat := if i = 5 ∨ i = 6 ∨ i = 7 then 2 else 1

def Dev.carrDefectEvent (d : Dev) (c i : Nat) (entry : Bool) : Dev :=
  if (d.caCarr i).getLsbD 2 then
    d.ownerRecord ⟨.defect, i, 8 + c / 12, 0, c, [entry.toNat + 2 * carrLayer i]⟩
  else d

def Dev.flowDefectEvent (d : Dev) (f i : Nat) (entry : Bool) : Dev :=
  if (d.caFlow i).getLsbD 2 then d.record (d.flow f).owner .event ⟨.defect, i, 12, 0, f, [entry.toNat]⟩ else d

/-- The events of a change of the reported defect from `old` to `new`, of which `new` has raw bits `raw` (R140, R141):
an exit event when the old one is no longer raw-present, an entry event for the new one. -/
def defectEvents {β : Type} (old new : Option Nat) (raw : Nat) (ev : Nat → Bool → β → β) (d : β) : β :=
  if old = new then d
  else
    let d1 := match old with
      | some i => if raw.testBit i then d else ev i false d
      | none => d
    match new with
    | some e => ev e true d1
    | none => d1

/-- Sets the raw defects of a carrier, with the events this raises. -/
def Dev.setCarrRaw (d : Dev) (c : Nat) (raw : BitVec 11) : Dev :=
  let old := (d.carrier c).rep
  let d1 := d.onCarrier c fun k =>
    { k with raw := raw, pm := { k.pm with seen := k.pm.seen || (lowestBit 11 raw.toNat).isSome } }
  defectEvents old (lowestBit 11 raw.toNat) raw.toNat (fun i b d => d.carrDefectEvent c i b) d1

/-- Sets the raw defects of a flow, with the events this raises. A takeover is asked for only while SSF, SKEW, LCK, KEY or AUTH
is reported without a break (R382). -/
def Dev.setFlowRaw (d : Dev) (f : Nat) (raw : BitVec 10) : Dev :=
  let old := (d.flow f).rep
  let rep := lowestBit 10 raw.toNat
  let bad := decide (rep = some 0 ∨ rep = some 1 ∨ rep = some 3 ∨ rep = some 6 ∨ rep = some 7)
  let d1 := d.onFlow f fun k =>
    { k with raw := raw, askTakeover := k.askTakeover && bad, pm := { k.pm with seen := k.pm.seen || rep.isSome } }
  defectEvents old (lowestBit 10 raw.toNat) raw.toNat (fun i b d => d.flowDefectEvent f i b) d1

/-- A word with bit `i` set or cleared. -/
def withBit {n : Nat} (w : BitVec n) (i : Nat) (b : Bool) : BitVec n :=
  if b then w ||| BitVec.ofNat n (2 ^ i) else w &&& ~~~ BitVec.ofNat n (2 ^ i)

/-- A carrier defect enters or exits. Only an enabled carrier has defects (R140), and an interop carrier only LOLI, LOAQ
and LOCF (R122). -/
def Dev.carrDefect (d : Dev) (c i : Nat) (b : Bool) : Dev :=
  if d.cEnabled c && (!d.cZr c || decide (i ≤ 2)) then d.setCarrRaw c (withBit (d.carrier c).raw i b) else d

/-- A flow defect enters or exits; a flow that does not exist has none (R140). -/
def Dev.flowDefect (d : Dev) (f i : Nat) (b : Bool) : Dev :=
  if (d.flow f).alive then d.setFlowRaw f (withBit (d.flow f).raw i b) else d

/-! SSF (R143, R144). -/

/-- The flow has a receive entry that differs between the two pages (R82). -/
def State.entriesDiffer (s : State) (f : Nat) : Bool :=
  let mine (p : Nat) := (s.conn.listed p true).filter fun e => entryFlow e.2 = f
  mine 0 ≠ mine 1

/-- A cause of SSF of flow `f` holds (Table 5-6, d = 0). -/
def State.ssfCause (s : State) (f : Nat) : Bool :=
  let p := s.dev.actPage true
  let ss := ((s.conn.listed p true).filter fun e => entryFlow e.2 = f).map fun e => e.1
  (carriersOf s.conn p true s.dev.cSlots ss).any (fun c => s.dev.carrSf c) ||
    (s.dev.bit aSwStat 4 && s.entriesDiffer f)

/-- SSF of every flow follows its causes. -/
def State.ssfUpdate (s : State) : State :=
  s.on fun d => each (d.flows.map fun e => e.1) (fun f d =>
    let b := s.ssfCause f
    if (d.flow f).raw.getLsbD 0 = b then d else d.flowDefect f 0 b) d

/-- An operation on carriers, after which SSF follows. -/
def State.onWithSsf (s : State) (f : Dev → Dev) : State := (s.on f).ssfUpdate

/-! Received band overhead in BOH_RX_c (Table 5-4). -/

/-- BOH_RX_c follows the last accepted block, its age and FR_ID.exp; with no block accepted since the carrier was enabled or
the framer reset, it holds nothing valid. A change of mis raises an event (R137). -/
def Dev.bohUpdate (d : Dev) (c : Nat) : Dev :=
  let a := 0x101100 + 4 * c
  let k := d.carrier c
  let valid := k.boh.isSome && decide (k.sinceBoh < 4)
  let mis := valid && (match k.boh with | some b => decide (b.band.toNat ≠ d.actFld 0x100010 ⟨16, 16⟩) | none => false)
  let fields := match k.boh with | some b => b.band.toNat + b.pkg.toNat * 2 ^ 16 + b.set.toNat * 2 ^ 18 | none => 0
  let d1 := d.setReg a (BitVec.ofNat 32 (fields + valid.toNat * 2 ^ 19 + mis.toNat * 2 ^ 20))
  if mis = d.bit a 20 then d1 else d1.event .bandMismatch 12 c [mis.toNat]

/-! FAULT_N (R518). -/

/-- Class in force of fault source `i` of die `x`: LOG while suppressed (R513, R516). -/
def Dev.faultClass (d : Dev) (x i : Nat) : Nat :=
  if d.bit (0x3300 + 8 * x + 4 * (i / 32)) (i % 32) then 0
  else d.fld (0x3100 + 0x20 * x + 4 * (i / 8)) ⟨4 * (i % 8), 3⟩

/-- Status bit of fault source `i` of die `x` (R510). -/
def Dev.faultStatus (d : Dev) (x i : Nat) : Bool := d.bit (0x3000 + 8 * x + 4 * (i / 32)) (i % 32)

/-- FAULT_N is low: a status bit whose class is SQUELCH or higher is set, or SAFE holds. -/
def Dev.faultLow (d : Dev) : Bool :=
  d.safe || (List.range 16).any fun x => (List.range 64).any fun i =>
    d.faultStatus x i && decide (1 ≤ d.fld (0x3100 + 0x20 * x + 4 * (i / 8)) ⟨4 * (i % 8), 3⟩)

end Sys2Proof.Machine
end

