-- ==== Sys2Proof/Machine/Clusters.lean ====
section
/-!
DEFINITION. Clusters: taking the shadow copy (R15, R16, R87), refusing a commit (R19), and cluster reset (R20, R83, R110,
R210, R297, R313, R351); the register resets of regions and die windows (Table 19-2, R539).
-/
namespace Sys2Proof.Machine
open RegMap

/-- The listed registers of a map that satisfy a condition on descriptor and indices. -/
def listedWhere (p : RegDesc → List Nat → Bool) (m : SMap Word) : List (Nat × RegDesc × List Nat) :=
  m.filterMap fun e => match find table e.1 with
    | some (d, is) => if p d is then some (e.1, d, is) else none
    | none => none

/-- Registers return to their reset values, RWS fields kept (R8). -/
def Dev.resetWhere (d : Dev) (p : RegDesc → List Nat → Bool) : Dev :=
  each (listedWhere p d.regs) (fun r d => d.setReg r.1 (resetKeepingRws r.2.1 r.2.2 (d.reg r.1))) d

/-- The same for active copies (R20). -/
def Dev.resetActWhere (d : Dev) (p : RegDesc → List Nat → Bool) : Dev :=
  each (listedWhere p d.act) (fun r d => d.setAct r.1 (resetKeepingRws r.2.1 r.2.2 (d.actReg r.1))) d

/-- The register is configuration of cluster `k`; CIPH_CTRL belongs to both cipher clusters. -/
def isConfigOf (k : Cluster) (d : RegDesc) (idx : List Nat) : Bool :=
  decide (ownerCluster d idx = some k) || (match k with | .cipher _ => decide (d.id = .ciphCtrl) | _ => false)

/-- Registers of carrier clusters whose fields serve both directions (Table 1-3, R333). -/
def bothDirs (id : RegId) : Bool := id = .xhCtrl ∨ id = .xhNbLo ∨ id = .xhNbHi

/-- Registers of carrier clusters that serve reception. -/
def rxConfig (id : RegId) : Bool :=
  id = .rxcA ∨ id = .rxcB ∨ id = .rxCtrl ∨ id = .rxCd ∨ id = .rxLoop ∨ id = .rxDmap ∨ id = .rxEstcfg

/-- The active copy of a carrier register in the receive direction. -/
def Dev.actRxReg (d : Dev) (a : Nat) : Word := SMap.get d.actRx a (resetAt a)

/-- The registers satisfying `p` are taken from the shadow copy into the active copy at once (R15). -/
def Dev.takeWhere (d : Dev) (p : RegDesc → List Nat → Bool) : Dev :=
  each (listedWhere p (d.act ++ d.regs)) (fun r d => d.setAct r.1 (d.reg r.1)) d

/-- The receive direction takes the fields that serve both directions. -/
def Dev.takeRxBoth (d : Dev) (k : Cluster) : Dev :=
  each (listedWhere (fun de is => isConfigOf k de is && bothDirs de.id) (d.actRx ++ d.regs))
    (fun r d => { d with actRx := SMap.put d.actRx r.1 (resetAt r.1) (d.reg r.1) }) d

/-- A cluster takes its shadow copy in the given direction. -/
def Dev.takeShadow (d : Dev) (k : Cluster) (tx rx : Bool) : Dev :=
  let d1 := if tx then d.takeWhere fun de is => isConfigOf k de is && !rxConfig de.id else d
  if rx then (d1.takeWhere fun de is => isConfigOf k de is && rxConfig de.id).takeRxBoth k else d1

/-- The transmit settings of a cluster as its shadow copy holds them. -/
def Dev.shadowTx (d : Dev) (k : Cluster) : List (Nat × Word) :=
  (listedWhere (fun de is => isConfigOf k de is && !rxConfig de.id) (d.act ++ d.regs)).map fun r => (r.1, d.reg r.1)

/-- The receive settings of a cluster as its shadow copy holds them, and those that serve both directions. -/
def Dev.shadowRx (d : Dev) (k : Cluster) : List (Nat × Word) × List (Nat × Word) :=
  ((listedWhere (fun de is => isConfigOf k de is && rxConfig de.id) (d.act ++ d.regs)).map fun r => (r.1, d.reg r.1),
   (listedWhere (fun de is => isConfigOf k de is && bothDirs de.id) (d.actRx ++ d.regs)).map fun r => (r.1, d.reg r.1))

/-- Settings put into the active copies. -/
def Dev.takeSettings (d : Dev) (tx : List (Nat × Word)) (rx : List (Nat × Word) × List (Nat × Word)) : Dev :=
  each rx.2 (fun r d => { d with actRx := SMap.put d.actRx r.1 (resetAt r.1) r.2 })
    (each (tx ++ rx.1) (fun r d => d.setAct r.1 r.2) d)

/-- A running change procedure holds cluster `k` locked: it has acknowledged. -/
def Dev.changeLocks (d : Dev) (k : Cluster) : Bool :=
  match d.chg with | some g => g.granted && g.clusters.contains k && !g.waiting.contains k | none => false

/-- A commit took effect: CLUS_CMT.count advances and the request ends (Table 1-4). -/
def Dev.commitDone (d : Dev) (k : Cluster) : Dev :=
  let a := cmtAddr k
  ((d.incFld a ⟨16, 16⟩).setFld a ⟨0, 2⟩ 0).onCluster (clusterCode k) fun c =>
    { c with txDone := false, rxDone := false, flowsLeft := [], due := false, locked := c.locked && (!c.due || d.changeLocks k) }

/-- A commit is refused: the active copy is kept, CLUS_CMT.refused is set and an event raised (R19). -/
def Dev.commitRefused (d : Dev) (k : Cluster) : Dev :=
  ((d.setFld (cmtAddr k) ⟨0, 2⟩ 0).setBit (cmtAddr k) 2).event .commitRefused (clusterDie k) (clusterCode k)

/-! Cluster reset. -/

/-- A carrier's state after its cluster reset, beside RWS fields (R210, R297, R313): carrier state and transmit enable
are kept, DACs stand at mid-code, the receive modem starts a cold search. -/
def Dev.resetCarrier (d : Dev) (c : Nat) : Dev :=
  let b := carrBase c
  let x := xhBase c
  let st := d.cState c
  let d1 := (d.resetWhere fun de is => match de.id, is with
      | .rxStat, [m, i] | .rxModeA, [m, i] | .rxModeB, [m, i] | .rxEst, [m, i, _] | .xhTrim, [m, i, _]
      | .xhStat, [m, i] => decide (12 * m + i = c)
      | _, _ => false).setFld (b + 0x28) ⟨3, 1⟩ 0
  let d2 := ((d1.setFld (x + 0x10) ⟨1, 4⟩ 0).setFld (x + 0x20) ⟨1, 4⟩ 0).setReg (x + 0x14) 0
  let rx := if st = csOff then rxIdle else if (d.carrier c).raw.getLsbD 0 then rxNolight else rxSearch
  let d3 := d2.setFld (b + 0x240) ⟨0, 3⟩ rx
  let d4 := d3.onCarrier c fun k =>
    { k with midCode := true, warm := false, goodMet := [], badMet := 0, framesIn := 0, phase := none, delin := none,
             retestQ := [], retestAt := none, lockedSeen := false, xhSeen := none, xhDiff := 0, xhAt := none,
             xhLate := none, xhFirst := true, xhStop := false, oldTrims := [], locfBad := 0, locfGood := 0,
             cands := (List.range 4).map fun q => (d.actReg (b + 0x200 + 8 * q), d.actReg (b + 0x204 + 8 * q)),
             cdFix := if (d.actReg (b + 0x220)).getLsbD 0 then some (Fld.int ⟨0, 16⟩ (d.actReg (b + 0x224))) else none }
  (((d4.modemsClear c).carrDefect c 1 true).alignLost c).setFld (x + 0x30) ⟨8, 1⟩ 1

/-- What a switch cluster reset does beside its configuration (R83): arms, a running copy and every sticky bit go; both
pages, the active indices and the page mismatch defect are kept. The flow commands whose swap is discarded complete as
REFUSED (log entry 16). -/
def Dev.resetSwitch (d : Dev) : Dev :=
  let keep := d.reg aSwStat &&& 0x53#32
  let armed := d.bit aSwCtrl 0
  let d1 := ((d.setReg aSwCtrl 0).setReg aSwTgt 0).setReg aSwStat keep
  let d2 := { d1 with sw := { d1.sw with rxArm := none, annSeen := none, rxLate := false, diffRun := 0, copyRxStopped := false } }
  if armed then
    each (d2.flows.map fun e => e.1) (fun f d =>
      if (d.flow f).coming || (d.flow f).deleting then
        let t := (d.flow f).owner
        let d' := d.onFlow f fun k => if k.coming then {} else { k with deleting := false, stopped := false }
        d'.completeCommand t stRefused
      else d) d2
  else d2

/-- What a timing cluster reset does beside its configuration (R351): CV is held as in HOLDOVER, every candidate
requalifies without a wait-to-restore; history, CV and the output time counter are kept. -/
def Dev.resetTiming (d : Dev) : Dev :=
  let d1 := each (List.range 8) (fun n d => d.setFld (0x4060 + 4 * n) ⟨18, 4⟩ 0) d
  let d2 := ((d1.setReg aTmStat 3).setReg 0x4024 0).setReg 0x4028 0
  { d2 with tm := { d2.tm with inUse := none, requal := List.range 8, swCv := none, swPhase := none, sampled := false } }

/-- The counter block of a cluster (Table 17-4). -/
def clusterBlock : Cluster → Option Nat
  | .timing => none
  | k => some (clusterCode k)

/-- A rotation not yet at block b restarts from the confirmation wait (Table 4-3). -/
def Rot.restart (r : Rot) : Rot := match r.stage with | .switchAt _ => { r with stage := .confirm } | _ => r

/-- The acknowledgement of cluster `k` counts as missing (R88). -/
def Change.missed (g : Change) (k : Cluster) : Change :=
  if !g.prepared && g.clusters.contains k then
    { g with missing := k :: g.missing, waiting := g.waiting.filter (· ≠ k) }
  else g

/-- A cluster reset (R20), the decoder pool's codewords apart. It runs until CLUSTER_RESET_END; a pending commit is
discarded, and a prepare that had not been acknowledged counts as missing (R88). -/
def Dev.clusterReset (d : Dev) (k : Cluster) : Dev :=
  let d0 := (d.resetWhere (isConfigOf k)).resetActWhere (isConfigOf k)
  let d1 := match k with
    | .cipher 1 => { d0.setAct 0x180000 (d.actReg 0x180000) with
        actRx := SMap.put d0.actRx 0x180000 (resetAt 0x180000) (resetAt 0x180000) }
    | _ => d0
  let d2 := d1.setReg (cmtAddr k) 0
  let d3 := match clusterBlock k with | none => d2 | some b => d2.pcClear b
  let d4 := ({ d3 with chg := d3.chg.map (Change.missed · k) }).onCluster (clusterCode k) fun c =>
    { c with reset := true, locked := false, due := false, txDone := false, rxDone := false, flowsLeft := [] }
  match k with
  | .carrier c => d4.resetCarrier c
  | .pool m => d4.setFld (poolBase m + 8) ⟨1, 2⟩ 0
  | .framer => each (List.range 48) (fun c d => (d.onCarrier c fun k => { k with boh := none, sinceBoh := 4 }).bohUpdate c)
      (d4.resetWhere fun de _ => de.id = .bohRx)
  | .switch => d4.resetSwitch
  | .cipher x => each (d4.flows.map fun e => e.1)
      (fun f d => if (d.flow f).cl = x then d.onFlow f fun w =>
          { w with ctl := none, spot := none, started := false, fill := [], inPacket := false, drain := none, rxFrames := [], spotTx := {},
                   spotRx := {}, rot := w.rot.map Rot.restart } else d) (d4.resetWhere fun de is => de.id = .spotStat && is = [x.val])
  | .timing => d4.resetTiming

/-! Launch ramps (R247 to R252). -/

/-- FE_PROF_a plus the carrier's position (Table 9-1). -/
def Dev.profAddr (d : Dev) (c a : Nat) : BitVec 16 :=
  BitVec.ofNat 16 (d.fld (feBase (c / 6) + 0x10 + 4 * a) ⟨0, 16⟩ + c % 6)

/-- The region's engine pads are latched (R498), or the region is not in RUN: its bus carries nothing. -/
def Dev.busDead (d : Dev) (g : Nat) : Bool := d.bit aPwrRstat (16 + g) || decide (d.fld aPwrRstat ⟨2 * g, 2⟩ ≠ 0) || (d.die g).lost

/-- Queues a transaction on the engine control bus of a region (R241). -/
def Dev.spiPut (d : Dev) (g : Nat) (t : Spi) : Dev :=
  if d.busDead g then d else d.onRegion g fun r => { r with queue := r.queue ++ [t] }

/-- A write of function `a` of carrier `c` in a queue class. -/
def Dev.engineWrite (d : Dev) (cls c a : Nat) (data : BitVec 16) : Dev :=
  d.spiPut (c / 6) ⟨cls, false, d.profAddr c a, data, false, none, false⟩

/-- The depth of a carrier's ramp in dB. -/
def Dev.rampDepth (d : Dev) (c : Nat) : Nat :=
  match (d.carrier c).island with | some i => i.1 | none => d.fld (feBase (c / 6) + 0x80) ⟨16, 6⟩

/-- Attenuation in force in 0.01 dB (R247). One that is no multiple of 0.01 dB is rounded down, which the spec leaves open (log
entry 113). -/
def Dev.attenuation (d : Dev) (c : Nat) : Nat := d.rampDepth c * 100 * (64 - (d.carrier c).level) / 64

/-- A carrier that leaves RUN discards an armed Crosshatch transmit swap (R313). -/
def Dev.dropXhArm (d : Dev) (c : Nat) : Dev := d.setBit (xhBase c + 0x10) 1 false

/-- A ramp down is ordered from the attenuation in force (R248). -/
def Dev.rampDown (d : Dev) (c : Nat) (why : RampWhy) : Dev :=
  ((d.dropXhArm c).setCState c csRampDown).onCarrier c fun k => { k with why := why }

/-! Device safe state (R517). -/

/-- SAFE is entered: every carrier that is not OFF is ramped down; ALIVE stops, at a level left undefined. A carrier that
ramps down after a committed disable goes on to OFF. -/
def Dev.enterSafe (d : Dev) : Dev :=
  if d.safe then d
  else
    let d1 := { d.setBit aFcCtrl 14 with safe := true, alive := if d.alive = .wave then .undefined else d.alive }
    each (List.range 48) (fun c d =>
      let st := d.cState c
      if st = csOff ∨ st = csDark then d
      else if st = csRampDown ∧ (d.carrier c).why = .disable then d
      else d.rampDown c .safe) d1

/-! Region reset (Table 19-2, R251). -/

/-- A fault source whose class is LOG alone asserts: its status bit, and its record on a change from 0 to 1 (R511). -/
def Dev.faultLog (d : Dev) (x i : Nat) : Dev :=
  let a := 0x3000 + 8 * x + 4 * (i / 32)
  if d.bit a (i % 32) then d else (d.setBit a (i % 32)).ownerRecord ⟨.fault, i, x, 0, 0, []⟩

/-- The I2C bus is checked after an abandoned transfer and after a controller reset (R245): a low SDA gets nine clocks
and a STOP, and SDA still low sets sda_stuck, raises an event and asserts source 15 of the die (Table 21-6). -/
def Dev.busRecover (d : Dev) (g : Nat) : Dev :=
  match (d.region g).sda with
  | .high => d
  | .freed => d.emit (.i2cRecover g)
  | .stuck => (((d.emit (.i2cRecover g)).setBit (feBase g + 0xE0) 2).event .sdaStuck g g).faultLog g 15

/-- The granted command of a tenant has operation `op`. -/
def Dev.grantedOp (d : Dev) (t op : Nat) : Bool :=
  match (d.ring t .command).granted with | none => false | some g => decide (g.desc.op.toNat = op)

/-- A ring transaction that was dropped completes its ENGINE command as REFUSED (R251). -/
def Dev.dropEngine (d : Dev) : Dev := if d.grantedOp 0 0x130 then d.completeCommand 0 stRefused else d

/-- Front-end controller reset (R251): the transaction in progress ends first, queued ones and waiting retries are
dropped, an I2C transfer is abandoned; ramps pause with their levels kept. -/
def Dev.frontEndReset (d : Dev) (g : Nat) : Dev :=
  let r := d.region g
  let ring := (r.queue ++ r.waiting).any fun t => t.ring
  let d1 := d.onRegion g fun r => { r with queue := [], waiting := [], i2c := false, hk := {} }
  let d3 := if ring || r.i2c then d1.dropEngine else d1
  (d3.resetWhere fun de is =>
    (is.headD 8 = g) && decide (0x1420000 ≤ de.base) && decide (de.base < 0x1430000) && decide (de.id ≠ .rejStat)).busRecover g

/-- A capture of a region ends without its data (R226). -/
def Dev.captureAbort (d : Dev) (g : Nat) : Dev :=
  if d.bit (cvtBase g + 0x104) 31 then
    ((d.setBit (cvtBase g + 0x104) 31 false).setBit (cvtBase g + 0x10C) 2).onRegion g fun r => { r with capRun := false, capCodes := [] }
  else d

/-- A background run is abandoned and its new factors discarded; the next may start 1 s later (R234, R530). -/
def Dev.runAbandon (d : Dev) (g : Nat) : Dev :=
  if (d.region g).run.isSome then
    let d1 := (d.onRegion g fun r => { r with run := none }).setReg (cvtBase g + 0x200) 0
    { d1 with bn := { d1.bn with holdRun := SMap.put d1.bn.holdRun g 0 (d1.time + 1000000000) } }
  else d

/-- A stopping carrier leaves the background run of its region, and what it found for its ADCs is discarded (R234, R530); a run without carriers is abandoned. -/
def Dev.runDrop (d : Dev) (c : Nat) : Dev :=
  let d1 := d.onRegion (c / 6) fun r =>
    { r with run := r.run.map fun q =>
      { q with carriers := q.carriers.filter (· ≠ c), found := q.found.filter fun e => e.1 / 260 ≠ c % 6 } }
  if (match (d1.region (c / 6)).run with | some q => decide (q.carriers = []) | none => false) then
    d1.runAbandon (c / 6) else d1

/-- The Drypoint chain's delay lines are cleared and a capture is abandoned (R472, Table 19-3). -/
def Dev.dpClear (d : Dev) (g : Nat) : Dev :=
  let a := dpBase g
  let d1 := if d.bit (a + 0x40) 31 then (d.setBit (a + 0x40) 31 false).setBit (a + 0x40) 5 else d
  d1.onRegion g fun r => { r with dp := {} }

/-- The six carriers of a region. -/
def regionCarriers (g : Nat) : List (Fin 48) := (List.finRange 48).filter fun c => decide (c.val / 6 = g)

/-- Reset of a region: the six carrier clusters, the converters, the front-end controller, the housekeeping ADC and the
Drypoint chain. Calibration factors, RWS fields, transmit enables and attenuation are kept. A full self-calibration
and a background run are discarded (Table 20-5). -/
def Dev.regionReset (d : Dev) (g : Nat) : Dev :=
  let d1 := each (regionCarriers g) (fun c d => d.clusterReset (.carrier c)) d
  let d2 := (d1.runAbandon g).captureAbort g
  let d3 := (d2.onRegion g fun r => { r with full := false, taps := [] }).setFld 0x3800 ⟨g, 1⟩ 0
  let d4 := d3.resetWhere fun de is =>
    (is.headD 8 = g && decide (0x1410000 ≤ de.base) && decide (de.base < 0x1420000) && decide (de.id ≠ .capTick)) ||
    (is.take 2 = [g / 2, g % 2] && decide (0x700000 ≤ de.base) && decide (de.base < 0x7FFF00))
  (d4.dpClear g).frontEndReset g

end Sys2Proof.Machine
end

