-- ==== Sys2Proof/Machine/Coding.lean ====
section
/-!
DEFINITION. The codes and sequences of the line: CRC-8 (R124), CRC-32 (R576), formats and frame data (R186, R187, R192),
the OTUCn-M rate (R125, R127), sphere shaping (R188, R189, R193), training and pilots (R195, R196), the inner LDPC code
(R156 to R160) and the outer BCH code (R161 to R164), Gray labels (R166). Bits are Booleans, polynomials over GF(2)
are numbers.
-/
namespace Sys2Proof.Machine

/-! Bytes and bits. -/

/-- The bits of a number, most significant first, `n` of them. -/
def bitsOf (n v : Nat) : List Bool := (List.range n).map fun i => v.testBit (n - 1 - i)

/-- The number of a list of bits, first bit most significant. -/
def ofBits (bs : List Bool) : Nat := bs.foldl (fun a b => 2 * a + b.toNat) 0

/-- The number of a list of bytes, first byte most significant. -/
def ofBytes (bs : List Byte) : Nat := bs.foldl (fun a b => 256 * a + b.toNat) 0

/-- `n` bytes of a number, most significant first. -/
def bytesOf (n v : Nat) : List Byte := (List.range n).map fun i => BitVec.ofNat 8 (v >>> (8 * (n - 1 - i)))

/-- The list cut into at most `k` pieces of `n`, behind those in `acc`, and what is left. -/
def piecesFrom {α : Type} (n : Nat) (acc : List (List α)) : Nat → List α → List (List α) × List α
  | 0, l => (acc.reverse, l)
  | k + 1, l => if (l.take n).length < n ∨ n = 0 then (acc.reverse, l) else piecesFrom n (l.take n :: acc) k (l.drop n)

def pieces {α : Type} (n k : Nat) (l : List α) : List (List α) × List α := piecesFrom n [] k l

/-! Cyclic redundancy checks. -/

/-- One bit of CRC-8, generator x^8 + x^2 + x + 1 (R124). -/
def crc8Bit (r : Nat) : Nat := if r.testBit 7 then ((2 * r) % 256).xor 7 else 2 * r

/-- CRC-8 of bytes, most significant bit first, from 0 (R124). -/
def crc8 (bs : List Byte) : Byte :=
  BitVec.ofNat 8 (bs.foldl (fun r b => (List.range 8).foldl (fun r _ => crc8Bit r) (r.xor b.toNat)) 0)

/-- One bit of the bit-reflected CRC-32 of IEEE 802.3. -/
def crc32Bit (r : Nat) : Nat := if r.testBit 0 then (r / 2).xor 0xEDB88320 else r / 2

/-- CRC-32 of R576. -/
def crc32 (bs : List Byte) : Word :=
  BitVec.ofNat 32
    ((bs.foldl (fun r b => (List.range 8).foldl (fun r _ => crc32Bit r) (r.xor b.toNat)) 0xFFFFFFFF).xor 0xFFFFFFFF)

/-! Formats (Tables 6-3 and 7-1). -/

/-- Label bits per dimension m of format `f`. -/
def fmtM (f : Nat) : Nat := if f = 0 then 1 else if f ≤ 2 then 2 else if f = 3 then 3 else 4
/-- PCS formats. -/
def fmtShaped (f : Nat) : Bool := decide (2 ≤ f)
/-- Amplitude levels L. -/
def fmtL (f : Nat) : Nat := 2 ^ (fmtM f - 1)
/-- Coded bits per dual-polarisation symbol b. -/
def fmtB (f : Nat) : Nat := 4 * fmtM f
/-- Dimensions per codeword n_d. -/
def fmtDims (f : Nat) : Nat := 24576 / fmtM f
/-- Amplitude bits A per codeword. -/
def fmtA (f : Nat) : Nat := fmtDims f * (fmtM f - 1)
/-- Unshaped bits U per codeword. -/
def fmtU (f : Nat) : Nat := 19520 - fmtA f
/-- Codewords per band multiframe W. -/
def fmtW (f : Nat) : Nat := 129515520 / fmtDims f
/-- Repeat period of codeword starts in carrier frames (R167). -/
def fmtPeriod (f : Nat) : Nat := if f = 4 then 32 else if f = 1 ∨ f = 2 then 64 else 128
/-- The entropy lies in the format's range (Table 7-1). -/
def fmtEntOk (f e : Nat) : Bool :=
  match f with
  | 2 => decide (160 ≤ e ∧ e ≤ 236)
  | 3 => decide (192 ≤ e ∧ e ≤ 344)
  | 4 => decide (256 ≤ e ∧ e ≤ 448)
  | _ => true

/-- Shaper rate k (R187), 0 in uniform formats. -/
def shaperK (f e : Nat) : Nat := if fmtShaped f then e - 134 else 0

/-- Data bits I per band multiframe (R169, R192). -/
def dataBits (f e : Nat) : Nat := if fmtShaped f then 1199217 * shaperK f e + fmtU f * fmtW f else 19520 * fmtW f

/-- Frame data bits D of a carrier frame (R168). -/
def frameBits (f e : Nat) : Nat := dataBits f e / 256

/-- The OTUCn-M bit rate of M slots as (numerator, denominator) in bit/s: OTUC rate 239/226 × 99.5328 Gbit/s over 3,824
columns, of which 16 per instance and 3,808 / 20 per slot are sent (log entry 17). -/
def otucRate (m : Nat) : Nat × Nat := (239 * 99532800000 * (320 * ((m + 19) / 20) + 3808 * m), 226 * 3824 * 20)

/-- R127: the frame data of a mode carries M slots at a symbol rate in 0.125 GBd. -/
def slotsFit (rate f e m : Nat) : Bool :=
  let cap := (frameBits f e / 8 - 8) * 8
  let (num, den) := otucRate m
  decide (10002 * num * 131072 ≤ 10000 * cap * rate * 125000000 * den)

/-- OTUCn-M bytes per carrier frame as (numerator, denominator) (R125). -/
def bytesPerFrame (rate m : Nat) : Nat × Nat :=
  let (num, den) := otucRate m
  (num * 131072, den * 8 * rate * 125000000)

/-! Sphere shaping. Energies are counted in (E − n) / 8, in which amplitude `a` costs a (a + 1) / 2 (R188). -/

/-- The energy units of an amplitude. -/
def ampUnits (a : Nat) : Nat := a * (a + 1) / 2

/-- The list shifted up by `t` places, same length. -/
def shiftUp (t : Nat) (l : List Nat) : List Nat := (List.replicate t 0 ++ l).take l.length

/-- T(n + 1, ·) from T(n, ·), listed by energy units. -/
def shaperNext (lv : Nat) (row : List Nat) : List Nat :=
  (List.range lv).foldl (fun acc a => List.zipWith (· + ·) acc (shiftUp (ampUnits a) row))
    (List.replicate row.length 0)

/-- Rows T(0, ·) to T(n, ·), the last first, up to `j` units. -/
def shaperRows (lv j : Nat) : Nat → List (List Nat)
  | 0 => [List.replicate (j + 1) 1]
  | n + 1 =>
    let rs := shaperRows lv j n
    shaperNext lv (rs.headD []) :: rs

/-- Energy units of emax: the least j with T(108, 108 + 8j) at least 2^k (R188). -/
def emaxUnits (f k : Nat) : Nat :=
  let lv := fmtL f
  let row := (shaperRows lv (108 * ampUnits (lv - 1)) 108).headD []
  row.findIdx fun t => decide (2 ^ k ≤ t)

/-- emax (R188). -/
def emaxOf (f k : Nat) : Nat := if fmtShaped f then 108 + 8 * emaxUnits f k else 0

/-- The choice of one amplitude: the first `a` whose count exceeds the index (R189). -/
def pickAmp (row : List Nat) (units : Nat) : List Nat → Nat → Option (Nat × Nat)
  | [], _ => none
  | a :: as, v =>
    let c := if ampUnits a ≤ units then row.getD (units - ampUnits a) 0 else 0
    if v < c then some (a, v) else pickAmp row units as (v - c)

/-- The sequence of index `v` with at most `units` of energy, from rows T(n − 1, ·) down to T(0, ·) (R189). -/
def shapeFrom (lv : Nat) : List (List Nat) → Nat → Nat → List Nat
  | [], _, _ => []
  | row :: rows, units, v =>
    match pickAmp row units (List.range lv) v with
    | none => []
    | some (a, v') => a :: shapeFrom lv rows (units - ampUnits a) v'

/-- The amplitudes that carry index `v` (R189). -/
def shape (f k v : Nat) : List Nat :=
  let j := emaxUnits f k
  shapeFrom (fmtL f) ((shaperRows (fmtL f) j 108).drop 1) j v

/-- The index of a block of amplitudes, `none` above the energy bound (R193). -/
def deshapeFrom (lv : Nat) : List (List Nat) → Nat → List Nat → Option Nat
  | row :: rows, units, a :: as =>
    if ampUnits a ≤ units then
      let below := (List.range a).foldl
        (fun t b => t + if ampUnits b ≤ units then row.getD (units - ampUnits b) 0 else 0) 0
      (deshapeFrom lv rows (units - ampUnits a) as).map (below + ·)
    else none
  | _, _, _ => some 0

/-- The `k` data bits of a decided block: zeros and a shaping error outside the codebook (R193). -/
def deshape (f k : Nat) (amps : List Nat) : List Bool × Bool :=
  let j := emaxUnits f k
  match deshapeFrom (fmtL f) ((shaperRows (fmtL f) j 108).drop 1) j amps with
  | some v => if v < 2 ^ k then (bitsOf k v, false) else (List.replicate k false, true)
  | none => (List.replicate k false, true)

/-! Labels (R166). -/

/-- The Gray label of amplitude `a`, `m − 1` bits. -/
def grayBits (m a : Nat) : List Bool := bitsOf (m - 1) (a.xor (a / 2))

/-- The amplitude whose Gray label is `bs`: each bit of it is the sum of the label bits up to there. -/
def unGray (bs : List Bool) : Nat :=
  ofBits (bs.foldl (fun (st : List Bool × Bool) b => (st.1 ++ [st.2 ^^ b], st.2 ^^ b)) ([], false)).1

/-- The value of a dimension from its sign bit and amplitude. -/
def dimValue (sign : Bool) (a : Nat) : Int := (if sign then -1 else 1) * (2 * (a : Int) + 1)

/-! Training and pilots (Table 7-3). -/

/-- The training seed of carrier `c` with pattern `p` on polarisation `y`. -/
def trainSeed (c p : Nat) (y : Bool) : Nat := 2 ^ 14 + p * 2 ^ 11 + y.toNat * 2 ^ 10 + c

/-- One step of b(n + 15) = b(n + 1) xor b(n), the state holding b(n) in bit 14 (R195). -/
def trainStep (s : Nat) : Nat := (2 * s) % 2 ^ 15 + (s.testBit 13 ^^ s.testBit 14).toNat

def trainState (seed : Nat) : Nat → Nat
  | 0 => seed
  | n + 1 => trainStep (trainState seed n)

/-- b(n). -/
def trainBit (seed n : Nat) : Bool := (trainState seed n).testBit 14

/-- I and Q of training symbol n (R196). -/
def trainSymbol (seed n : Nat) : Int × Int :=
  (1 - 2 * (trainBit seed (2 * n)).toNat, 1 - 2 * (trainBit seed (2 * n + 1)).toNat)

/-- I and Q of pilot i (R196). -/
def pilotSymbol (seed i : Nat) : Int × Int := trainSymbol seed (512 + i)

/-! The inner code. A block of 512 bits is a number, bit z being bit z of the block. -/

/-- Rows of column j of the base matrix with an entry, and the shift there (R158, R159). -/
def baseEntry (i j : Nat) : Option Nat :=
  if j < 40 then
    if i = j % 8 ∨ i = (j + 3) % 8 ∨ i = (j + 5) % 8 then some ((37 * i * j + 11 * j + 5 * i) % 512) else none
  else if j = 40 then (if i = 0 ∨ i = 7 then some 1 else if i = 4 then some 0 else none)
  else if i + 41 = j ∨ i + 40 = j then some 0 else none

/-- shift(v, s): the block w with w[z] = v[(z + s) mod 512] (R160). -/
def blockShift (v s : Nat) : Nat := (v >>> s) ||| ((v <<< (512 - s)) % 2 ^ 512)

/-- Check block i of a list of 48 code blocks: zero when every check of the row holds (R157). -/
def checkBlock (blocks : List Nat) (i : Nat) : Nat :=
  (List.range 48).foldl (fun acc j => match baseEntry i j with
    | some s => acc.xor (blockShift (blocks.getD j 0) s)
    | none => acc) 0

/-- Row sums over the information columns. -/
def infoSum (u : List Nat) (i : Nat) : Nat :=
  (List.range 40).foldl (fun acc j => match baseEntry i j with
    | some s => acc.xor (blockShift (u.getD j 0) s)
    | none => acc) 0

/-- The parity blocks of 40 information blocks (R160). -/
def ldpcParity (u : List Nat) : List Nat :=
  let lam := (List.range 8).map (infoSum u)
  let p0 := lam.foldl Nat.xor 0
  let p1 := (lam.getD 0 0).xor (blockShift p0 1)
  let rec go : Nat → Nat → Nat → List Nat
    | 0, _, _ => []
    | n + 1, r, p =>
      let q := ((lam.getD r 0).xor p).xor (if r = 4 then p0 else 0)
      q :: go n (r + 1) q
  p0 :: p1 :: go 6 1 p1

/-- A block of code bits as a number, its first bit being bit 0, and back (R157). -/
def blockOf (bs : List Bool) : Nat := bs.foldr (fun b a => 2 * a + b.toNat) 0
def blockBits (v : Nat) : List Bool := (List.range 512).map v.testBit

/-- `n` blocks of a list of code bits. -/
def toBlocks : Nat → List Bool → List Nat
  | 0, _ => []
  | n + 1, bs => blockOf (bs.take 512) :: toBlocks n (bs.drop 512)

/-- The hard decision on an LLR: a positive value favours 0 (R170). -/
def hardBit (l : Int) : Bool := decide (l < 0)

/-- The hard decisions on a codeword, in blocks of 512 bits. -/
def hardBlocks (llr : List Int) : List Nat := toBlocks 48 (llr.map hardBit)

/-- The inner codeword of 20,480 information bits: they stand first, and the parity blocks behind them (R160). -/
def ldpcEncode (info : List Bool) : List Bool := info ++ (ldpcParity (toBlocks 40 info)).flatMap blockBits

/-- The number of ones below bit `n`. -/
def ones (n v : Nat) : Nat := (List.range n).foldl (fun t i => t + (v.testBit i).toNat) 0

/-- Unsatisfied checks of hard decisions, as R171 counts them. -/
def unsatisfied (blocks : List Nat) : Nat := (List.range 8).foldl (fun t i => t + ones 512 (checkBlock blocks i)) 0

/-- The phase a frame selects: the fewest unsatisfied checks below 1,843, ties to the lower phase (R171). -/
def selectPhase (counts : List Nat) : Option Nat :=
  let best := counts.foldl min 1843
  if best < 1843 then some (counts.findIdx fun n => decide (n = best)) else none

/-! The outer code over GF(2^12) (R161, R162). -/

/-- Multiplication by x modulo x^12 + x^6 + x^4 + x + 1. -/
def gfX (a : Nat) : Nat := if a.testBit 11 then ((2 * a) % 4096).xor 0x053 else 2 * a

/-- The product of two field elements. -/
def gfMul (a b : Nat) : Nat :=
  ((List.range 12).foldl (fun (st : Nat × Nat) i =>
    (if b.testBit i then st.1.xor st.2 else st.1, gfX st.2)) (0, a)).1

/-- α^n by repeated multiplication by x. -/
def gfPow : Nat → Nat
  | 0 => 1
  | n + 1 => gfX (gfPow n)

/-- a^(2^12 − 2), the inverse of a nonzero element. -/
def gfInv (a : Nat) : Nat :=
  ((List.range 11).foldl (fun (st : Nat × Nat) _ =>
    let sq := gfMul st.2 st.2
    (gfMul st.1 sq, sq)) (1, a)).1

/-- A polynomial over the field, constant coefficient first, times x − a. -/
def mulRoot (p : List Nat) (a : Nat) : List Nat := List.zipWith Nat.xor (0 :: p) (p.map (gfMul a) ++ [0])

/-- The minimal polynomial of α^i for i in a coset of size 12: its roots are α^(i 2^r). -/
def minPoly (i : Nat) : List Nat := (List.range 12).foldl (fun p r => mulRoot p (gfPow (i * 2 ^ r % 4095))) [1]

/-- The number whose bits are the coefficients of a polynomial over GF(2), and the product of two such numbers. -/
def polyNat (p : List Nat) : Nat := p.foldr (fun c a => 2 * a + c % 2) 0
def polyMul (a b : Nat) : Nat :=
  (List.range 13).foldl (fun acc i => if b.testBit i then acc.xor (a <<< i) else acc) 0

/-- The generator g(x) of the outer code: the product of the minimal polynomials of α, α^3, … α^19 (R161). -/
def bchGenerator : Nat := (List.range 10).foldl (fun g i => polyMul g (polyNat (minPoly (2 * i + 1)))) 1

/-- The 120 parity bits of an outer codeword: the remainder of its information polynomial times x^120 on division by `g` (R162). -/
def bchParity (g : Nat) (info : List Bool) : List Bool :=
  bitsOf 120 (info.foldl (fun r b =>
    let s := (2 * r) % 2 ^ 120
    if r.testBit 119 ^^ b then s.xor (g % 2 ^ 120) else s) 0)

/-- An outer codeword: information bits, then parity bits. -/
def bchEncode (info : List Bool) : List Bool := info ++ bchParity bchGenerator info

/-- A polynomial over the field, constant coefficient first, at x. -/
def gfEval (p : List Nat) (x : Nat) : Nat := p.foldr (fun c acc => c.xor (gfMul acc x)) 0

/-- The syndromes r(α^1) to r(α^20) of a received word, first bit the highest coefficient. -/
def bchSyndromes (w : List Bool) : List Nat :=
  (List.range 20).map fun i =>
    let a := gfPow (i + 1)
    w.foldl (fun acc b => (gfMul acc a).xor b.toNat) 0

/-- One step of Berlekamp–Massey: locator, previous locator, length, gap and previous discrepancy. -/
def bmStep (syn : List Nat) (st : List Nat × List Nat × Nat × Nat × Nat) (n : Nat) :
    List Nat × List Nat × Nat × Nat × Nat :=
  let (c, b, len, m, bd) := st
  let disc := (List.range (len + 1)).foldl (fun t i => t.xor (gfMul (c.getD i 0) (syn.getD (n - i) 0))) 0
  if disc = 0 then (c, b, len, m + 1, bd)
  else
    let q := gfMul disc (gfInv bd)
    let sh := List.replicate m 0 ++ b.map (gfMul q)
    let size := max c.length sh.length
    let c' := (List.range size).map fun i => (c.getD i 0).xor (sh.getD i 0)
    if 2 * len ≤ n then (c', c, n + 1 - len, 1, disc) else (c', b, len, m + 1, bd)

/-- The error locator of a list of syndromes, and its degree. -/
def bchLocator (syn : List Nat) : List Nat × Nat :=
  let (c, _, len, _, _) := (List.range 20).foldl (bmStep syn) ([1], [1], 0, 1, 1)
  (c, len)

/-- Exponents i below 4,095 at which α^(−i) is a root of the locator. -/
def bchRoots (loc : List Nat) : List Nat :=
  ((List.range 4095).foldl (fun (st : List Nat × Nat) i =>
    (if gfEval loc st.2 = 0 then (if i = 0 then 0 else 4095 - i) :: st.1 else st.1, gfX st.2)) ([], 1)).1

/-- The outer decoder (R164) on 2,560 received bits: the information bits delivered, the bits corrected, and whether the
word was uncorrectable. -/
def bchDecode (w : List Bool) : List Bool × Nat × Bool :=
  let syn := if w.all (! ·) then [] else bchSyndromes w
  if syn.all (fun s => decide (s = 0)) then (w.take 2440, 0, false)
  else
    let (loc, len) := bchLocator syn
    let roots := bchRoots loc
    if len ≤ 10 ∧ roots.length = len ∧ roots.all (fun i => decide (i < 2560)) then
      (((List.range w.length).zip w).map (fun p => p.2 ^^ roots.contains (2559 - p.1)) |>.take 2440, len, false)
    else (w.take 2440, 0, true)

/-- The eight outer codewords of the 20,480 information bits of an inner codeword (R163). -/
def outerWords : Nat → List Bool → List (List Bool)
  | 0, _ => []
  | n + 1, w => w.take 2560 :: outerWords n (w.drop 2560)

end Sys2Proof.Machine
end

