-- ==== Sys2Proof/Machine/Faults.lean ====
section
/-!
DEFINITION. The fault collector (chapter 19): status bits, records, reaction classes, suppression (R510 to R517), with the
release of a decoder pool's codewords that a pool reset brings (R580), and the resets of Table 19-3 and R524.
-/
namespace Sys2Proof.Machine
open RegMap

/-! Codewords that a decoder pool holds (R179, R580). -/

/-- Codeword `a` leaves before `b`: by emission time, then by arrival (R179). -/
def Cw.leavesFirst (a b : Cw) : Bool := decide (a.emit < b.emit ∨ (a.emit = b.emit ∧ a.seq ≤ b.seq))

/-- A released codeword enters the output buffer in that order. -/
def outInsert : List Cw → Cw → List Cw
  | [], w => [w]
  | a :: r, w => if a.leavesFirst w then a :: outInsert r w else w :: a :: r

/-- Released codewords enter the output buffer. -/
def Pool.emitAll (p : Pool) (ws : List Cw) : Pool := { p with out := ws.foldl outInsert p.out }

/-- The hard decisions a codeword holds: those of its last iteration, or of the channel before the first one. -/
def Cw.latest (w : Cw) : List Nat := if w.iter = 0 then hardBlocks w.llr else w.now

/-- A codeword released marked carries its latest hard decisions, or the channel's if it was never loaded (R181). -/
def Cw.mark (w : Cw) : Cw := { w with marked := true, now := w.latest }

/-- A decoder pool reset: codewords in units and ready ones are released marked, the output buffer and its order are kept (R580). -/
def Pool.reset (p : Pool) : Pool :=
  let q := p.emitAll (p.units.map (fun e => e.2.mark) ++ p.held.map (fun e => e.2) ++ p.ready.map Cw.mark)
  { q with units := [], held := [], ready := [] }

/-- Cluster reset of any cluster (R20, R580), after which SSF follows. -/
def State.clusterReset (s : State) (k : Cluster) : State :=
  let s1 := s.onWithSsf fun d => d.clusterReset k
  match k with
  | .pool m => s1.onPool m Pool.reset
  | _ => s1

/-! Assertion of a source (R511 to R516). -/

/-- The FAULT record of source `i` of die `x`. -/
def Dev.faultRecord (d : Dev) (x i : Nat) (data : List Nat := []) : Dev := d.ownerRecord ⟨.fault, i, x, 0, 0, data⟩

/-- The carrier whose cluster holds a source, if it is a carrier's (Table 21-6). -/
def sourceCarrier (x i : Nat) : Option (Fin 48) :=
  let c := if x < 8 then 6 * x + (i - 8) else 12 * (x - 8) + (i - 8)
  if h : ((x < 8 ∧ 8 ≤ i ∧ i ≤ 13) ∨ (8 ≤ x ∧ x < 12 ∧ 8 ≤ i ∧ i ≤ 19)) ∧ c < 48 then some ⟨c, h.2⟩ else none

/-- The region a source of a converter die or of a carrier belongs to. -/
def sourceRegion (x i : Nat) : Nat := match sourceCarrier x i with | some c => c / 6 | none => x % 8

/-- The error lines of a block in reset are ignored (R512). -/
def Dev.lineIgnored (d : Dev) (x i : Nat) : Bool :=
  !sourceExists x i ||
    (match sourceCarrier x i with
     | some c => (d.cluster c).reset
     | none => decide (8 ≤ x ∧ x < 12 ∧ 20 ≤ i) && (d.cluster (48 + (x - 8))).reset)

/-- The SQUELCH reaction of a carrier's source begins (Table 19-2). -/
def Dev.squelchOn (d : Dev) (x i : Nat) : Dev :=
  match sourceCarrier x i with | some c => d.onCarrier c fun k => { k with squelch := true } | none => d

/-- Notes that a CLUSTER or REGION reaction acted; the third within 1 s suppresses the source (R516). -/
def Dev.noteAction (d : Dev) (x i : Nat) : Dev :=
  let recent := d.fc.acted.filter fun a => decide (d.time < a.2.2 + 1000000000)
  let mine := (recent.filter fun a => decide (a.1 = x ∧ a.2.1 = i)).length + 1
  let d1 := { d with fc := { d.fc with acted := (x, i, d.time) :: recent } }
  if 3 ≤ mine then (d1.setBit (0x3300 + 8 * x + 4 * (i / 32)) (i % 32)).faultRecord x i else d1

/-- Source `i` of die `x` asserts once: its status bit, its record on a change from 0 to 1, and its reaction. -/
def State.fault (s : State) (x i : Nat) (data : List Nat := []) : State :=
  if s.dev.lineIgnored x i then s
  else
    let cls := s.dev.faultClass x i
    let was := s.dev.faultStatus x i
    let s1 := s.on fun d =>
      let d1 := d.setBit (0x3000 + 8 * x + 4 * (i / 32)) (i % 32)
      if was then d1 else d1.faultRecord x i data
    match cls with
    | 1 => s1.onWithSsf fun d => d.squelchOn x i
    | 2 =>
      let s2 := match sourceCarrier x i with
        | some c => s1.clusterReset (.carrier c)
        | none => if h : 8 ≤ x ∧ x < 12 then s1.clusterReset (.pool ⟨x - 8, by omega⟩) else s1
      s2.on fun d => d.noteAction x i
    | 3 => (s1.onWithSsf fun d => d.regionReset (sourceRegion x i)).on fun d => d.noteAction x i
    | 4 => s1.on fun d => d.enterSafe
    | _ => s1

/-- A host write of 1 to a status bit clears it, its SQUELCH reaction and its suppression (R514, R516). -/
def State.faultClear (s : State) (x i : Nat) : State :=
  s.onWithSsf fun d =>
    let d1 := (d.setBit (0x3000 + 8 * x + 4 * (i / 32)) (i % 32) false).setBit
      (0x3300 + 8 * x + 4 * (i / 32)) (i % 32) false
    let d2 := { d1 with fc := { d1.fc with acted := d1.fc.acted.filter fun a => !decide (a.1 = x ∧ a.2.1 = i) } }
    match sourceCarrier x i with
    | some c => d2.onCarrier c fun k => { k with squelch := false }
    | none => d2

/-! Hub datapath reset (R524). -/

/-- The set is no longer held by package `k` (R376). -/
def Dev.freeSet (d : Dev) (k : Nat) : Dev :=
  if d.bs.holder = some k then { d with bs := { d.bs with holder := none } } else d

/-- A running change procedure ends: its locks are released, but for shadows still to be taken (R87), and it holds the set no longer. -/
def Dev.changeEnd (d : Dev) (g : Change) : Dev :=
  let d1 := each g.clusters (fun k d => d.onCluster (clusterCode k) fun c => { c with locked := c.due }) d
  ({ d1 with chg := none }.setBit aSwStat 6 false).freeSet (d.fld 0x1C00000 ⟨0, 2⟩)

/-- The granted owner's command is the one that change `g` serves. -/
def Dev.changeOwns (d : Dev) (g : Change) : Bool :=
  match (d.ring 0 .command).granted with | none => false | some c => decide (c.idx = g.cmd)

/-- The command of change `g` completes. -/
def Dev.changeDone (d : Dev) (g : Change) (st : Nat) : Dev := if d.changeOwns g then d.completeCommand 0 st else d

/-- A running change procedure is refused; acknowledgements still to come will be late (R86, R88). -/
def Dev.changeAbort (d : Dev) (st : Nat := stRefused) : Dev :=
  match d.chg with
  | none => d
  | some g =>
    let d1 := d.changeEnd g
    { d1 with sw := { d1.sw with lateAcks := if g.granted then d1.sw.lateAcks ++ g.waiting else d1.sw.lateAcks } }.changeDone g st

/-- Framer, switch and both cipher clusters are reset together. Both pages, both base tables, the active page indices and
SW_CTRL.host_own stand exactly as before; every flow keeps its keys. -/
def State.hubDatapathReset (s : State) : State :=
  let own := s.dev.reg aSwCtrl &&& 4#32
  s.onWithSsf fun d =>
    let d1 := if (match d.chg with | some g => g.prepared | none => false) then d else d.changeAbort
    ((((d1.clusterReset .framer).clusterReset .switch).clusterReset (.cipher 0)).clusterReset (.cipher 1)).setReg
      aSwCtrl own

end Sys2Proof.Machine
end

