-- ==== Sys2Proof/Machine/Client.lean ====
section
/-!
DEFINITION. Client ports (chapter 2): lanes, ports, training, eye scans, ingress replacement. Register writes that act on
them (R44, R45, R52, R53) are given as a reject condition and an effect.
-/
namespace Sys2Proof.Machine
open RegMap

/-! Lanes of a port (R43, Table 2-1). -/

/-- Lane count of a width code. -/
def widthLanes (w : Nat) : Nat := 2 ^ w

/-- The lanes a PORT_MAP word names. -/
def mapLanes (w : Word) : List Nat :=
  (List.range (widthLanes (Fld.get ⟨1, 2⟩ w))).map fun i => Fld.get ⟨3, 7⟩ w + i

def Dev.portEn (d : Dev) (p : Nat) : Bool := d.bit (aPortMap p) 0

def Dev.portLanes (d : Dev) (p : Nat) : List Nat := mapLanes (d.reg (aPortMap p))

/-- The enabled port that holds a lane. -/
def Dev.portOfLane (d : Dev) (l : Nat) : Option Nat :=
  (List.range 64).find? fun p => d.portEn p && (d.portLanes p).contains l

/-- LANE_CTRL.pd. -/
def Dev.lanePd (d : Dev) (l : Nat) : Bool := d.bit (laneBase l) 0

/-- The client die of a lane is lost (Table 1-2). -/
def Dev.laneDead (d : Dev) (l : Nat) : Bool := (d.die (13 + l / 64)).lost

/-- The client die of a port is lost (Table 1-2). -/
def Dev.portLost (d : Dev) (p : Nat) : Bool := (d.die (13 + d.fld (aPortMap p) ⟨3, 7⟩ / 64)).lost

def Dev.allTrained (d : Dev) (p : Nat) : Bool := (d.portLanes p).all fun l => (d.lane l).trained

def Dev.anyLos (d : Dev) (p : Nat) : Bool := (d.portLanes p).any fun l => (d.lane l).los

/-- PORT_STAT_p.up, los and lol follow the port (R46, R50). A disabled port reports 0 in each (log entry 20). -/
def Dev.portUpdate (d : Dev) (p : Nat) : Dev :=
  let en := d.portEn p
  let los := en && d.anyLos p
  let lol := en && !(d.port p).aligned
  let up := en && d.allTrained p && !los && !lol && !d.portLost p
  d.setFld (aPortStat p) ⟨0, 3⟩ (up.toNat + 2 * los.toNat + 4 * lol.toNat)

/-- The port of a lane is brought up to date, if an enabled port holds it. -/
def Dev.laneUpdate (d : Dev) (l : Nat) : Dev :=
  match d.portOfLane l with | none => d | some p => d.portUpdate p

/-! Eye scans (R51, R52, R368). -/

def eyeCtrlAddr : EyeSite → Nat
  | .client l => laneBase l + 8 | .link n => 0x1C01008 + 0x40 * n

/-- A running scan is abandoned: EYE_RES.abort instead of done. -/
def Dev.eyeAbort (d : Dev) (site : EyeSite) : Dev :=
  let a := eyeCtrlAddr site
  if d.bit a 0 then (d.setBit a 0 false).setBit (a + 4) 1 else d

/-- A scan of client lane `l`, by number, is abandoned. -/
def Dev.eyeAbortLane (d : Dev) (l : Nat) : Dev := if h : l < 128 then d.eyeAbort (.client ⟨l, h⟩) else d

/-- The sampled lane cannot be scanned: it is powered down or has no signal (R52); its link is down or idle (R368). -/
def Dev.eyeBlind (d : Dev) : EyeSite → Bool
  | .client l => d.lanePd l || (d.lane l).los
  | .link n => let st := d.fld (0x1C00010 + 4 * (n / 8)) ⟨0, 3⟩; decide (st = 0 ∨ st = 4)

/-- What a write that left EYE_CTRL.start at 1 does: a scan of a blind lane is abandoned at once. -/
def Dev.eyeWritten (d : Dev) (site : EyeSite) : Dev := if d.eyeBlind site then d.eyeAbort site else d

/-! PORT_MAP_p (R45, R61). -/

/-- A write of `w` to PORT_MAP_p is rejected (R45). -/
def Dev.portMapBad (d : Dev) (p : Nat) (w : Word) : Bool :=
  let old := d.reg (aPortMap p)
  let ls := mapLanes w
  decide (Fld.get ⟨3, 7⟩ w % ls.length ≠ 0) ||
    (old.getLsbD 0 && w.getLsbD 0 && decide (Fld.get ⟨1, 9⟩ old ≠ Fld.get ⟨1, 9⟩ w)) ||
    (w.getLsbD 0 && !old.getLsbD 0 &&
      ((List.range 64).any (fun q => decide (q ≠ p) && d.portEn q && ls.any (d.portLanes q).contains) ||
        ls.any d.lanePd))

/-- A lane's training starts anew: an eye scan on it is abandoned (R52), and the far end has requested no tap changes (R49). -/
def Dev.laneRetrain (d : Dev) (l : Nat) : Dev :=
  (d.onLane l fun k => { k with trained := false, taps := [], asked := [] }).eyeAbortLane l

/-- What a PORT_MAP_p write does: on enabling, training starts on the lanes the port takes; on disabling, it ends on the lanes the
port held, `old` being the word before. An enabled port has no alignment yet, so its mapped stream is replaced at once (R59). -/
def Dev.portMapWritten (d : Dev) (p : Nat) (old : Word) : Dev :=
  if old.getLsbD 0 = d.portEn p then d
  else
    let d1 := each (if old.getLsbD 0 then mapLanes old else d.portLanes p) (fun l d => d.laneRetrain l) d
    (d1.onPort p fun _ => { replaced := d.portEn p }).portUpdate p

/-! LANE_CTRL (R53, R54). -/

/-- A LANE_CTRL write is rejected: it powers down a lane of an enabled port. -/
def Dev.laneCtrlBad (d : Dev) (l : Nat) (w : Word) : Bool := w.getLsbD 0 && (d.portOfLane l).isSome

/-- A lane powered down leaves training and abandons its scan. -/
def Dev.laneCtrlWritten (d : Dev) (l : Nat) : Dev :=
  if d.lanePd l then (d.onLane l fun _ => {}).eyeAbortLane l else d

/-! The commands. An event whose condition does not hold leaves the state as it is (log entry 2). -/

/-- R54. -/
def execLaneReady (l : Fin 128) (s : State) : Answer :=
  s.nextOn fun d => if d.lanePd l || d.laneDead l then d else d.onLane l fun k => { k with ready := true }

/-- A transmitter obeys one request (R49): a coefficient moves by a step within the range that IEEE 802.3 gives it, or all take
a preset of IEEE 802.3. -/
def obeyTap (taps : List Int) : TapAsk → List Int
  | .preset n => (List.range 5).map fun i => Config.tapPreset n i
  | .up t => (List.range 5).map fun i => let v := taps.getD i 0; if i = t.val then min (v + 1) (Config.tapLimit i).2 else v
  | .down t => (List.range 5).map fun i => let v := taps.getD i 0; if i = t.val then max (v - 1) (Config.tapLimit i).1 else v

/-- R49: the lane has trained with its module; its port comes up once all its lanes are trained and aligned. `far` are the
requests that the module made of this lane's taps, which it obeyed in order; `near` those that this lane issued for the module's
taps. -/
def execTrainingComplete (l : Fin 128) (far near : List TapAsk) (s : State) : Answer :=
  s.nextOn fun d =>
    if (d.lane l).ready && (d.portOfLane l).isSome then
      (each near (fun a d => d.emit (.tapAsk l a)) (d.onLane l fun k =>
        { k with trained := true, taps := far.foldl obeyTap k.taps, asked := near.reverse ++ k.asked })).laneUpdate l
    else d

/-- R50: train_fail and an event. -/
def execTrainingTimeout (p : Fin 64) (s : State) : Answer :=
  s.nextOn fun d =>
    if d.portEn p && !d.allTrained p then
      (d.setBit (aPortStat p) 3).event .clientEvent (13 + d.fld (aPortMap p) ⟨3, 7⟩ / 64) p
    else d

/-- The port loses PCS alignment: its mapped stream is replaced at once (R59). -/
def Dev.alignmentLost (d : Dev) (p : Nat) : Dev := (d.onPort p fun k => { k with aligned := false, replaced := true }).portUpdate p

/-- Training restarts on every lane of a port (R50, Table 19-3); their scans are abandoned (R52). -/
def Dev.portRetrain (d : Dev) (p : Nat) : Dev :=
  (each (d.portLanes p) (fun l d => d.laneRetrain l) d).alignmentLost p

/-- R50. -/
def execTrainingRestart (p : Fin 64) (s : State) : Answer :=
  s.nextOn fun d => if d.portEn p && !d.allTrained p then d.portRetrain p else d

/-- R51: done with the mismatches, saturating. -/
def execEyeScanDone (site : EyeSite) (errors : Nat) (s : State) : Answer :=
  s.nextOn fun d =>
    let a := eyeCtrlAddr site
    if d.bit a 0 then
      ((d.setBit a 0 false).setBit (a + 4) 0).setFld (a + 4) ⟨2, 30⟩ (min errors 0x3FFFFFFF)
    else d

/-- R59, R52. Whether loss of signal on a lane also loses PCS alignment is not said (R46 reports the two apart): the model keeps alignment,
so the port is up again when the signal returns (log entry 117). -/
def execLaneLossOfSignal (l : Fin 128) (s : State) : Answer :=
  s.nextOn fun d =>
    if d.lanePd l || d.laneDead l then d
    else ((d.onLane l fun k => { k with los := true }).eyeAbortLane l).laneUpdate l

/-- R59. -/
def execLaneSignalReturn (l : Fin 128) (s : State) : Answer :=
  s.nextOn fun d => (d.onLane l fun k => { k with los := false }).laneUpdate l

/-- R59: alignment is regained on a port whose lanes are trained and have signal. -/
def execPcsAlignmentGain (p : Fin 64) (s : State) : Answer :=
  s.nextOn fun d =>
    if d.portEn p && d.allTrained p && !d.anyLos p && !d.portLost p then
      (d.onPort p fun k => { k with aligned := true }).portUpdate p
    else d

/-- R48: skew is set, and counts as loss of alignment. -/
def execLaneSkewExceeded (p : Fin 64) (s : State) : Answer :=
  s.nextOn fun d =>
    if d.portEn p then (d.alignmentLost p).setBit (aPortStat p) 4
    else d

/-- R59: a condition has lasted, and the mapped stream is replaced with local fault. Loss of alignment comes about here. -/
def execClientLocalFaultEnter (p : Fin 64) (why : Ingress) (s : State) : Answer :=
  s.nextOn fun d =>
    if !d.portEn p then d
    else match why with
      | .los => if d.anyLos p then d.onPort p fun k => { k with replaced := true } else d
      | .align => d.alignmentLost p
      | .fec => d.onPort p fun k => { k with replaced := true, fec := true }

/-- R59: all three conditions have been absent for 10 ms. -/
def execClientFaultRestore (p : Fin 64) (s : State) : Answer :=
  s.nextOn fun d =>
    if d.portEn p && !d.anyLos p && (d.port p).aligned && !d.portLost p then
      d.onPort p fun k => { k with replaced := false, fec := false }
    else d

end Sys2Proof.Machine
end

