-- ==== Sys2Proof/Machine/Commit.lean ====
section
/-!
DEFINITION. The consistency check of a commit (R19): carrier clusters (R203, R204, R64, R127, R40 to R42, R175, R228, R283,
R321, R328, R331, R498, R517, R534, R538), decoder pools (R177, R178), and the page check of the switch (R74).
-/
namespace Sys2Proof.Machine
open RegMap

/-! Settings as they would stand after a commit: the shadow copy of the clusters that commit, the active copy of others. -/

/-- A configuration word of carrier `c` after the clusters `ks` commit. -/
def Dev.cWord (d : Dev) (ks : List Cluster) (c a : Nat) : Word :=
  if ks.any (fun k => clusterCode k = c) then d.reg a else d.actReg a

/-- A configuration word of pool `m` after the clusters `ks` commit. -/
def Dev.pWord (d : Dev) (ks : List Cluster) (m a : Nat) : Word :=
  if ks.any (fun k => clusterCode k = 48 + m) then d.reg a else d.actReg a

/-- A carrier's settings. Rates are in 0.25 MHz, frequencies and bandwidths in 1/800 MHz. -/
structure CPlan where
  en : Bool
  zr : Bool
  rate : Nat
  roll : Nat
  fmt : Nat
  ent : Nat
  slots : Nat
  centre : Int
  half : Int
  fofs : Int
  port : Nat
  deriving DecidableEq, Repr

/-- The settings of carrier `c` after `ks` commit (Table 7-4, R198, R201). -/
def Dev.cPlan (d : Dev) (ks : List Cluster) (c : Nat) : CPlan :=
  let ctrl := d.cWord ks c (aCarrCtrl c)
  let sym := d.cWord ks c (aCarrSym c)
  let fm := d.cWord ks c (aCarrFmt c)
  let fr := d.cWord ks c (aCarrFreq c)
  let zr := ctrl.getLsbD 1
  let rate := if zr then 239375 else Fld.get ⟨0, 11⟩ sym * 500
  let roll := Fld.get ⟨16, 5⟩ sym
  let fofs := Fld.int ⟨16, 12⟩ fr
  { en := ctrl.getLsbD 0, zr := zr, rate := rate, roll := roll, fmt := Fld.get ⟨0, 3⟩ fm, ent := Fld.get ⟨8, 9⟩ fm,
    slots := if zr then 0 else Fld.get ⟨20, 9⟩ fm,
    centre := 800 * (184500000 + 6250 * (Fld.get ⟨0, 12⟩ fr : Int) + fofs),
    half := ((100 + roll) * rate : Nat), fofs := 800 * fofs,
    port := Fld.get ⟨0, 6⟩ (d.cWord ks c (aCarrZr c)) }

/-- The other enabled carriers' settings. -/
def Dev.otherPlans (d : Dev) (ks : List Cluster) (c : Nat) : List CPlan :=
  ((List.range 48).filter (fun x => x ≠ c)).map (d.cPlan ks) |>.filter fun p => p.en

/-- R41: the slots of all enabled carriers. -/
def Dev.slotSum (d : Dev) (ks : List Cluster) : Nat :=
  (List.range 48).foldl (fun t c => let p := d.cPlan ks c; t + if p.en then p.slots else 0) 0

/-- R42: within 184.500 to 197.500 THz, and a block of at most 6.6 THz with the other enabled carriers. -/
def bandFits (p : CPlan) (others : List CPlan) : Bool :=
  decide (800 * 184500000 ≤ p.centre - p.half ∧ p.centre + p.half ≤ 800 * 197500000) &&
    others.all fun q => decide (p.centre + p.half - (q.centre - q.half) ≤ 800 * 6600000 ∧
      q.centre + q.half - (p.centre - p.half) ≤ 800 * 6600000)

/-- Two bands overlap (R203). -/
def bandsOverlap (p q : CPlan) : Bool := decide (((p.centre - q.centre).natAbs : Int) < p.half + q.half)

/-- The region runs in low-power converter mode (R227). -/
def Dev.halfMode (d : Dev) (g : Nat) : Bool := d.bit (cvtBase g) 0

/-- The sum of |h_t| of a dimension exceeds 2.0 (R203). -/
def Dev.tapsTooLarge (d : Dev) (ks : List Cluster) (c : Nat) : Bool :=
  (List.range 4).any fun dim =>
    decide (2048 < (List.range 7).foldl
      (fun t i => t + (Fld.int ⟨0, 12⟩ (d.cWord ks c (carrBase c + 0x100 + 4 * (7 * dim + i)))).natAbs) 0)

/-- The iterations per 48 ns that the floors of a pool's carriers take, times 131,072 × 24,576 (R177). -/
def Dev.floorLoad (d : Dev) (ks : List Cluster) (m : Nat) : Nat :=
  (List.range 12).foldl (fun t x =>
    let p := d.cPlan ks (12 * m + x)
    let fl := Fld.get ⟨0, 6⟩ (d.pWord ks m (poolBase m + 0x40 + 4 * x))
    t + if p.en && !p.zr then fl * (p.rate / 500) * fmtB p.fmt * 6 * 126480 else 0) 0

/-- The pool's admission rule is broken (R177). -/
def Dev.poolOver (d : Dev) (ks : List Cluster) (m : Nat) : Bool :=
  let win := Fld.get ⟨0, 8⟩ (d.pWord ks m (poolBase m))
  decide (440 * 131072 * 24576 < d.floorLoad ks m) ||
    (List.range 12).any fun x =>
      let p := d.cPlan ks (12 * m + x)
      let w := d.pWord ks m (poolBase m + 0x40 + 4 * x)
      (p.en && !p.zr && decide (win * 100 < Fld.get ⟨0, 6⟩ w * 48 + 300)) ||
        decide (Fld.get ⟨8, 6⟩ w < Fld.get ⟨0, 6⟩ w)

/-- The last committed value of a transmit register of carrier `c`: one committed with a grid change waits in `regrid` until the
carrier enters TUNE (R208). -/
def Dev.committedReg (d : Dev) (c a : Nat) : Word :=
  match (d.carrier c).regrid with | some l => (l.lookup a).getD (d.actReg a) | none => d.actReg a

/-- The same for the receive direction. -/
def Dev.committedRxReg (d : Dev) (c a : Nat) : Word :=
  match (d.carrier c).regridRx with | some l => (l.2.lookup a).getD (d.actRxReg a) | none => d.actRxReg a

/-- The transmit fields that change only through a change procedure (R204, R64). -/
def procedureFields (c : Nat) : List (Nat × Fld) :=
  let b := carrBase c
  [(b, ⟨0, 2⟩), (b + 0x10, ⟨0, 11⟩), (b + 0x14, ⟨0, 32⟩), (b + 0x18, ⟨0, 12⟩), (b + 0x1C, ⟨0, 3⟩), (b + 0x20, ⟨0, 6⟩)]

/-- A field changes that takes effect only through a change procedure (R204, R64, R331). -/
def Dev.procedureOnly (d : Dev) (c : Nat) : Bool :=
  (procedureFields c).any (fun e => decide (e.2.get (d.reg e.1) ≠ e.2.get (d.committedReg c e.1))) ||
    decide ((d.reg (xhBase c)).getLsbD 1 ≠ (d.committedRxReg c (xhBase c)).getLsbD 1)

/-- An enabled candidate has an entropy or a slot count its mode does not permit (R283). -/
def Dev.badCandidate (d : Dev) (ks : List Cluster) (c : Nat) : Bool :=
  (List.range 4).any fun q =>
    let a := d.cWord ks c (carrBase c + 0x200 + 8 * q)
    let b := d.cWord ks c (carrBase c + 0x204 + 8 * q)
    let f := Fld.get ⟨0, 3⟩ b
    let e := Fld.get ⟨8, 9⟩ b
    a.getLsbD 31 && (!fmtEntOk f e || !slotsFit (Fld.get ⟨0, 11⟩ a) f e (Fld.get ⟨20, 9⟩ b))

/-- The neighbour slots of carrier `c` as (source, carrier, package), in the order −2, −1, +1, +2 (Table 11-4). -/
def nbSlots (lo hi : Word) : List (Nat × Nat × Nat) :=
  [(lo, 0), (lo, 16), (hi, 0), (hi, 16)].map fun p =>
    (Fld.get ⟨p.2 + 6, 2⟩ p.1, Fld.get ⟨p.2, 6⟩ p.1, Fld.get ⟨p.2 + 8, 2⟩ p.1)

/-- The carriers of package `k` that the package names as remote sources, each once (R328, log entry 21). -/
def Dev.remoteNamed (d : Dev) (ks : List Cluster) (k : Nat) : List Nat :=
  ((List.range 48).flatMap fun c =>
    (nbSlots (d.cWord ks c (xhBase c + 4)) (d.cWord ks c (xhBase c + 8))).filterMap fun s =>
      if s.1 = 2 ∧ s.2.2 = k then some s.2.1 else none).eraseDups

/-- R321: a local source names the carrier itself, or more than two carriers of one package are named. -/
def Dev.badNeighbours (d : Dev) (ks : List Cluster) (c : Nat) : Bool :=
  ((nbSlots (d.cWord ks c (xhBase c + 4)) (d.cWord ks c (xhBase c + 8))).any fun s => decide (s.1 = 1 ∧ s.2.1 = c)) ||
    (List.range 4).any fun k => decide (2 < (d.remoteNamed ks k).length)

/-- The commit would enable a carrier that is not enabled now. -/
def Dev.enabling (d : Dev) (c : Nat) : Bool := (d.reg (aCarrCtrl c)).getLsbD 0 && !d.cEnabled c

/-- Enabling is refused: SAFE (R517), factory factors (R534), latched pads (R498), or a Proof failure (R538). -/
def Dev.enableRefused (d : Dev) (c : Nat) : Bool :=
  d.safe || d.bit 0x3808 (8 + c / 6) || d.bit aPwrRstat (16 + c / 6) || (d.carrier c).slicesBad || (d.carrier c).badMem

/-- The limits on an enabled carrier (R203, R228). -/
def Dev.carrierBad (d : Dev) (ks : List Cluster) (c : Nat) : Bool :=
  let p := d.cPlan ks c
  let others := d.otherPlans ks c
  let dac := if d.halfMode (c / 6) then 46080 else 92160
  p.en &&
    ((!p.zr && (!fmtEntOk p.fmt p.ent || !slotsFit (p.rate / 500) p.fmt p.ent p.slots)) ||
      decide (5120 < d.slotSum ks) || !bandFits p others ||
      (p.zr && decide (4 < ((List.range 12).filter fun x =>
        let q := d.cPlan ks (12 * (c / 12) + x); q.en && q.zr).length)) ||
      decide (800 * dac < p.half + (p.fofs.natAbs : Int)) ||
      others.any (bandsOverlap p) || d.tapsTooLarge ks c ||
      (p.zr && (decide (d.fld (aPortMap p.port) ⟨0, 3⟩ ≠ 3) || others.any fun q => q.zr && decide (q.port = p.port))) ||
      (d.halfMode (c / 6) && !p.zr && decide (300000 < p.rate)))

/-- The check of a carrier cluster; `proc` inside a change procedure. -/
def Dev.carrierCheck (d : Dev) (ks : List Cluster) (c : Nat) (proc : Bool) : Bool :=
  (proc || !d.procedureOnly c) && !(d.enabling c && d.enableRefused c) && !d.carrierBad ks c &&
    !d.poolOver ks (c / 12) && !d.badCandidate ks c && !d.badNeighbours ks c

/-- The check of a decoder pool (R177, R178). -/
def Dev.poolCheck (d : Dev) (ks : List Cluster) (m : Nat) : Bool :=
  !d.poolOver ks m &&
    !(decide (Fld.get ⟨0, 8⟩ (d.reg (poolBase m)) ≠ d.actFld (poolBase m) ⟨0, 8⟩) &&
      (List.range 12).any fun x => d.cEnabled (12 * m + x))

/-- The check of R19 for cluster `k`, committing together with `ks`. Framer, switch, cipher and timing clusters have no
rule between fields. -/
def Dev.check (d : Dev) (ks : List Cluster) (k : Cluster) (proc : Bool) : Bool :=
  match k with
  | .carrier c => d.carrierCheck ks c proc
  | .pool m => d.poolCheck ks m
  | _ => true

/-! The page check (R74). -/

/-- Clusters that a committed change procedure has still to take their shadow copies (R87). -/
def Dev.dueClusters (d : Dev) : List Cluster := allClusters.filter fun k => (d.cluster (clusterCode k)).due

/-- Slots that carrier `c` has at the target, where the clusters `ks` have taken their shadow copies; `none` when it will be
disabled. An interop carrier has no line slots. -/
def Dev.targetSlots (d : Dev) (ks : List Cluster) (c : Nat) : Option Nat :=
  let p := d.cPlan ks c
  if p.en then some p.slots else none

/-- A flow exists at the target with `n` slots. -/
def Dev.targetFlow (d : Dev) (f : Nat) : Option Nat :=
  let w := d.flow f
  if (w.alive || w.coming) && !w.deleting then some w.slots else none

/-- The ranges of a list are disjoint and end by 5,120. -/
def rangesOk : List (Nat × Nat) → Bool
  | [] => true
  | (b, n) :: r => decide (b + n ≤ 5120) && r.all (fun q => decide (b + n ≤ q.1 ∨ q.1 + q.2 ≤ b)) && rangesOk r

/-- The check of R74 on one page and direction, for a target at which the clusters `ks` of a change procedure have taken their
shadow copies. Slot counts change in no other way (R64). -/
def State.pageCheck (s : State) (page : Nat) (rx : Bool) (ks : List Cluster := []) : Bool :=
  let ranges := (List.range 48).filterMap fun c =>
    match s.dev.targetSlots (ks ++ s.dev.dueClusters) c with
    | some n => if n = 0 then none else some (s.conn.base page rx c, n)
    | none => none
  let es := s.conn.listed page rx
  rangesOk ranges &&
    es.all (fun e => ranges.any fun r => decide (r.1 ≤ e.1 ∧ e.1 < r.1 + r.2)) &&
    es.all (fun e => match s.dev.targetFlow (entryFlow e.2) with
      | some n => decide (entryIdx e.2 < n)
      | none => false) &&
    es.all (fun e =>
      let mine := es.filter fun q => entryFlow q.2 = entryFlow e.2
      decide (mine.length = (s.dev.targetFlow (entryFlow e.2)).getD 0) &&
        decide ((mine.filter fun q => entryIdx q.2 = entryIdx e.2).length = 1))

end Sys2Proof.Machine
end

