-- ==== Sys2Proof/Machine/FrontEnd.lean ====
section
/-!
DEFINITION. Front-end control (chapter 9): the engine control bus, the I2C controller, ramps, the gain and laser loops, the
housekeeping ADC; and the carrier state machine as far as laser and ramp drive it (R206 to R209).
-/
namespace Sys2Proof.Machine
open RegMap

/-! The engine control bus (R238 to R241). -/

/-- The next transaction of a queue: the first of the lowest class present (R241), with the rest. -/
def spiNext (q : List Spi) : Option (Spi × List Spi) :=
  match (List.range 4).findSome? fun k => q.find? fun t => decide (t.cls = k) with
  | none => none
  | some t => some (t, q.erase t)

/-- A transaction on the wires (R238, R239): 8 command bits, 16 address bits, on a read the turnaround clocks of FE_SPI.dummy, and
16 data bits, at 20 ns × (FE_SPI.div + 1) a clock. -/
def Dev.spiOut (d : Dev) (g : Nat) (read : Bool) (addr data : BitVec 16) : Dev :=
  let a := feBase g
  d.emit (.spi g read addr data (40 + if read then d.fld a ⟨4, 3⟩ else 0) (20 * (d.fld a ⟨0, 4⟩ + 1)))

/-- The bus starts its next transaction; a bus whose region is gated or whose pads are latched carries nothing (R498). -/
def Dev.spiStart (d : Dev) (g : Nat) : Dev :=
  let r := d.region g
  if d.busDead g || r.bus.isSome then d
  else match spiNext r.queue with
    | none => d
    | some (t, q) =>
      (d.spiOut g t.read t.addr t.data).onRegion g fun r => { r with queue := q, bus := some t }

/-- A transaction that failed twice is abandoned (R240); its ENGINE command completes as REFUSED (log entry 24). -/
def Dev.spiAbandon (d : Dev) (g : Nat) (t : Spi) : Dev :=
  let d1 := ((d.setBit (feBase g + 0xE0) 0).count (6 * g) 0x10 0 1).event .spiAbandoned g g
  if t.ring then d1.completeCommand 0 stRefused else d1

/-- What a transaction that succeeded does: a gain write puts its step in force, an ENGINE command completes. -/
def Dev.spiDone (d : Dev) (g : Nat) (t : Spi) (data : BitVec 16) : Dev :=
  let d1 := match t.gain with
    | some c => d.setFld (feBase g + 0xA0 + 4 * (c % 6)) ⟨0, 5⟩ t.data.toNat
    | none => d
  if t.ring then d1.completeCommand 0 stDone (if t.read then data.setWidth 32 else 0) else d1

/-- The end of the transaction in progress, judged by the byte seen on MISO during the command byte (R240). -/
def Dev.spiEnd (d : Dev) (g : Nat) (echo : Byte) (data : BitVec 16) : Dev :=
  match (d.region g).bus with
  | none => d
  | some t =>
    let d1 := d.onRegion g fun r => { r with bus := none }
    if echo = 0xA5 then d1.spiDone g t data
    else if t.retried then d1.spiAbandon g t
    else d1.onRegion g fun r => { r with waiting := r.waiting ++ [{ t with retried := true }] }

/-- The oldest waiting retry joins the head of its class. -/
def Dev.spiRetry (d : Dev) (g : Nat) : Dev :=
  match (d.region g).waiting with
  | [] => d
  | t :: w => d.onRegion g fun r => { r with waiting := w, queue := t :: r.queue }

def execSpiTransaction (g : Fin 8) (s : State) : Answer := s.nextOn fun d => d.spiStart g

/-- A transaction that ends so is abandoned. -/
def Dev.spiFails (d : Dev) (g : Nat) (echo : Byte) : Bool :=
  match (d.region g).bus with | none => false | some t => t.retried && decide (echo ≠ 0xA5)

/-- An abandoned transaction also asserts source 14 of the die (Table 21-6). -/
def execSpiTransactionEnd (g : Fin 8) (echo : Byte) (data : BitVec 16) (s : State) : Answer :=
  let s1 := s.on fun d => d.spiEnd g echo data
  .next (if s.dev.spiFails g echo then s1.fault g 14 else s1)

def execSpiRetry (g : Fin 8) (s : State) : Answer := s.nextOn fun d => d.spiRetry g

/-! The I2C controller (R244, R245). -/

/-- The transfer in progress is abandoned and the bus recovered. -/
def Dev.i2cAbandon (d : Dev) (g : Nat) (sda : Sda) : Dev :=
  let d1 := d.onRegion g fun r => { r with i2c := false, sda := sda }
  let d2 := ((d1.setBit (feBase g + 0xE0) 1).count (6 * g) 0x11 0 1).event .i2cAbandoned g g
  (d2.busRecover g).dropEngine

/-- A transfer ends: acknowledged it completes its ENGINE command, whose read bytes go to the buffer. -/
def Dev.i2cEnd (d : Dev) (g : Nat) (ack : Bool) (sda : Sda) (data : List Byte) : Dev :=
  if !(d.region g).i2c then d
  else if !ack then d.i2cAbandon g sda
  else
    let d1 := d.onRegion g fun r => { r with i2c := false, sda := .high }
    let d2 := if data = [] then d1 else d1.emit (.buffer 0 data)
    d2.completeCommand 0 stDone

def execI2cTransferEnd (g : Fin 8) (ack : Bool) (sda : Sda) (data : List Byte) (s : State) : Answer :=
  s.nextOn fun d => d.i2cEnd g ack sda data

def execI2cStretchTimeout (g : Fin 8) (sda : Sda) (s : State) : Answer :=
  s.nextOn fun d => if (d.region g).i2c then d.i2cAbandon g sda else d

/-- FE_BUS after a write whose old word was `old`: a cleared sda_stuck repeats the recovery (R245). -/
def Dev.feBusWritten (d : Dev) (g : Nat) (old : Word) : Dev :=
  if old.getLsbD 2 && !d.bit (feBase g + 0xE0) 2 then d.busRecover g else d

/-! Ramps (R247 to R252). -/

/-- The step that writes the attenuation in force to function 4 (R247). -/
def Dev.rampWrite (d : Dev) (c : Nat) : Dev :=
  match (d.carrier c).island with
  | some i => d.spiPut (c / 6) ⟨0, false, i.2, BitVec.ofNat 16 (d.attenuation c), false, none, false⟩
  | none => d.engineWrite 0 c 4 (BitVec.ofNat 16 (d.attenuation c))

/-- The carrier ramps up. -/
def Dev.rampsUp (d : Dev) (c : Nat) : Bool := decide (d.cState c = csRampUp)

/-- The carrier ramps down: in RAMP_DOWN, or after a device reset, whose ramp the always-on island runs (R252). -/
def Dev.rampsDown (d : Dev) (c : Nat) : Bool :=
  decide (d.cState c = csRampDown) || ((d.carrier c).txen && decide ((d.carrier c).why = .reset))

/-- One of the 64 steps of a ramp. -/
def Dev.rampStep (d : Dev) (c : Nat) : Dev :=
  let k := d.carrier c
  if d.rampsUp c && decide (k.level < 64) then (d.onCarrier c fun k => { k with level := k.level + 1 }).rampWrite c
  else if d.rampsDown c && decide (0 < k.level) then
    (d.onCarrier c fun k => { k with level := k.level - 1 }).rampWrite c
  else d

/-- A carrier enters OFF (R209, R230): DACs at mid-code, converters powered down, no receive modem (R297), its defects
gone (R140, log entry 25), a background run of its ADCs abandoned (R234). -/
def Dev.enterOff (d : Dev) (c : Nat) : Dev :=
  let d1 := (d.setCState c csOff).onCarrier c fun k =>
    { k with level := 0, txen := false, midCode := true, convReady := false, unused := false, regrid := none, regridRx := none,
             fofsNow := 0, phase := none, delin := none, lockedSeen := false }
  let d2 := ((d1.setFld (aRxStat c) ⟨0, 3⟩ rxIdle).setCarrRaw c 0).modemsClear c
  d2.runDrop c

/-- CARR_SHP (R187, R188): the shaper rate and energy bound in force, 0 while the carrier is off, uniform or interop. -/
def Dev.shpUpdate (d : Dev) (c : Nat) : Dev :=
  let w := d.actReg (aCarrFmt c)
  let k := if d.cEnabled c && !d.cZr c then shaperK (Fld.get ⟨0, 3⟩ w) (Fld.get ⟨8, 9⟩ w) else 0
  let word := if k = 0 then 0 else k + emaxOf (Fld.get ⟨0, 3⟩ w) k * 2 ^ 16
  d.setReg (carrBase c + 0x24) (BitVec.ofNat 32 word)

/-- A carrier enters TUNE: settings committed with a grid change take effect (R208), and its laser is commanded to the grid index
(R206). -/
def Dev.enterTune (d : Dev) (c : Nat) : Dev :=
  let k := d.carrier c
  let d1 := if k.regrid.isSome then
      ((d.onCarrier c fun k => { k with unused := false, regrid := none, regridRx := none, prev := none }).takeSettings
        (k.regrid.getD []) (k.regridRx.getD ([], []))).shpUpdate c
    else d
  (d1.setCState c csTune).engineWrite 2 c 2 (BitVec.ofNat 16 (d1.actFld (aCarrFreq c) ⟨0, 12⟩))

/-- The end of a ramp (R206, R208, R209, R250, R252). -/
def Dev.rampEnd (d : Dev) (c : Nat) : Dev :=
  let k := d.carrier c
  if d.rampsUp c && decide (k.level = 64) then d.setCState c csRun
  else if d.rampsDown c && decide (k.level = 0) then
    let d1 := d.onCarrier c fun k => { k with txen := false }
    match k.why with
    | .disable => d1.enterOff c
    | .regrid => d1.enterTune c
    | .safe => d1.setCState c csDark
    | .reset => d1.onCarrier c fun k => { k with why := .up, island := none }
    | .up => d1
  else d

/-- The engine reports its laser status (R243): a first report of lock starts the ramp up and asserts the enable. -/
def Dev.laserPoll (d : Dev) (c : Nat) (status : BitVec 16) : Dev :=
  if d.cState c ≠ csTune then d
  else
    let d1 := d.spiOut (c / 6) true (d.profAddr c 5) 0
    if status.getLsbD 0 then
      ((d1.setCState c csRampUp).onCarrier c fun k => { k with level := 0, txen := true, why := .up }).rampWrite c
    else d1

/-- R207. -/
def Dev.tuneTimeout (d : Dev) (c : Nat) : Dev :=
  if d.cState c = csTune then ((d.setCState c csDark).setBit (aCarrStat c) 3).event .frontEnd (8 + c / 12) c else d

def execLaserPoll (c : Fin 48) (status : BitVec 16) (s : State) : Answer := s.nextOn fun d => d.laserPoll c status

def execTuneTimeout (c : Fin 48) (s : State) : Answer := s.nextOn fun d => d.tuneTimeout c

def execRampStep (c : Fin 48) (s : State) : Answer := s.nextOn fun d => d.rampStep c

def execRampEnd (c : Fin 48) (s : State) : Answer := s.onWithSsf (fun d => d.rampEnd c) |> .next

/-- R230. -/
def execConverterReady (c : Fin 48) (s : State) : Answer :=
  s.nextOn fun d => if d.cEnabled c then d.onCarrier c fun k => { k with convReady := true } else d

/-! Receive gain (R253 to R255). -/

/-- The reported defect is LOLI or LOAQ (R254), or is LOAQ (R256). -/
def Dev.lightHold (d : Dev) (c : Nat) : Bool := (d.carrier c).rep = some 0 || (d.carrier c).rep = some 1

/-- A gain step is queued for function 0 (class 2 of R241). -/
def Dev.gainWrite (d : Dev) (c step : Nat) : Dev :=
  d.spiPut (c / 6) ⟨1, false, d.profAddr c 0, BitVec.ofNat 16 step, false, some c, false⟩

/-- The end of a dwell, with P in 0.01 dB below ADC full scale. -/
def Dev.gainDwell (d : Dev) (c power : Nat) : Dev :=
  let b := feBase (c / 6)
  let man := d.reg (b + 0x50 + 4 * (c % 6))
  let st := b + 0xA0 + 4 * (c % 6)
  let now := d.fld st ⟨0, 5⟩
  if man.getLsbD 0 then
    (if Fld.get ⟨1, 5⟩ man = now then d else d.gainWrite c (Fld.get ⟨1, 5⟩ man))
  else if d.lightHold c then d
  else if power < 100 * d.fld (b + 0x40) ⟨8, 6⟩ then
    (if now = 0 then d.setBit st 5 else d.gainWrite c (now - 1))
  else if 100 * d.fld (b + 0x40) ⟨0, 6⟩ < power then
    (if now = 31 then d.setBit st 5 else d.gainWrite c (now + 1))
  else d

def execGainDwell (c : Fin 48) (power : Nat) (s : State) : Answer := s.nextOn fun d => d.gainDwell c power

/-- A FE_GAIN write is rejected (R255). -/
def feGainBad (w : Word) : Bool := decide (Fld.get ⟨0, 6⟩ w < Fld.get ⟨8, 6⟩ w + 2)

/-! Laser steering (R256 to R258). -/

/-- The next trim: `trim + step × 2^-shift` rounded and clamped to ±`lim`, with whether it reached its clamp. -/
def nextTrim (trim step : Int) (shift lim : Nat) : Int × Bool :=
  let v := shiftRound (trim * 2 ^ shift + step) shift
  let w := clampInt (-lim) lim v
  (w, decide (lim ≤ w.natAbs) && decide (w ≠ trim))

/-- A trim is stored in half `hi` of FE_TRIM_x and written to its function; reaching the clamp is reported (R258). -/
def Dev.trimTo (d : Dev) (c : Nat) (hi : Bool) (v : Int × Bool) : Dev :=
  let b := feBase (c / 6)
  let d1 := (d.setFld (b + 0xC0 + 4 * (c % 6)) ⟨if hi then 16 else 0, 16⟩ (codeOf 16 v.1)).engineWrite
    (if hi then 2 else 1) c (if hi then 3 else 1) (BitVec.ofNat 16 (codeOf 16 v.1))
  if v.2 then (d1.setBit (b + 0xA0 + 4 * (c % 6)) (if hi then 7 else 6)).event .trimClamp (c / 6) c else d1

/-- R256, with the offset Δ that carrier recovery found last, in MHz. -/
def Dev.loSteer (d : Dev) (c : Nat) : Dev :=
  let offset := (d.carrier c).offset
  let b := feBase (c / 6)
  let w := d.reg (b + 0x90)
  if w.getLsbD 0 && decide (d.rxState c = rxLocked) && decide ((d.carrier c).rep ≠ some 1) &&
      decide (Fld.get ⟨16, 8⟩ w < offset.natAbs) then
    d.trimTo c false (nextTrim (d.reg (b + 0xC0 + 4 * (c % 6)) |> Fld.int ⟨0, 16⟩) offset (Fld.get ⟨12, 3⟩ w)
      (d.fld (b + 0x98) ⟨0, 12⟩))
  else d

/-- Entry `c` of the latest accepted far-end offset report, in 0.25 MHz (R132, R136). -/
def Dev.farOffset (d : Dev) (c : Nat) : Option Int :=
  match d.leadCarrier with
  | none => none
  | some l => match (d.carrier l).boh with
    | none => none
    | some b =>
      let e := b.ofs.getD c 0x8000#16
      if e = 0x8000#16 then none else some (signedOf 16 e.toNat)

/-- A block was accepted on some carrier in the last 4 band multiframes (R257). -/
def Dev.recentBlock (d : Dev) : Bool := (List.range 48).any fun c => decide ((d.carrier c).sinceBoh < 4)

/-- R257. -/
def Dev.txTrim (d : Dev) (c : Nat) : Dev :=
  let b := feBase (c / 6)
  let w := d.reg (b + 0x94)
  match d.farOffset c with
  | none => d
  | some q =>
    if w.getLsbD 0 && d.recentBlock && decide (4 * Fld.get ⟨16, 8⟩ w < q.natAbs) then
      let sh := Fld.get ⟨8, 3⟩ w
      let lim := d.fld (b + 0x98) ⟨16, 12⟩
      let trim := Fld.int ⟨16, 16⟩ (d.reg (b + 0xC0 + 4 * (c % 6)))
      d.trimTo c true (nextTrim trim (-q) (sh + 2) lim)
    else d

def execLoSteerUpdate (c : Fin 48) (s : State) : Answer := s.nextOn fun d => d.loSteer c

def execTxTrimPeriod (c : Fin 48) (s : State) : Answer := s.nextOn fun d => d.txTrim c

/-! The housekeeping ADC (R261 to R265). -/

def hkResAddr (g i : Nat) : Nat := feBase g + 0x110 + 4 * i

/-- The selected input at or after `i`, in ascending order around the sequence (R262). -/
def hkAt (seq : Word) (i : Nat) : Option Nat :=
  (List.range 12).findSome? fun k => if seq.getLsbD ((i + k) % 12) then some ((i + k) % 12) else none

/-- A self-calibration runs. -/
def Dev.hkCal (d : Dev) (g : Nat) : Bool := d.bit (feBase g + 0x100) 13

/-- A result is stored, with valid set. -/
def Dev.hkResult (d : Dev) (g i : Nat) (code : BitVec 16) : Dev :=
  d.setReg (hkResAddr g i) (BitVec.ofNat 32 (code.toNat + 2 ^ 16))

/-- A conversion ends: an urgent one first, else the one of the sequence, after which the next input starts. -/
def Dev.hkConversion (d : Dev) (g : Nat) (code : BitVec 16) : Dev :=
  let h := (d.region g).hk
  if d.hkCal g then d
  else match h.urgent with
    | i :: u => (d.hkResult g i code).onRegion g fun r => { r with hk := { r.hk with urgent := u } }
    | [] => match hkAt (d.reg (feBase g + 0x100)) h.current with
      | none => d
      | some i => (d.hkResult g i code).onRegion g fun r => { r with hk := { r.hk with current := (i + 1) % 12 } }

def execHkConversion (g : Fin 8) (code : BitVec 16) (s : State) : Answer := s.nextOn fun d => d.hkConversion g code

/-- R263: the conversion in progress is aborted and starts again afterwards. -/
def execHkUrgentRequest (g : Fin 8) (i : Fin 12) (s : State) : Answer :=
  s.nextOn fun d => d.onRegion g fun r => { r with hk := { r.hk with urgent := r.hk.urgent ++ [i.val] } }

/-- HK_TRIG after a write with arm at 1: a bad lead is late and captures nothing (R264, R224). -/
def Dev.hkTrigWritten (d : Dev) (g : Nat) (data : Word) : Dev :=
  if data.getLsbD 31 && !leadOk 2 (data.setWidth 16) d.capTick then
    (d.setBit (feBase g + 0x140) 31 false).setBit (feBase g + 0x144) 17
  else d

/-- R264, at the armed tick. -/
def Dev.hkSnapshot (d : Dev) (g : Nat) (code : BitVec 16) : Dev :=
  let t := d.reg (feBase g + 0x140)
  if t.getLsbD 31 && decide (t.setWidth 16 = d.capTick) then
    ((d.setBit (feBase g + 0x140) 31 false).setFld (feBase g + 0x144) ⟨0, 16⟩ code.toNat).setBit (feBase g + 0x144) 16
  else d

def execHkSnapshot (g : Fin 8) (code : BitVec 16) (s : State) : Answer := s.nextOn fun d => d.hkSnapshot g code

/-- HK_CTRL after a write: a calibration that starts leaves every result without valid (R265). -/
def Dev.hkCtrlWritten (d : Dev) (g : Nat) (old : Word) : Dev :=
  if d.hkCal g && !old.getLsbD 13 then
    each (List.range 12) (fun i d => d.setBit (hkResAddr g i) 16 false) d
  else d

/-- R265: `offset` in LSB, `gain` in 1/32,768. Refused factors assert source 16 of the die (Table 21-6). -/
def Dev.hkCalEnd (d : Dev) (g : Nat) (offset : Int) (gain : Nat) : Dev :=
  let a := feBase g + 0x100
  if !d.hkCal g then d
  else
    let d1 := d.setBit a 13 false
    if decide (offset.natAbs ≤ 64) && decide (98 * 32768 ≤ 100 * gain ∧ 100 * gain ≤ 102 * 32768) then
      d1.setReg (feBase g + 0x148) (BitVec.ofNat 32 (codeOf 16 offset + gain * 2 ^ 16))
    else (d1.setBit a 14).faultLog g 16

def execHkCalibrationEnd (g : Fin 8) (offset : Int) (gain : Nat) (s : State) : Answer :=
  s.nextOn fun d => d.hkCalEnd g offset gain

end Sys2Proof.Machine
end

