-- ==== Sys2Proof/Machine/Mapping.lean ====
section
/-!
DEFINITION. How the data stream of a band multiframe, its codewords and its dimensions fit together, in both directions (R165 to
R169, R188 to R194). A stream is a function from positions to bits; dimension d of the multiframe lies in codeword d / n_d and in
shaping block d / 108.
-/
namespace Sys2Proof.Machine

/-- Dimensions of a carrier frame, and shaping blocks of a band multiframe (R167, R190). -/
def frameDims : Nat := 505920
def blocksPerMf : Nat := 1199217

/-! Places in the data stream (R168, R169, R191). -/

/-- Shaping blocks whose first dimension lies before codeword `w`. -/
def blocksBefore (f w : Nat) : Nat := min blocksPerMf ((w * fmtDims f + 107) / 108)

/-- The first bit of the data stream that codeword `w` reads, of its unshaped bits, and of shaping block `j`. -/
def wordStart (f e w : Nat) : Nat := if fmtShaped f then shaperK f e * blocksBefore f w + fmtU f * w else 19520 * w
def unshapedStart (f e w : Nat) : Nat := shaperK f e * blocksBefore f (w + 1) + fmtU f * w
def blockStart (f e j : Nat) : Nat := shaperK f e * j + fmtU f * (108 * j / fmtDims f)

/-- `n` bits of a stream from a position. -/
def streamBits (bit : Nat → Bool) (pos n : Nat) : List Bool := (List.range n).map fun i => bit (pos + i)

/-! Transmit. -/

/-- The amplitudes of shaping block `j`; dimensions behind the last block are fill of amplitude 0 (R189, R190). -/
def blockAmps (f e : Nat) (bit : Nat → Bool) (j : Nat) : List Nat :=
  if j < blocksPerMf then shape f (shaperK f e) (ofBits (streamBits bit (blockStart f e j) (shaperK f e)))
  else List.replicate 108 0

/-- The amplitudes of the dimensions of codeword `w` in a PCS format. -/
def wordAmps (f e : Nat) (bit : Nat → Bool) (w : Nat) : List Nat :=
  let lo := w * fmtDims f
  let j0 := lo / 108
  let n := (lo + fmtDims f - 1) / 108 + 1 - j0
  (((List.range n).flatMap fun i => blockAmps f e bit (j0 + i)).drop (lo - 108 * j0)).take (fmtDims f)

/-- The information bits of the eight outer codewords of codeword `w` (R165, R169, R191): amplitude bits first. -/
def wordInfo (f e : Nat) (bit : Nat → Bool) (w : Nat) : List (List Bool) :=
  if fmtShaped f then
    let amp := (wordAmps f e bit w).flatMap (grayBits (fmtM f))
    let u := fmtU f / 8
    (List.range 8).map fun q =>
      (amp.drop (q * (fmtA f / 8))).take (fmtA f / 8) ++ streamBits bit (unshapedStart f e w + q * u) u
  else (List.range 8).map fun q => streamBits bit (19520 * w + 2440 * q) 2440

/-- The inner codeword around eight outer ones (R163). -/
def encodeWord (info : List (List Bool)) : List Bool := ldpcEncode (info.flatMap bchEncode)

/-- The amplitude stream of a codeword, and its sign stream: unshaped bits, outer and inner parity (R165, R166). -/
def ampStream (f : Nat) (cw : List Bool) : List Bool :=
  (List.range 8).flatMap fun q => (cw.drop (2560 * q)).take (fmtA f / 8)
def signStream (f : Nat) (cw : List Bool) : List Bool :=
  ((List.range 8).flatMap fun q => ((cw.drop (2560 * q)).take 2560).drop (fmtA f / 8)) ++ cw.drop 20480

/-- The values of the dimensions of a codeword before scaling (R166). -/
def wordDims (f : Nat) (cw : List Bool) : List Int :=
  let amp := ampStream f cw
  (signStream f cw).zipIdx.map fun p => dimValue p.1 (unGray ((amp.drop ((fmtM f - 1) * p.2)).take (fmtM f - 1)))

/-- The dimensions of codeword `w` of a data stream. -/
def txWord (f e : Nat) (bit : Nat → Bool) (w : Nat) : List Int := wordDims f (encodeWord (wordInfo f e bit w))

/-! Scaling (R194). -/

/-- Occurrences of each amplitude in all sequences of n + 1 amplitudes by energy units, from T(n, ·) and those of n amplitudes. -/
def occNext (lv : Nat) (row : List Nat) (occ : List (List Nat)) : List (List Nat) :=
  (List.range lv).map fun a => List.zipWith (· + ·) (shaperNext lv (occ.getD a [])) (shiftUp (ampUnits a) row)

/-- The occurrences for n, n − 1, … 0 amplitudes, from rows T(n − 1, ·) down to T(0, ·) up to `j` units. -/
def occRows (lv j : Nat) : List (List Nat) → List (List (List Nat))
  | [] => [List.replicate lv (List.replicate (j + 1) 0)]
  | row :: rows =>
    let occ := occRows lv j rows
    occNext lv row (occ.headD []) :: occ

/-- Occurrences of each amplitude in the first `v` sequences in lexicographic order with at most `units` of energy. -/
def firstOcc (lv : Nat) : List (List Nat) → List (List (List Nat)) → Nat → Nat → List Nat
  | row :: rows, occ :: occs, units, v =>
    ((List.range lv).foldl (fun (st : List Nat × Nat) a =>
      let c := if ampUnits a ≤ units then row.getD (units - ampUnits a) 0 else 0
      if st.2 = 0 then st
      else if c ≤ st.2 then
        ((List.zipWith (· + ·) st.1 (occ.map fun l => if ampUnits a ≤ units then l.getD (units - ampUnits a) 0 else 0)).modify a
          (· + c), st.2 - c)
      else ((List.zipWith (· + ·) st.1 (firstOcc lv rows occs (units - ampUnits a) st.2)).modify a (· + st.2), 0))
      (List.replicate lv 0, v)).1
  | _, _, _, _ => List.replicate lv 0

/-- How often each amplitude occurs in the first 2^k sequences of the codebook (R194, R291). -/
def ampCounts (f k : Nat) : List Nat :=
  let j := emaxUnits f k
  let rows := (shaperRows (fmtL f) j 108).drop 1
  firstOcc (fmtL f) rows ((occRows (fmtL f) j rows).drop 1) j (2 ^ k)

/-- The frequency of amplitude `a`; a uniform format has all alike. -/
def ampFreq (f e a : Nat) : Rat :=
  if fmtShaped f then ((ampCounts f (shaperK f e)).getD a 0 : Rat) / ((108 * 2 ^ shaperK f e : Nat) : Rat) else 1 / (fmtL f : Rat)

/-- Ed, the mean of (2a + 1)². -/
def meanEnergy (f e : Nat) : Rat :=
  ((List.range (fmtL f)).map fun a => ampFreq f e a * (((2 * a + 1) ^ 2 : Nat) : Rat)).foldl (· + ·) 0

/-- Dimensions on the unit-power scale. -/
def scaled (f e : Nat) (vs : List Int) : List Rat :=
  let q := Config.sqrt (meanEnergy f e)
  vs.map fun (v : Int) => (v : Rat) / q

/-! Receive: the data stream out of decoded codewords. -/

/-- The amplitudes that the decided information bits of a codeword carry. -/
def decidedAmps (f : Nat) (info : List (List Bool)) : List Nat :=
  let amp := info.flatMap fun o => o.take (fmtA f / 8)
  (List.range (fmtDims f)).map fun k => unGray ((amp.drop ((fmtM f - 1) * k)).take (fmtM f - 1))

/-- The unshaped bits of a decided codeword. -/
def decidedUnshaped (f : Nat) (info : List (List Bool)) : List Bool := info.flatMap fun o => o.drop (fmtA f / 8)

/-- The data bits of decided codeword `w`, and its shaping errors (R193): its blocks are deshaped with the amplitudes of the
next codeword, in which the last of them may end. -/
def wordData (f e : Nat) (word : Nat → List (List Bool)) (w : Nat) : List Bool × Nat :=
  if fmtShaped f then
    let lo := w * fmtDims f
    let amps := decidedAmps f (word w) ++ decidedAmps f (word (w + 1))
    let j0 := blocksBefore f w
    let blocks := (List.range (blocksBefore f (w + 1) - j0)).map fun i =>
      deshape f (shaperK f e) ((amps.drop (108 * (j0 + i) - lo)).take 108)
    (blocks.flatMap (fun b => b.1) ++ decidedUnshaped f (word w), (blocks.filter fun b => b.2).length)
  else ((word w).flatMap id, 0)

/-- The codeword that the data bit at `pos` belongs to. -/
def wordAt (f e pos : Nat) : Nat :=
  let est := pos * fmtW f / dataBits f e
  (((List.range 4).map fun t => est + 2 - t).find? fun w => decide (wordStart f e w ≤ pos)).getD 0

/-- The codewords whose data bits make up carrier frame `i`, and the one behind them if a block reaches into it. -/
def frameWords (f e i : Nat) : List Nat :=
  let lo := wordAt f e (i * frameBits f e)
  let hi := wordAt f e ((i + 1) * frameBits f e - 1)
  (List.range (hi + 2 - lo)).filterMap fun t => if lo + t < fmtW f then some (lo + t) else none

/-- The frame data of carrier frame `i` in whole bytes, and the shaping errors of the codewords that start in it. -/
def frameData (f e i : Nat) (word : Nat → List (List Bool)) : List Byte × Nat :=
  let d := frameBits f e
  let lo := wordAt f e (i * d)
  let hi := wordAt f e ((i + 1) * d - 1)
  let ws := (List.range (hi + 1 - lo)).map fun t => wordData f e word (lo + t)
  let bits := ((ws.flatMap fun r => r.1).drop (i * d - wordStart f e lo)).take d
  ((List.range (d / 8)).map fun n => BitVec.ofNat 8 (ofBits ((bits.drop (8 * n)).take 8)),
   ((List.range (hi + 1 - lo)).zip ws).foldl (fun t p => if i * d ≤ wordStart f e (lo + p.1) then t + p.2.2 else t) 0)

end Sys2Proof.Machine
end

