-- ==== Sys2Proof/Machine/Receive.lean ====
section
/-!
DEFINITION. The receive modem (chapter 10): the states of Table 10-3 and what moves between them (R284 to R288), carrier
frame delineation and loss of carrier frame (R171 to R173, R142), loss of light, receive estimates (R293, R294).
-/
namespace Sys2Proof.Machine
open RegMap

/-! Candidates (R283, R285, R287, R288). -/

/-- The candidates in the active registers. -/
def Dev.activeCands (d : Dev) (c : Nat) : List (Word × Word) :=
  (List.range 4).map fun q => (d.actReg (carrBase c + 0x200 + 8 * q), d.actReg (carrBase c + 0x204 + 8 * q))

/-- A candidate is searched: enabled, and not above 75 GBd in low-power converter mode. -/
def Dev.searched (d : Dev) (c : Nat) (m : Word × Word) : Bool :=
  m.1.getLsbD 31 && !(d.halfMode (c / 6) && decide (600 < Fld.get ⟨0, 11⟩ m.1))

def Dev.setRxState (d : Dev) (c st : Nat) : Dev := d.setFld (aRxStat c) ⟨0, 3⟩ st

/-- RX_MODE_A.valid (Table 10-6). -/
def Dev.setModeValid (d : Dev) (c : Nat) (b : Bool) : Dev := d.setBit (carrBase c + 0x244) 31 b

/-- XH_STAT.rsusp (R319). -/
def Dev.setSusp (d : Dev) (c : Nat) (b : Bool) : Dev := d.setBit (xhBase c + 0x30) 8 b

/-- The dispersion that a search takes into use (R271, R272, R286): a multiple of 100 ps/nm within ±120,000 ps/nm, in a warm search
within ±2,000 ps/nm of the last one. -/
def acqCd (a : Acq) (warm : Bool) (last : Int) : Int :=
  let v := clampInt (-12000) 12000 (a.cd / 10 * 10)
  if warm then clampInt (max (-12000) (last - 200)) (min 12000 (last + 200)) v else v

/-- The fixed dispersion in 10 ps/nm in the active registers, with cdfix at 1 (R272). -/
def Dev.activeCdFix (d : Dev) (c : Nat) : Option Int :=
  if (d.actReg (carrBase c + 0x220)).getLsbD 0 then some (Fld.int ⟨0, 16⟩ (d.actReg (carrBase c + 0x224))) else none

/-- The dispersion in 10 ps/nm that a lock takes into use: the one fixed when the search began (R288), else what the acquisition
found. -/
def Dev.cdFound (d : Dev) (c : Nat) (a : Acq) : Int :=
  (d.carrier c).cdFix.getD (acqCd a (d.carrier c).warm (d.carrier c).cd)

/-- What the receive modem finds in one carrier frame: the measurement of the mode in use, whether the training block stands at its
expected position, the unsatisfied checks of H under each phase φ (R171), cycle slips (R280), the offset Δ in MHz (R278), the
symbol clock offset in 0.01 ppm (R270), and the LLRs of the frame's dimensions, each sign first and then the amplitude bits
(R291). -/
structure RxFrame where
  use : Metric := ⟨0, 0, 0, 0⟩
  trainAt : Bool := false
  unsat : List Nat := []
  slips : Nat := 0
  offset : Int := 0
  timing : Int := 0
  llrs : List Int := []
  deriving DecidableEq, Repr

/-! Codewords out of LLRs (R165, R166, R170, R172). -/

/-- The LLRs of the dimensions of one codeword, in code-bit order. -/
def codeOrder (f : Nat) (ls : List Int) : List Int :=
  let m := fmtM f
  let signs := (ls.zipIdx.filter fun p => decide (p.2 % m = 0)).map fun p => p.1
  let amps := (ls.zipIdx.filter fun p => decide (p.2 % m ≠ 0)).map fun p => p.1
  let a := fmtA f / 8
  ((List.range 8).flatMap fun q => (amps.drop (a * q)).take a ++ (signs.drop ((2560 - a) * q)).take (2560 - a)) ++
    signs.drop (8 * (2560 - a))

/-- Unsatisfied checks of the first codeword that starts in the frame under phase φ (R171). -/
def phaseChecks (f : Nat) (llrs : List Int) (p : Nat) : Nat :=
  let n := fmtDims f
  let o := (p * frameDims + n - 1) / n * n - p * frameDims
  unsatisfied (hardBlocks (codeOrder f ((llrs.drop (fmtM f * o)).take 24576)))

/-- Delineation is found at phase `p` in the frame that ends: decoding starts at the next codeword boundary (R172). -/
def RxModem.delineate (m : RxModem) (f p : Nat) : RxModem :=
  { m with frame := p, llrWord := ((p + 1) * frameDims + fmtDims f - 1) / fmtDims f, llrs := [], ready := [], gen := m.gen + 1,
           words := [], frames := [], base := none, slices := [], ended := [], otu := [] }

/-- The next delineated frame: its LLRs fill up codewords, and its data is awaited. -/
def RxModem.addFrame (m : RxModem) (f : Nat) (r : RxFrame) : RxModem :=
  let i := m.frame + 1
  let skip := if m.llrs = [] then m.llrWord * fmtDims f - i * frameDims else 0
  let ls := m.llrs ++ r.llrs.drop (fmtM f * skip)
  let n := ls.length / 24576
  { m with frame := i, llrs := ls.drop (24576 * n), llrWord := m.llrWord + n,
           ready := m.ready ++ (List.range n).map fun j => (m.llrWord + j, codeOrder f ((ls.drop (24576 * j)).take 24576)),
           frames := m.frames ++ [⟨i, r.trainAt⟩] }

/-- The numbers that frame 0 of the delineation may have in its band multiframe: the one that a slice has told, else every
multiple of the period. -/
def RxModem.bases (m : RxModem) (f : Nat) : List Nat :=
  match m.base with
  | some b => [b]
  | none => (List.range (256 / fmtPeriod f)).map (fmtPeriod f * ·)

/-- The decoded codewords that frame `i` needs under base `b`, by their numbers counted from delineation. -/
def relWord (f b i w : Nat) : Nat := w + (i + b) / 256 * fmtW f - b * frameDims / fmtDims f
def RxModem.needs (f e b i : Nat) : List Nat := (frameWords f e ((i + b) % 256)).map (relWord f b i)

/-- Its frame data and shaping errors, once they are all there. -/
def RxModem.dataOf (m : RxModem) (f e b i : Nat) : Option (List Byte × Nat) :=
  if (RxModem.needs f e b i).all fun w => m.words.any fun p => decide (p.1 = w) then
    some (frameData f e ((i + b) % 256) fun w => SMap.get m.words (relWord f b i w) [])
  else none

/-- A frame whose codewords began before decoding did is never read. -/
def RxModem.unread (m : RxModem) (f e i : Nat) : Bool :=
  match m.words with
  | [] => false
  | (k, _) :: _ => (m.bases f).all fun b => (RxModem.needs f e b i).any fun w => decide (w < k)

/-- Delineation is lost, or starts anew: what was received under it counts no more. -/
def Dev.dropDelin (d : Dev) (c : Nat) : Dev :=
  (d.onCarrier c fun k => { k with phase := none, delin := none }).onRxm c fun m =>
    { m with llrs := [], ready := [], words := [], frames := [], base := none, slices := [], ended := [], otu := [] }

/-! Leaving LOCKED, and entering the other states. Loops keep their last state (R282). -/

/-- The modem leaves LOCKED: LOAQ enters, cancellation is suspended. -/
def Dev.leaveLocked (d : Dev) (c : Nat) : Dev := ((d.carrDefect c 1 true).setSusp c true).alignLost c

/-- The modem enters SEARCH. -/
def Dev.enterSearch (d : Dev) (c : Nat) : Dev :=
  let d1 := ((d.setRxState c rxSearch).setModeValid c false).onCarrier c fun k =>
    { k with cands := d.activeCands c, cdFix := d.activeCdFix c, goodMet := [], framesIn := 0, badMet := 0, retestQ := [], retestAt := none,
             warm := (d.actReg (carrBase c + 0x220)).getLsbD 1 && k.lockedSeen }
  ((d1.dropDelin c).onRxm c fun m => { m with train := [], run := false, held := [], decided := [] }).leaveLocked c

/-- The modem enters NOLIGHT. -/
def Dev.enterNolight (d : Dev) (c : Nat) : Dev :=
  let d1 := ((d.setRxState c rxNolight).setModeValid c false).onCarrier c fun k => { k with retestQ := [], retestAt := none }
  ((d1.dropDelin c).onRxm c fun m => { m with run := false, held := [], decided := [] }).leaveLocked c

/-- The candidates to retest: those of the symbol rate and training pattern of RX_MODE, in ascending q cyclically after
RX_STAT.cand and ending with it (R287). -/
def Dev.retestOrder (d : Dev) (c : Nat) (cands : List (Word × Word)) : List Nat :=
  let now := d.fld (aRxStat c) ⟨3, 2⟩
  let mode := d.reg (carrBase c + 0x244)
  ((List.range 4).map fun i => (now + 1 + i) % 4).filter fun q =>
    match cands[q]? with
    | none => false
    | some m => d.searched c m && decide (Fld.get ⟨0, 11⟩ m.1 = Fld.get ⟨0, 11⟩ mode) &&
        decide (Fld.get ⟨16, 3⟩ m.1 = Fld.get ⟨16, 3⟩ mode)

/-- The next candidate of a retest starts its test, or none is left and the modem enters SEARCH. -/
def Dev.retestNext (d : Dev) (c : Nat) : Dev :=
  match (d.carrier c).retestQ with
  | [] => d.enterSearch c
  | q :: r => (d.dropDelin c).onCarrier c fun k => { k with retestQ := r, retestAt := some q, locfGood := 0 }

/-- The modem enters RETEST on a frame loss. -/
def Dev.enterRetest (d : Dev) (c : Nat) : Dev :=
  let cs := d.activeCands c
  let d1 := ((d.setRxState c rxRetest).leaveLocked c).onCarrier c fun k =>
    { k with cands := cs, retestQ := d.retestOrder c cs, framesIn := 0 }
  d1.retestNext c

/-- The modem enters LOCKED on candidate `q` (R285): the mode is copied, the lock counted, LOAQ exits. Cancellation stays
suspended until the first accepted block (R319). -/
def Dev.enterLocked (d : Dev) (c q : Nat) : Dev :=
  let b := carrBase c
  let old := d.fld (aRxStat c) ⟨3, 2⟩
  let m := (d.carrier c).cands.getD q (0, 0)
  let d1 := if d.cZr c then d else (d.setReg (b + 0x244) m.1).setReg (b + 0x248) m.2
  let d2 := (((d1.setModeValid c true).setRxState c rxLocked).setFld (aRxStat c) ⟨3, 2⟩ q).incFld (aRxStat c) ⟨16, 16⟩
  let d3 := d2.onCarrier c fun k =>
    { k with lockedSeen := true, framesIn := 0, badMet := 0, goodMet := [], retestQ := [], retestAt := none,
             xhFirst := true, xhSeen := none, xhDiff := 0 }
  let d4 := d3.carrDefect c 1 false
  if q = old then d4 else d4.event .modeChange (8 + c / 12) c [q]

/-! Loss of carrier frame (R142, R172). -/

/-- LOCF enters: delineation is lost, and in LOCKED this is a frame loss, for an interop carrier a physical loss (R290). -/
def Dev.locfEnter (d : Dev) (c : Nat) : Dev :=
  let d1 := ((d.carrDefect c 2 true).dropDelin c).alignLost c
  if d.rxState c = rxLocked then (if d.cZr c then d1.enterSearch c else d1.enterRetest c) else d1

/-- LOCF exits. -/
def Dev.locfExit (d : Dev) (c : Nat) : Dev := d.carrDefect c 2 false

/-- LOLI enters or exits, and the modem goes to NOLIGHT or to SEARCH (Table 10-3). -/
def Dev.loliEnter (d : Dev) (c : Nat) : Dev :=
  let d1 := d.carrDefect c 0 true
  if d.rxState c = rxIdle then d1 else d1.enterNolight c

def Dev.loliExit (d : Dev) (c : Nat) : Dev :=
  let d1 := d.carrDefect c 0 false
  if d.rxState c = rxNolight then d1.enterSearch c else d1

/-! One received carrier frame. -/

/-- Measurements that meet the lock criterion in one frame: correlation at least 0.5, fewer than 5 % of 4,080 pilots. -/
def metricGood (m : Metric) : Bool := decide (500 ≤ m.corrX ∧ 500 ≤ m.corrY ∧ 20 * m.errX < 4080 ∧ 20 * m.errY < 4080)

/-- A frame that counts towards a physical loss: correlation below 0.3, or 15 % or more of the pilots. -/
def metricLossy (m : Metric) : Bool :=
  decide (m.corrX < 300 ∨ m.corrY < 300 ∨ 15 * 4080 ≤ 100 * m.errX ∨ 15 * 4080 ≤ 100 * m.errY)

/-- Format and entropy under which the frame's codewords are read: the mode in use, or the candidate under test. -/
def Dev.rxFormat (d : Dev) (c : Nat) : Nat × Nat :=
  let w := match (d.carrier c).retestAt with
    | some q => ((d.carrier c).cands.getD q (0, 0)).2
    | none => d.reg (carrBase c + 0x248)
  (Fld.get ⟨0, 3⟩ w, Fld.get ⟨8, 9⟩ w)

/-- A slice passes its CRC-8 (R130). -/
def sliceOk (data : List Byte) : Bool :=
  decide (4 ≤ data.length) && decide (crc8 (data.take 3) = data.getD 3 0)

/-- The justification word of a delineated frame (R126). -/
def Dev.rxJustify (d : Dev) (c : Nat) (data : List Byte) : Dev :=
  if crc8 ((data.drop 4).take 3) = data.getD 7 0 then
    d.onCarrier c fun k => { k with rxCn := ofBytes ((data.drop 4).take 3) }
  else d.count pcFramer 1 c 1

/-- LOCF counting of one frame that was good or bad. -/
def Dev.locfCount (d : Dev) (c : Nat) (good : Bool) : Dev :=
  let k := d.carrier c
  if good then
    let d1 := d.onCarrier c fun k => { k with locfBad := 0, locfGood := k.locfGood + 1 }
    if k.raw.getLsbD 2 && decide (2 ≤ k.locfGood + 1) then d1.locfExit c else d1
  else
    let d1 := d.onCarrier c fun k => { k with locfGood := 0, locfBad := k.locfBad + 1 }
    if !k.raw.getLsbD 2 && decide (4 ≤ k.locfBad + 1) then d1.locfEnter c else d1

/-- What a decoded frame delivers: its slice joins the band multiframe that its number places it in (R135), and its OTUCn-M bytes
go on while the modem is LOCKED (R142). -/
def RxModem.deliver (m : RxModem) (i cn : Nat) (locked : Bool) (data : List Byte) : RxModem :=
  let s := if i = 0 then [data.take 4] else m.slices ++ [data.take 4]
  { m with slices := if i = 255 then [] else s, ended := if i = 255 then s else m.ended,
           otu := if locked then m.otu ++ (data.drop 8).take cn else m.otu }

/-- One decoded frame (R142, R173): good when its training block stood in place, its slice passes and BMFAS is the number expected.
While LOCF is present any number that agrees with the phase starts the count anew. -/
def Dev.rxJudged (d : Dev) (c : Nat) (p : RxPending) (b : Nat) (r : List Byte × Nat) : Dev :=
  let i := (p.i + b) % 256
  let ok := sliceOk r.1 && decide ((r.1.headD 0).toNat = i)
  let lost := !ok && (d.carrier c).raw.getLsbD 2
  let d1 := d.onRxm c fun m => { m with base := if lost then none else if ok then some b else m.base }
  let d2 := d1.onCarrier c fun k =>
    { k with mfRx := if ok && decide (i = 0) then 0 else k.mfRx }
  let d3 := if (d1.rxModem c).base.isSome then
      let d' := (d2.rxJustify c r.1).count c 4 0 r.2
      d'.onRxm c fun m => m.deliver i (d'.carrier c).rxCn (decide (d.rxState c = rxLocked)) r.1
    else d2
  d3.locfCount c (p.trainAt && ok)

/-- Frames whose codewords have all come are judged in order. -/
def Dev.rxJudge (d : Dev) (c : Nat) : Nat → Dev
  | 0 => d
  | n + 1 =>
    let m := d.rxModem c
    let (f, e) := d.rxFormat c
    match m.frames with
    | [] => d
    | p :: ps =>
      let next := d.onRxm c fun m => { m with frames := ps }
      if m.unread f e p.i then next.rxJudge c n
      else match (m.bases f).filterMap fun b => (m.dataOf f e b p.i).map fun r => (b, r) with
        | [] => d
        | q :: qs =>
          let hit := ((q :: qs).find? fun z => sliceOk z.2.1 && decide ((z.2.1.headD 0).toNat = (p.i + z.1) % 256)).getD q
          let low := ((RxModem.needs f e hit.1 p.i).headD 0)
          ((next.onRxm c fun m => { m with words := m.words.filter fun w => decide (low ≤ w.1) }).rxJudged c p hit.1 hit.2).rxJudge c n

/-- Delineation (R171, R172) in LOCKED and RETEST: until it is found the frame counts against LOCF; from then on the frame's LLRs
go to the pool, and its slice is judged once it is decoded. -/
def Dev.rxFraming (d : Dev) (c : Nat) (r : RxFrame) : Dev :=
  let f := (d.rxFormat c).1
  let p := fmtPeriod f
  let k := d.carrier c
  match k.delin with
  | none =>
    let sel := selectPhase (r.unsat.take p)
    let found := match k.phase, sel with | some a, some b => decide (b = (a + 1) % p) | _, _ => false
    let d1 := d.onCarrier c fun k => { k with phase := sel, delin := if found then sel else none }
    let d2 := if found then d1.onRxm c fun m => m.delineate f (sel.getD 0) else d1
    d2.locfCount c false
  | some a =>
    let d1 := (d.onCarrier c fun k => { k with delin := some ((a + 1) % p) }).onRxm c fun m => m.addFrame f r
    d1.rxJudge c (d1.rxModem c).frames.length

/-- A frame in SEARCH: the lowest candidate that meets the criterion in 2 consecutive frames is taken, never before the
tenth frame (R284, R285, R581); the dispersion found is held within the range of R271, in 100 ps/nm (R272). -/
def Dev.rxSearchFrame (d : Dev) (c : Nat) (a : Acq) : Dev :=
  let k := d.carrier c
  let met : List Bool :=
    if d.cZr c then [(match a.cands with | m :: _ => metricGood m.1 | [] => false)]
    else (List.range 4).map fun q =>
      (match k.cands[q]? with | some m => d.searched c m | none => false) &&
        (match a.cands[q]? with | some x => metricGood x.1 | none => false)
  let runs := (List.range met.length).map fun q => if met.getD q false then k.goodMet.getD q 0 + 1 else 0
  let d1 := d.onCarrier c fun k => { k with goodMet := runs, framesIn := k.framesIn + 1 }
  let hit := if 10 ≤ k.framesIn + 1 then (List.range runs.length).find? fun q => decide (2 ≤ runs.getD q 0) else none
  match hit with
  | none => if d.cZr c then d1 else d1.locfCount c false
  | some q =>
    (d1.onCarrier c fun k =>
      { k with cd := d.cdFound c a }).enterLocked c q

/-- Limits of the loops in LOCKED (R278, R281): the sticky bit is set and the carrier leaves LOCKED. -/
def Dev.rxLimits (d : Dev) (c : Nat) (r : RxFrame) : Dev :=
  if 3500 < r.offset.natAbs then (d.setBit (aRxStat c) 7).enterSearch c
  else if 20000 ≤ r.timing.natAbs then (d.setBit (aRxStat c) 6).enterSearch c
  else d

/-- LOCF of an interop carrier is the loss of 400ZR frame alignment (R122, R290). -/
def Dev.zrAligned (d : Dev) (c : Nat) : Dev :=
  if (d.rxModem c).zrLost = (d.carrier c).raw.getLsbD 2 then d
  else if (d.rxModem c).zrLost then d.locfEnter c else d.locfExit c

/-- A frame in LOCKED. -/
def Dev.rxLockedFrame (d : Dev) (c : Nat) (r : RxFrame) : Dev :=
  let k := d.carrier c
  let bad := if metricLossy r.use then k.badMet + 1 else 0
  let d1 := d.onCarrier c fun k => { k with badMet := bad, framesIn := k.framesIn + 1, offset := r.offset }
  let d2 := if r.slips = 0 then d1 else (d1.setBit (aRxStat c) 5).count c 3 0 r.slips
  let d3 := if d.cZr c then d2.zrAligned c else d2.rxFraming c r
  if d3.rxState c ≠ rxLocked then d3
  else if 4 ≤ bad then d3.enterSearch c
  else d3.rxLimits c r

/-- A frame in RETEST: the candidate passes once it is delineated and 2 consecutive frames are good. -/
def Dev.rxRetestFrame (d : Dev) (c : Nat) (r : RxFrame) : Dev :=
  let d1 := d.rxFraming c r
  match (d1.carrier c).retestAt with
  | none => d1
  | some q => if (d1.carrier c).delin.isSome && decide (2 ≤ (d1.carrier c).locfGood) then d1.enterLocked c q else d1

/-- Clipped samples of the ADCs (R216). -/
def Dev.adcClips (d : Dev) (c n : Nat) : Dev :=
  if n = 0 then d else (d.setBit (cvtBase (c / 6) + 0x204) 0).count c 1 0 n

/-- A frame that the stages have recovered in LOCKED or RETEST; one that ended before the modem left them counts no more. -/
def Dev.recoveredFrame (d : Dev) (c : Nat) (r : RxFrame) : Dev :=
  match d.rxState c with
  | 3 => d.rxRetestFrame c r
  | 4 => d.rxLockedFrame c r
  | _ => d

/-- The samples of one carrier frame have come (R126, R171, R280, R284): `rs` are the frames that the stages have recovered, `a` what
the acquisition finds in a search. -/
def Dev.carrierFrameRx (d : Dev) (c : Nat) (rs : List RxFrame) (a : Acq) : Dev :=
  match d.rxState c with
  | 0 => d
  | 1 => if d.cZr c then d else d.locfCount c false
  | 2 => d.rxSearchFrame c a
  | _ => each rs (fun r d => d.recoveredFrame c r) d

/-- Corrected bits wrap at 2^64 with an overflow event; uncorrectable words saturate (Tables 17-3, 17-7, R556). -/
def Dev.pmCorrected (d : Dev) (c corrected uncorrectable : Nat) : Dev :=
  let v := (d.carrier c).pm.corrected + corrected
  let d1 := d.onCarrier c fun k => { k with pm := { k.pm with
    corrected := v % 2 ^ 64, wrapped := k.pm.wrapped || decide (2 ^ 64 ≤ v),
    uncorrectable := min (2 ^ 32 - 1) (k.pm.uncorrectable + uncorrectable) } }
  if 2 ^ 64 ≤ v then d1.ownerRecord ⟨.block, 0x0FFF, 8 + c / 12, 0, c, []⟩ else d1

/-- R284: a frame loss while delineation is not found, or LOCF is still raw-present. -/
def execDelineationTimeout (c : Fin 48) (s : State) : Answer :=
  .next (s.onWithSsf fun d =>
    if decide (d.rxState c = rxLocked) && !d.cZr c && ((d.carrier c).delin.isNone || (d.carrier c).raw.getLsbD 2) then
      d.enterRetest c
    else d)

/-- R286: the warm bound has passed, and the search goes on cold. -/
def execWarmSearchTimeout (c : Fin 48) (s : State) : Answer :=
  s.nextOn fun d =>
    if decide (d.rxState c = rxSearch) && (d.carrier c).warm then
      (d.onCarrier c fun k => { k with warm := false }).setBit (aRxStat c) 8
    else d

/-- R287. -/
def execRetestTimeout (c : Fin 48) (s : State) : Answer :=
  .next (s.onWithSsf fun d => if d.rxState c = rxRetest then d.retestNext c else d)

/-! Receive estimates (R293, R294). -/

/-- RX_EST_e with its value, sequence number and valid bit. -/
def Dev.setEst (d : Dev) (c e : Nat) (v : BitVec 16) (seq : Nat) (valid : Bool) : Dev :=
  d.setReg (carrBase c + 0x260 + 4 * e) (BitVec.ofNat 32 (v.toNat + seq * 2 ^ 16 + valid.toNat * 2 ^ 24))

/-- Ten times the decimal logarithm, in 0.01 dB. -/
def centiBel (q : Rat) : Rat := 1000 * Config.ln q / Config.ln 10

/-- Differential group delay between two neighbouring bins a frequency `df` apart, from the channel's matrices there: the angle
between the eigenvalues of their quotient over 2π df. -/
def binDgd (a b : Jones) (df : Rat) : Rat :=
  let m := b.mul a.inv
  let c := Config.sqrt ((m.xx.add m.yy).norm2 / (4 * Config.sqrt m.det.norm2))
  2 * Config.arg (c, Config.sqrt (1 - c * c)) / df

/-- Polarisation-dependent loss of a bin in 0.01 dB: the ratio of the singular values of the channel's matrix. -/
def binPdl (a : Jones) : Rat :=
  let h := a.adj.mul a
  let t := h.xx.re + h.yy.re
  let r := Config.sqrt (t * t - 4 * h.det.re)
  centiBel ((t + r) / (t - r))

/-- The residual dispersion that the equaliser's taps absorb, in 10 ps/nm, at most 5,000 ps/nm either way (R273). -/
def cdResidual (taps : List Jones) : Int :=
  clampInt (-500) 500 (roundQ (Config.residual (taps.map fun j =>
    [(j.xx.re, j.xx.im), (j.xy.re, j.xy.im), (j.yx.re, j.yx.im), (j.yy.re, j.yy.im)])))

/-- The eight quantities of Table 10-5 over the frames of the window in which the carrier was LOCKED, each held in its range; 0
where there were none. -/
def Dev.estimates (d : Dev) (c : Nat) : List Int :=
  let m := d.rxModem c
  if m.estLocked = 0 then List.replicate 8 0
  else
    let rate : Rat := (d.fld (carrBase c + 0x244) ⟨0, 11⟩ : Rat) * 125000000
    let n : Rat := m.estLocked
    let snr : Rat := m.estPilots / m.estNoise
    let b2b := Config.exp ((Fld.get ⟨8, 8⟩ (d.actReg (carrBase c + 0x230)) : Rat) / 100 * Config.ln 10)
    let ase := 1 / (1 / snr - 1 / b2b)
    let chan := m.taps.map Jones.inv
    let dgds := (chan.zip (chan.drop 1)).map fun p => binDgd p.1 p.2 (rate * 5 / 4 / 4096)
    let freq := m.estFreq / n
    [clampInt 0 4000 (roundQ (centiBel snr)), clampInt 0 5000 (roundQ (centiBel (ase * rate / 12500000000))),
     clampInt 0 5000 (roundQ (meanQ dgds * 10000000000000)), clampInt 0 1000 (roundQ (meanQ (chan.map binPdl))),
     clampInt (-12000) 12000 ((d.carrier c).cd + cdResidual m.taps), clampInt (-3500) 3500 (roundQ freq),
     clampInt (-28000) 28000 (4 * Fld.int ⟨0, 16⟩ (d.reg (feBase (c / 6) + 0xC0 + 4 * (c % 6))) + roundQ (4 * freq)),
     clampInt (-20000) 20000 (roundQ (m.estClock / n))]

/-- The end of an estimate window (R293): every estimate is written at once, valid when the carrier was LOCKED throughout. The OSNR
estimate reads the top of its range and is not valid when SNR comes within 0.1 dB of SNR_b2b (R294). -/
def Dev.estimateEnd (d : Dev) (c : Nat) : Dev :=
  let seq := (d.fld (carrBase c + 0x260) ⟨16, 8⟩ + 1) % 256
  let m := d.rxModem c
  let vals := d.estimates c
  let locked := decide (0 < m.estLocked ∧ m.estLocked = m.estFrames)
  let b2b := 10 * Fld.get ⟨8, 8⟩ (d.actReg (carrBase c + 0x230))
  let high := decide ((b2b : Int) ≤ vals.getD 0 0 + 10)
  let d1 := each (List.range 8) (fun e d =>
    if e = 1 ∧ high then d.setEst c e 5000#16 seq false
    else d.setEst c e (BitVec.ofInt 16 (vals.getD e 0)) seq locked) d
  d1.onRxm c fun m => { m with estFrames := 0, estLocked := 0, estNoise := 0, estPilots := 0, estFreq := 0, estClock := 0 }

def execEstimateWindowEnd (c : Fin 48) (s : State) : Answer :=
  s.nextOn fun d => if d.rxState c = rxIdle then d else d.estimateEnd c

/-! Loss of light (R142). -/

/-- Mean square of a constant code of +127 (R216), in the unit of LOLI_INTERVAL, 1/65,536 code². -/
def fullScale : Nat := 16129 * 65536

/-- The mean square lies below the threshold of thr × 0.5 dB below full scale. -/
def belowThr (thr ms : Nat) : Bool := decide (ms ^ 20 * 10 ^ thr < fullScale ^ 20)

/-- The mean square lies 1 dB or more above the threshold. -/
def aboveThr (thr ms : Nat) : Bool := decide (fullScale ^ 20 * 10 ^ 2 ≤ ms ^ 20 * 10 ^ thr)

/-- One 1 µs interval. -/
def Dev.loliInterval (d : Dev) (c ms : Nat) : Dev :=
  let thr := d.actFld 0x100020 ⟨0, 7⟩
  let k := d.carrier c
  let low := if belowThr thr ms then k.loliLow + 1 else 0
  let high := if aboveThr thr ms then k.loliHigh + 1 else 0
  let d1 := d.onCarrier c fun k => { k with loliLow := min low 2, loliHigh := min high 10000 }
  if !k.raw.getLsbD 0 then (if 2 ≤ low then d1.loliEnter c else d1)
  else if 10000 ≤ high ∨ (k.loliFirst ∧ 2 ≤ high) then
    (d1.onCarrier c fun k => { k with loliFirst := false }).loliExit c
  else d1

def execLoliInterval (c : Fin 48) (meanSquare : Nat) (s : State) : Answer :=
  .next (s.onWithSsf fun d => if d.cEnabled c && !d.carrDead c then d.loliInterval c meanSquare else d)

end Sys2Proof.Machine
end

