-- ==== Sys2Proof/Machine/Crosshatch.lean ====
section
/-!
DEFINITION. Crosshatch (chapter 11): coefficient banks and their headers, bank swaps on both sides, neighbour status and
blind refinement.
-/
namespace Sys2Proof.Machine
open RegMap

/-! Banks (R306 to R309). A direction is `false` for transmit, `true` for receive. -/

def aTxb (c : Nat) : Nat := xhBase c + 0x10
def aTxt (c : Nat) : Nat := xhBase c + 0x14
def aRxb (c : Nat) : Nat := xhBase c + 0x20
def aXhStat (c : Nat) : Nat := xhBase c + 0x30
def aXhCbmf (c : Nat) : Nat := xhBase c + 0x34
def aXhTrim (c e : Nat) : Nat := xhBase c + 0x40 + 4 * e

/-- XH_TXB or XH_RXB. -/
def aXb (c : Nat) (rx : Bool) : Nat := if rx then aRxb c else aTxb c

/-- The header registers of the inactive bank and of the bank in use. -/
def aHdrInactive (c : Nat) (rx : Bool) : Nat := xhBase c + if rx then 0x24 else 0x18
def aHdrActive (c : Nat) (rx : Bool) : Nat := xhBase c + if rx then 0x28 else 0x1C

/-- The index of the bank in use. -/
def Dev.xhAct (d : Dev) (c : Nat) (rx : Bool) : Nat := d.fld (aXb c rx) ⟨0, 1⟩

/-- The key of a bank word. -/
def bankKey (c : Nat) (rx : Bool) (bank i : Nat) : Nat := ((2 * c + rx.toNat) * 2 + bank) * 4096 + i

def Dev.bankWord (d : Dev) (c : Nat) (rx : Bool) (bank i : Nat) : Word := SMap.get d.banks (bankKey c rx bank i) 0

def Dev.setBankWord (d : Dev) (c : Nat) (rx : Bool) (bank i : Nat) (w : Word) : Dev :=
  { d with banks := SMap.put d.banks (bankKey c rx bank i) 0 w }

/-- One term of a table passes R308. -/
def termOk (w1 : Word) : Bool :=
  let kind := Fld.get ⟨0, 3⟩ w1
  let m := Fld.int ⟨3, 12⟩ w1
  let k := Fld.int ⟨15, 12⟩ w1
  decide (Fld.get ⟨27, 5⟩ w1 = 0) &&
    (if kind = 0 then decide (m.natAbs ≤ 511 ∧ k.natAbs ≤ 511 ∧ (m + k).natAbs ≤ 511)
     else decide (kind ≤ 4) && decide (k = 0))

/-- The table check of a bank under header `h` (R308). -/
def Dev.bankCheck (d : Dev) (c : Nat) (rx : Bool) (bank : Nat) (h : Word) : Bool :=
  decide (Fld.get ⟨0, 12⟩ h ≤ 2048 ∧ Fld.get ⟨16, 7⟩ h ≤ 64 ∧ Fld.get ⟨23, 3⟩ h ≤ 5) &&
    (List.range (Fld.get ⟨0, 12⟩ h)).all fun i => termOk (d.bankWord c rx bank (2 * i + 1))

/-- The inactive bank passes the check under its header. -/
def Dev.inactiveOk (d : Dev) (c : Nat) (rx : Bool) (h : Word) : Bool := d.bankCheck c rx (1 - d.xhAct c rx) h

/-- The two banks of a direction change roles, with their headers. -/
def Dev.bankToggle (d : Dev) (c : Nat) (rx : Bool) : Dev :=
  let hi := d.reg (aHdrInactive c rx)
  let ha := d.reg (aHdrActive c rx)
  ((d.setFld (aXb c rx) ⟨0, 1⟩ (1 - d.xhAct c rx)).setReg (aHdrInactive c rx) ha).setReg (aHdrActive c rx) hi

/-! Transmit side (R310 to R313). -/

/-- A transmit swap is armed: writes to the inactive bank, XH_TXH, XH_TXT and XH_TXB are rejected (R311). -/
def Dev.xhTxArmed (d : Dev) (c : Nat) : Bool := d.bit (aTxb c) 1

/-- XH_TXB after a write of `data`: an arm is checked for the table and for its lead (R310). -/
def Dev.xhTxbWritten (d : Dev) (c : Nat) (data : Word) : Dev :=
  if !data.getLsbD 1 then d
  else
    let refused := !d.inactiveOk c false (d.reg (aHdrInactive c false))
    let late := !leadOk 4 (d.reg (aTxt c)) (d.reg (aXhCbmf c)) || decide (d.cState c ≠ csRun)
    let d1 := if refused then d.setBit (aTxb c) 3 else d
    let d2 := if late then d1.setBit (aTxb c) 4 else d1
    if refused || late then
      (d2.setBit (aTxb c) 1 false).event (if refused then .xhArmRefused else .xhArmLate) (8 + c / 12) c
    else d2

/-- The transmit bank changes at the first symbol of band multiframe XH_TXT (R312). -/
def Dev.xhTxSwap (d : Dev) (c : Nat) : Dev :=
  if d.xhTxArmed c && decide (d.reg (aXhCbmf c) = d.reg (aTxt c)) then
    (d.setBit (aTxb c) 1 false).bankToggle c false
  else d

def execXhTxSwap (c : Fin 48) (s : State) : Answer := s.nextOn fun d => d.xhTxSwap c

/-- The bank in use and its header are copied into the inactive bank (R309, Table 11-4). -/
def Dev.xhCopyDone (d : Dev) (c : Nat) (rx : Bool) : Dev :=
  if d.bit (aXb c rx) 2 then
    let a := d.xhAct c rx
    let d1 := each (List.range 4096) (fun i d => d.setBankWord c rx (1 - a) i (d.bankWord c rx a i)) d
    (d1.setReg (aHdrInactive c rx) (d.reg (aHdrActive c rx))).setBit (aXb c rx) 2 false
  else d

def execXhCopyDone (c : Fin 48) (dir : Dir) (s : State) : Answer := s.nextOn fun d => d.xhCopyDone c (dir = .rx)

/-! Receive side (R314 to R319). -/

/-- A far announcement is armed: writes to the inactive bank and XH_RXH are rejected (R314). -/
def Dev.xhRxArmed (d : Dev) (c : Nat) : Bool := d.bit (aRxb c) 1

/-- XH_STAT.rsusp follows its causes: not LOCKED, no accepted block since lock, or a bank in use that is not loaded. -/
def Dev.suspUpdate (d : Dev) (c : Nat) : Dev :=
  d.setSusp c (decide (d.rxState c ≠ rxLocked) || (d.carrier c).xhFirst || (d.carrier c).xhStop)

/-- The bank in use from now on is judged by its ld (R318). -/
def Dev.bankInUse (d : Dev) (c : Nat) : Dev :=
  if d.bit (aHdrActive c true) 31 then (d.onCarrier c fun k => { k with xhStop := false }).suspUpdate c
  else (((d.onCarrier c fun k => { k with xhStop := true }).setBit (aRxb c) 4).event .noBank (8 + c / 12) c).suspUpdate c

/-- All five trims return to 1.0 (R330). -/
def Dev.trimsReset (d : Dev) (c : Nat) : Dev :=
  (each (List.range 5) (fun e d => d.setReg (aXhTrim c e) 0x4000#32) d).onCarrier c fun k => { k with oldTrims := [] }

/-- A receive bank change (R315, R318, R330). The block that straddles it arms nothing by itself. -/
def Dev.xhRxChange (d : Dev) (c : Nat) : Dev :=
  let d1 := ((d.setBit (aRxb c) 1 false).bankToggle c true).onCarrier c fun k =>
    { k with xhSeen := none, xhAt := none, xhLate := none, xhDiff := 0 }
  (d1.trimsReset c).bankInUse c

/-- R315: at the first symbol of the received band multiframe numbered xh_at. -/
def execXhRxSwap (c : Fin 48) (s : State) : Answer :=
  s.nextOn fun d =>
    if (d.carrier c).xhAt.isSome && (d.carrier c).xhLate.isNone then d.xhRxChange c else d

/-- R316: a late change sets XH_RXB.late, and raises an event when the receiver was not armed. -/
def execXhRxLateSwap (c : Fin 48) (s : State) : Answer :=
  s.nextOn fun d => match (d.carrier c).xhLate with
    | none => d
    | some ev =>
      let d1 := (d.xhRxChange c).setBit (aRxb c) 3
      if ev then d1.event .receiveLate (8 + c / 12) c else d1

/-- What the Crosshatch fields of an accepted block do (R314, R316, R319). -/
def Dev.xhBlock (d : Dev) (c : Nat) (b : Boh) : Dev :=
  let k := d.carrier c
  let d1 := if !k.xhFirst then d
    else
      let d' := d.onCarrier c fun k => { k with xhFirst := false }
      if b.xhBank = decide (d.xhAct c true = 1) then d'.bankInUse c else d'.xhRxChange c
  let seen := if b.xhPend then some b.xhAt else none
  let d2 := d1.onCarrier c fun k => { k with xhSeen := seen }
  let d3 :=
    if b.xhPend then
      if k.xhSeen = some b.xhAt then
        (d2.setBit (aRxb c) 1).onCarrier c fun k =>
          { k with xhAt := some b.xhAt, xhDiff := 0, xhLate := if newer b.xhAt b.cbmf then k.xhLate else some false }
      else d2
    else
      let gone := match k.xhAt with | some t => newer t b.cbmf | none => false
      if gone then (d2.setBit (aRxb c) 1 false).onCarrier c fun k => { k with xhAt := none, xhLate := none } else d2
  if (d3.carrier c).xhAt.isSome then d3
  else if b.xhBank = decide (d3.xhAct c true = 1) then d3.onCarrier c fun k => { k with xhDiff := 0 }
  else
    let d4 := d3.onCarrier c fun k => { k with xhDiff := k.xhDiff + 1 }
    if 2 ≤ (d4.carrier c).xhDiff then d4.onCarrier c fun k => { k with xhLate := some true } else d4

/-- A write to an entry of the inactive receive bank clears XH_RXH.ld (R317). -/
def Dev.rxEntryWritten (d : Dev) (c i : Nat) (w : Word) : Dev :=
  (d.setBankWord c true (1 - d.xhAct c true) i w).setBit (aHdrInactive c true) 31 false

/-- An XH_RXH write is rejected: it sets ld for a bank that fails the table check (R317). -/
def Dev.rxhBad (d : Dev) (c : Nat) (w : Word) : Bool := w.getLsbD 31 && !d.inactiveOk c true w

/-- XH_RXA after a write: ld of the bank in use set ends a suspension by R318. -/
def Dev.rxaWritten (d : Dev) (c : Nat) : Dev :=
  if d.bit (aHdrActive c true) 31 then (d.onCarrier c fun k => { k with xhStop := false }).suspUpdate c else d

/-- An XH_TRIM_e write is rejected: refinement is enabled, or the magnitude lies outside 0.5 to 1.5 (R330). -/
def Dev.trimBad (d : Dev) (c : Nat) (w : Word) : Bool :=
  let n := (Fld.int ⟨0, 16⟩ w) ^ 2 + (Fld.int ⟨16, 16⟩ w) ^ 2
  (d.actReg (xhBase c)).getLsbD 2 || !decide (8192 ^ 2 ≤ n ∧ n ≤ 24576 ^ 2)

/-! Neighbours (R320 to R323, Table 11-3). -/

/-- The neighbour slots in force in a direction. -/
def Dev.slotsInForce (d : Dev) (c : Nat) (rx : Bool) : List (Nat × Nat × Nat) :=
  let w (a : Nat) := if rx then d.actRxReg a else d.actReg a
  nbSlots (w (xhBase c + 4)) (w (xhBase c + 8))

/-- A remote summary stream of carrier `u` of package `k` is present (R327); without a formed band set none is. -/
def Dev.streamPresent (d : Dev) (k u : Nat) (rx : Bool) : Bool :=
  d.bit 0x1C00008 0 && d.bs.streams.contains (k, rx, u)

/-- A neighbour slot is present in a direction. -/
def Dev.nbPresent (d : Dev) (c slot : Nat) (rx : Bool) : Bool :=
  match (d.slotsInForce c rx).getD slot (0, 0, 0) with
  | (1, u, _) =>
    let st := d.cState u
    !(d.die (8 + u / 12)).lost && !(d.die (u / 6)).lost &&
      decide (st = csRampUp ∨ st = csRun ∨ st = csRampDown) && (!rx || decide (d.rxState u = rxLocked))
  | (2, u, k) => d.streamPresent k u rx
  | _ => false

/-- The bit of a slot in XH_STAT.txmiss or rxmiss. -/
def missBit (slot : Nat) (rx : Bool) : Nat := slot + if rx then 4 else 0

/-- R323. -/
def Dev.neighbourChange (d : Dev) (c slot : Nat) (rx : Bool) : Dev :=
  let miss := !d.nbPresent c slot rx
  if d.bit (aXhStat c) (missBit slot rx) = miss then d
  else (d.setBit (aXhStat c) (missBit slot rx) miss).event .neighbour (8 + c / 12) c [missBit slot rx, miss.toNat]

def execNeighbourChange (c : Fin 48) (dir : Dir) (slot : Fin 4) (s : State) : Answer :=
  s.nextOn fun d => d.neighbourChange c slot (dir = .rx)

/-! Blind refinement (R329, R330). -/

/-- A trim lies within its limits: magnitude 0.5 to 1.5, phase within ±0.5 rad (tan 0.5 = 0.546302). -/
def trimInLimits (w : Word) : Bool :=
  let re := Fld.int ⟨0, 16⟩ w
  let im := Fld.int ⟨16, 16⟩ w
  let n := re ^ 2 + im ^ 2
  decide (8192 ^ 2 ≤ n ∧ n ≤ 24576 ^ 2) && decide (0 < re) && decide (1000000 * (im.natAbs : Int) ≤ 546302 * re)

/-- A step from one trim to another is at most 0.01 in magnitude (163.84 units) and 0.01 rad in phase (tan 0.01 = 0.010000333). -/
def trimStepOk (old new : Word) : Bool :=
  let a := Fld.int ⟨0, 16⟩ old
  let b := Fld.int ⟨16, 16⟩ old
  let x := Fld.int ⟨0, 16⟩ new
  let y := Fld.int ⟨16, 16⟩ new
  let n := a ^ 2 + b ^ 2
  let m := x ^ 2 + y ^ 2
  let gap := n + m - 26843
  let re := x * a + y * b
  let im := y * a - x * b
  decide (gap ≤ 0 ∨ gap ^ 2 ≤ 4 * n * m) && decide (0 < re ∧ 1000000000 * (im.natAbs : Int) ≤ 10000333 * re)

/-- One trim moves; one that would leave its limits is clamped to a free value within them (log entry 34) and sets
XH_STAT.tclamp. -/
def Dev.trimMove (d : Dev) (c e : Nat) (w : Word) : Dev :=
  if trimInLimits w then d.setReg (aXhTrim c e) w
  else
    let (v, d1) := d.fresh
    let x : Word := v.setWidth 32
    (if trimInLimits x then d1.setReg (aXhTrim c e) x else d1).setBit (aXhStat c) 9

/-- Firmware moves the five trims of a carrier whose refinement is enabled, each where the move is small enough; `snr` is the mean
pilot SNR of the second before, in 0.01 dB. -/
def Dev.refinementStep (d : Dev) (c : Nat) (moves : List Word) (snr : Nat) : Dev :=
  if (d.actReg (xhBase c)).getLsbD 2 && (d.carrier c).oldTrims.isEmpty then
    let old := (List.range 5).map fun e => d.reg (aXhTrim c e)
    let d1 := d.onCarrier c fun k => { k with oldTrims := old, snrBefore := snr }
    each (List.range 5) (fun e d =>
      let now := d.reg (aXhTrim c e)
      let next := moves.getD e now
      if trimStepOk now next then d.trimMove c e next else d) d1
  else d

/-- The step is kept unless the SNR fell by more than 0.05 dB. -/
def Dev.refinementEvaluation (d : Dev) (c snr : Nat) : Dev :=
  let k := d.carrier c
  if k.oldTrims.isEmpty then d
  else
    let d1 := d.onCarrier c fun k => { k with oldTrims := [] }
    if snr + 5 < k.snrBefore then
      (each (List.range 5) (fun e d => d.setReg (aXhTrim c e) (k.oldTrims.getD e 0x4000#32)) d1).count c 8 0 1
    else d1

def execRefinementStep (c : Fin 48) (moves : List Word) (snr : Nat) (s : State) : Answer :=
  s.nextOn fun d => d.refinementStep c moves snr

def execRefinementEvaluation (c : Fin 48) (snr : Nat) (s : State) : Answer :=
  s.nextOn fun d => d.refinementEvaluation c snr

end Sys2Proof.Machine
end

