-- ==== Sys2Proof/Machine/Perturb.lean ====
section
/-!
DEFINITION. The perturbation that Crosshatch computes from symbols (R299 to R304, R326): self terms, neighbour terms over blocks of
symbols, and edge summaries (R325). Transmit pre-distortion and receive cancellation share it.
-/
namespace Sys2Proof.Machine
open RegMap

/-- Symbols of one carrier: the instant of symbol 0 and the symbol period in ns, the number of the first one held, and those held. -/
structure SymStream where
  start : Rat
  period : Rat
  first : Int
  syms : List Pol

/-- Symbol `n`, zero where it is not held. -/
def SymStream.sym (s : SymStream) (n : Int) : Pol := if n < s.first then {} else s.syms.getD (n - s.first).toNat {}

/-- The symbols held whose instants fall within a time interval. -/
def SymStream.within (s : SymStream) (t0 t1 : Rat) : List Pol :=
  let lo := ((t0 - s.start) / s.period).ceil
  let hi := ((t1 - s.start) / s.period).ceil
  (List.range (hi - lo).toNat).filterMap fun (i : Nat) =>
    let n : Int := lo + (i : Int)
    if s.first ≤ n ∧ n < s.first + s.syms.length then some (s.sym n) else none

/-- The instant at which the symbols held end. -/
def SymStream.until (s : SymStream) : Rat := s.start + s.period * (s.first + s.syms.length : Int)

/-- Symbol period of carrier `c` in ns at a rate in 0.125 GBd; 59.84375 GBd in the interoperable mode (R201). -/
def symPeriod (zr : Bool) (rate : Nat) : Rat := if zr then 32 / 1915 else 8 / (rate : Rat)

/-- What a block of a neighbour comes to (R301). -/
structure BlockMean where
  ax : Rat := 0
  ay : Rat := 0
  k : Cx := {}

def Cx.mean (l : List Cx) : Cx := if l = [] then {} else (Cx.sum l).scale (1 / (l.length : Rat))

/-- Ax, Ay and K of a list of symbols. -/
def blockMean (l : List Pol) : BlockMean :=
  ⟨meanQ (l.map fun s => 2 * s.x.norm2 + s.y.norm2), meanQ (l.map fun s => 2 * s.y.norm2 + s.x.norm2),
   Cx.mean (l.map fun s => s.x.mul s.y.conj)⟩

/-- The ramp attenuation in force as a factor of power, 10^(−a/10) (Table 11-3). -/
def Dev.rampFactor (d : Dev) (c : Nat) : Rat :=
  if (d.carrier c).level = 64 then 1 else Config.exp (-(d.attenuation c : Rat) / 1000 * Config.ln 10)

def BlockMean.scale (q : Rat) (b : BlockMean) : BlockMean := ⟨q * b.ax, q * b.ay, b.k.scale q⟩

/-- Samples of a remote carrier in an interval of time, in ns of band-set time counted in 250 ps (R326): the mean of those that
have arrived, else of the last 1,024. -/
def Dev.remoteMean (d : Dev) (k u : Nat) (rx : Bool) (t0 t1 : Rat) : Rat :=
  let all := SMap.get d.bs.samples (128 * k + 64 * rx.toNat + u) []
  let hit := all.filter fun e => decide (4 * t0 ≤ (e.1 : Rat) ∧ (e.1 : Rat) < 4 * t1)
  let use := if hit = [] then all.take 1024 else hit
  meanQ (use.map fun e => (e.2 : Rat) / 32)

/-- XH_ROFS of a direction, in ns. -/
def Dev.remoteOffset (d : Dev) (c : Nat) (rx : Bool) : Rat :=
  if rx then (Fld.int ⟨16, 16⟩ (d.actRxReg (xhBase c + 0x2C)) : Rat) / 10
  else (Fld.int ⟨0, 16⟩ (d.actReg (xhBase c + 0x2C)) : Rat) / 10

/-- The transmit modem runs the interoperable mode, which a carrier that ramps down keeps (R201, R209). -/
def Dev.txZr (d : Dev) (c : Nat) : Bool :=
  match (d.carrier c).prev with | some (_, _, _, z) => z | none => d.cZr c

/-- The symbols of a local carrier in a direction: those it sends, or its receive modem's tentative decisions (R302, R303). -/
def Dev.symStream (d : Dev) (u : Nat) (rx : Bool) : SymStream :=
  if rx then ⟨(d.rxModem u).decidedAt, symPeriod (d.cZr u) (d.fld (carrBase u + 0x244) ⟨0, 11⟩), 0, (d.rxModem u).decided⟩
  else let m := d.txModem u; ⟨m.start, symPeriod (d.txZr u) m.rate, m.first, m.syms⟩

/-- How far band-set time stands ahead of the capture-island time, in ns (R375). -/
def Dev.bandShift (d : Dev) : Rat := (d.bs.time.toNat : Rat) / 4 + (d.bs.frac : Rat) / 1000 - (d.time : Rat)

/-- What the neighbour in `slot` contributes over an interval of time of carrier `c`; a missing one nothing (R322, R323). -/
def Dev.neighbourBlock (d : Dev) (c slot : Nat) (rx : Bool) (t0 t1 : Rat) : BlockMean :=
  if d.bit (aXhStat c) (missBit slot rx) then {}
  else match (d.slotsInForce c rx).getD slot (0, 0, 0) with
  | (1, u, _) =>
    let b := blockMean ((d.symStream u rx).within t0 t1)
    if rx then b else b.scale (d.rampFactor u)
  | (2, u, k) =>
    let o := d.remoteOffset c rx - d.bandShift
    let s := d.remoteMean k u rx (t0 - o) (t1 - o)
    ⟨3 * s / 2, 3 * s / 2, {}⟩
  | _ => {}

/-- One term of a coefficient table. -/
structure Term where
  kind : Nat
  m : Int
  k : Int
  c : Cx

/-- The bank in use of a direction, with its header (R306, R309). -/
def Dev.bankHead (d : Dev) (c : Nat) (rx : Bool) : Nat × Word := (d.xhAct c rx, d.reg (aHdrActive c rx))

/-- Term `i` of a bank with its header (R307), on receive with its trim (R304). -/
def Dev.term (d : Dev) (c : Nat) (rx : Bool) (b : Nat × Word) (i : Nat) : Term :=
  let w0 := d.bankWord c rx b.1 (2 * i)
  let w1 := d.bankWord c rx b.1 (2 * i + 1)
  let kind := Fld.get ⟨0, 3⟩ w1
  let s : Rat := 1 / (2 ^ (15 + Fld.get ⟨12, 3⟩ b.2) : Nat)
  let v : Cx := ⟨(Fld.int ⟨0, 16⟩ w0 : Rat) * s, (Fld.int ⟨16, 16⟩ w0 : Rat) * s⟩
  let t := d.reg (aXhTrim c kind)
  let trim : Cx := ⟨(Fld.int ⟨0, 16⟩ t : Rat) / 16384, (Fld.int ⟨16, 16⟩ t : Rat) / 16384⟩
  ⟨kind, Fld.int ⟨3, 12⟩ w1, Fld.int ⟨15, 12⟩ w1, if rx then v.mul trim else v⟩

/-- What a self term adds to symbol `n` (R300). -/
def selfTerm (s : SymStream) (n : Int) (t : Term) : Pol :=
  let a := s.sym (n + t.m)
  let b := s.sym (n + t.m + t.k)
  let v := s.sym (n + t.k)
  let p := (a.x.mul b.x.conj).add (a.y.mul b.y.conj)
  ⟨t.c.mul (p.mul v.x), t.c.mul (p.mul v.y)⟩

/-- What a neighbour term adds to symbol `n`, which lies in block n / 2^ndec (R301). -/
def Dev.neighbourTerm (d : Dev) (c : Nat) (rx : Bool) (s : SymStream) (ndec : Nat) (n : Int) (t : Term) : Pol :=
  let size : Int := (2 : Int) ^ ndec
  let j := n / size + t.m
  let at_ (i : Int) : Rat := s.start + s.period * (i * size : Int)
  let q := d.neighbourBlock c (t.kind - 1) rx (at_ j) (at_ (j + 1))
  let v := s.sym n
  ⟨t.c.mul ((v.x.scale q.ax).add (q.k.mul v.y)), t.c.mul ((v.y.scale q.ay).add (q.k.conj.mul v.x))⟩

/-- The perturbation Δ of symbol `n` under a bank of a direction. -/
def Dev.perturbation (d : Dev) (c : Nat) (rx : Bool) (b : Nat × Word) (s : SymStream) (n : Int) : Pol :=
  (List.range (Fld.get ⟨0, 12⟩ b.2)).foldl (fun acc i =>
    let t := d.term c rx b i
    acc.add (if t.kind = 0 then selfTerm s n t else d.neighbourTerm c rx s (Fld.get ⟨23, 3⟩ b.2) n t)) {}

/-- The share of the correction that a direction makes: split at the transmitter, 64 − split at the receiver (R302, R303). -/
def xhShare (rx : Bool) (b : Nat × Word) : Rat :=
  let s := Fld.get ⟨16, 7⟩ b.2
  if rx then (64 - (s : Rat)) / 64 else (s : Rat) / 64

/-- Symbols a carrier has no blocks of: each block of a frame without a neighbour's terms counts (R323, Table 17-5). -/
def Dev.countMissing (d : Dev) (c : Nat) (rx : Bool) (b : Nat × Word) : Dev :=
  each (List.range 4) (fun slot d =>
    if d.bit (aXhStat c) (missBit slot rx) then d.count c 5 slot (131072 / 2 ^ Fld.get ⟨23, 3⟩ b.2) else d) d

/-! Edge summaries (R325). -/

/-- One sample: 32 times the mean of |x|² + |y|² over an interval of 250 ps, at most 255; `f` is the ramp factor. -/
def summarySample (f : Rat) (l : List Pol) : Byte :=
  BitVec.ofNat 8 (min 255 (roundQ (32 * (f * meanQ (l.map Pol.norm2)))).toNat)

/-- The 36 samples of local carrier `u` that begin at band-set time `t`, in 250 ps. -/
def Dev.summarySamples (d : Dev) (u : Nat) (rx : Bool) (t : Nat) : List Byte :=
  let s := d.symStream u rx
  let at_ (i : Nat) : Rat := ((t + i : Nat) : Rat) / 4 - d.bandShift
  (List.range 36).map fun (i : Nat) => summarySample (if rx then 1 else d.rampFactor u) (s.within (at_ i) (at_ (i + 1)))

end Sys2Proof.Machine
end

