-- ==== Sys2Proof/Machine/Cells.lean ====
section
/-!
DEFINITION. What a Registration link sends (R361 to R364): messages put into cells and queued, summary cells formed from the
symbols of local carriers (R325, R363), and the blocks of 116 cells that follow each other on a link.
-/
namespace Sys2Proof.Machine
open RegMap

def aRlCfg : Nat := 0x1C00000
def aRlSet : Nat := 0x1C00008
def aRlLink (j : Nat) : Nat := 0x1C00010 + 4 * j

/-- RL_CFG.k, RL_SET.formed, leader and members. -/
def Dev.ownPkg (d : Dev) : Nat := d.fld aRlCfg ⟨0, 2⟩
def Dev.formed (d : Dev) : Bool := d.bit aRlSet 0
def Dev.leaderPkg (d : Dev) : Nat := d.fld aRlSet ⟨1, 2⟩
def Dev.isMember (d : Dev) (k : Nat) : Bool := d.formed && d.bit aRlSet (4 + k)

/-- States of RL_LINK_j (Table 13-4). -/
def lsDown : Nat := 0
def lsTraining : Nat := 1
def lsAligning : Nat := 2
def lsUp : Nat := 3
def lsIdle : Nat := 4

def Dev.lState (d : Dev) (j : Nat) : Nat := d.fld (aRlLink j) ⟨0, 3⟩

def onBs (f : BandSet → BandSet) (d : Dev) : Dev := { d with bs := f d.bs }

/-- The link to package `k` (R357); 3 for the package itself, which has none. -/
def Dev.linkTo (d : Dev) (k : Nat) : Nat := (k + 3 - d.ownPkg) % 4

/-- A lane of a link sends symbols, coded on from its running disparity (R357). -/
def Dev.sendLane (d : Dev) (j lane : Nat) (syms : List LinkSym) : Dev :=
  let r := codeLane ((d.link j).rdPlus.contains lane) syms
  (d.onLink j fun l =>
    let rest := l.rdPlus.filter (· ≠ lane)
    { l with rdPlus := if r.2 then lane :: rest else rest }).emit (.lane j lane r.1)

/-- All eight lanes send, each its own symbols. -/
def Dev.sendLanes (d : Dev) (j : Nat) (lanes : List (List LinkSym)) : Dev :=
  each lanes.zipIdx (fun p d => d.sendLane j p.2 p.1) d

/-- A training frame (R365). -/
def trainingSyms (request status : Byte) : List LinkSym :=
  [.marker, .data request, .data status] ++ List.replicate 13 (.data 0x4A)

/-! Messages (Table 13-2). Their fields follow each other in the order in which the table names them, each in its own bytes, most
significant byte first; STATE is laid out by Tables 13-6 and 13-7 (log entry 110). -/

def LinkMsg.type : LinkMsg → Byte
  | .hello _ => 0x01 | .epochReq _ => 0x02 | .epochSet _ _ => 0x03 | .cfgSyncReq => 0x04 | .cfgSync _ _ => 0x04 | .time => 0x05
  | .state _ => 0x06 | .sumReq _ => 0x07 | .ctx _ => 0x08 | .grant => 0x09 | .busy => 0x0A | .sumAck => 0x0B | .ctxAck _ _ _ => 0x0C

def carsBytes (cs : List (Fin 48)) : List Byte := bytesOf 1 cs.length ++ cs.map fun c => BitVec.ofNat 8 c.val

def sumReqBytes (r : SumReq) : List Byte := bytesOf 1 r.pkg ++ bytesOf 1 r.named ++ carsBytes r.tx ++ carsBytes r.rx

def pairBytes (p : Pair) : List Byte :=
  bytesOf 1 p.pkg ++ bytesOf 2 p.flow ++ bytesOf 1 p.role.toNat ++ bytesOf 1 p.peerPkg ++ bytesOf 2 p.peerFlow ++
    bytesOf 2 p.holdoff ++ bytesOf 2 p.slots

def sharedBytes (s : Shared) : List Byte :=
  bytesOf 2 s.reqs.length ++ s.reqs.flatMap sumReqBytes ++ bytesOf 2 s.pairs.length ++ s.pairs.flatMap pairBytes ++
    bytesOf 4 s.seq.toNat

/-- A flow entry (Table 13-7). -/
def entryBytes (e : StateEntry) : List Byte :=
  bytesOf 2 e.flow ++ bytesOf 2 e.peer ++
    [BitVec.ofNat 8 (ofBits [e.inForce, e.ready, e.nak, e.req, e.act, e.role]), e.defect] ++ bytesOf 2 0

/-- A STATE message (Table 13-6). -/
def stateBytes (m : StateMsg) : List Byte :=
  bytesOf 4 m.epoch.toNat ++ m.rxs ++ bytesOf 2 m.entries.length ++ bytesOf 2 0 ++ m.entries.flatMap entryBytes

/-- The sequence number of the last cell of a type received on link `j`, which an answer echoes. -/
def Dev.heardSeq (d : Dev) (j ty : Nat) : Nat := SMap.get (d.link j).lastSeq ty 0

/-- The content of a message on link `j`. TIME carries the send time of the package's last one and the receive time of the
last one that came. -/
def Dev.msgBytes (d : Dev) (j : Nat) : LinkMsg → List Byte
  | .hello h => bytesOf 1 h.k ++ bytesOf 2 h.ver.toNat ++ bytesOf 1 h.en.toNat ++ bytesOf 8 h.ident.toNat ++
      bytesOf 4 h.epoch.toNat ++ bytesOf 1 h.view.toNat ++ bytesOf 4 h.seq.toNat
  | .epochReq k => bytesOf 1 k
  | .epochSet e s => bytesOf 4 e.toNat ++ sharedBytes s
  | .cfgSyncReq => bytesOf 1 0
  | .cfgSync e s => bytesOf 1 1 ++ bytesOf 4 e.toNat ++ sharedBytes s
  | .time => bytesOf 8 (d.link j).timeSent.toNat ++ bytesOf 8 (d.link j).timeHeard.toNat
  | .state m => stateBytes m
  | .sumReq r => carsBytes r.tx ++ carsBytes r.rx
  | .ctx record => record
  | .grant => bytesOf 2 (d.heardSeq j 0x02)
  | .busy => bytesOf 2 (d.heardSeq j 0x02)
  | .sumAck => bytesOf 2 (d.heardSeq j 0x07)
  | .ctxAck f dir ok => bytesOf 2 f ++ bytesOf 1 (decide (dir = .rx)).toNat ++ bytesOf 1 ok.toNat

/-- The payloads of a message: 80 bytes each, the last filled with zeros. -/
def payloads (bs : List Byte) : List (List Byte) :=
  let n := (bs.length + 79) / 80
  (pieces 80 (max 1 n) (bs ++ List.replicate (80 * max 1 n - bs.length) 0)).1

/-- The cells of a message; the first and the last are flagged (Table 13-1). -/
def messageCells (ty : Byte) (bs : List Byte) : List CellBody :=
  let ps := payloads bs
  ps.zipIdx.map fun p => ⟨ty, BitVec.ofNat 8 ((decide (p.2 = 0)).toNat + 2 * (decide (p.2 + 1 = ps.length)).toNat), p.1⟩

/-- The cells of a message wait on link `j`. A link that carries none, nor will without training, takes none (log entry 110). -/
def Dev.queueMsg (d : Dev) (j : Nat) (m : LinkMsg) : Dev :=
  if j < 3 ∧ (d.lState j = lsUp ∨ d.lState j = lsAligning ∨ d.lState j = lsIdle) then
    let d1 := d.onLink j fun l => { l with cells := l.cells ++ messageCells m.type (d.msgBytes j m) }
    if m = .time then d1.onLink j fun l => { l with timeSent := d.bs.time } else d1
  else d

/-- A message on link `j`, and one to package `k`. -/
def Dev.sendLink (d : Dev) (j : Nat) (m : LinkMsg) : Dev := (d.queueMsg j m).emit (.link j m)
def Dev.sendPkg (d : Dev) (k : Nat) (m : LinkMsg) : Dev := (d.queueMsg (d.linkTo k) m).emit (.toPkg k m)

/-! Summary cells (R325, R327, R363). -/

/-- The source carrier of a summary is lit (transmit) or LOCKED (receive). -/
def Dev.summaryValid (d : Dev) (u : Nat) (rx : Bool) : Bool :=
  let st := d.cState u
  decide (st = csRampUp ∨ st = csRun ∨ st = csRampDown) && (!rx || decide (d.rxState u = rxLocked))

/-- The summary cell of the carriers `cs` from time `t` on. -/
def Dev.summaryCell (d : Dev) (rx : Bool) (cs : List (Fin 48)) (t : Nat) : CellBody :=
  let one (i : Nat) : Bool × List Byte := match cs[i]? with
    | some u => if d.summaryValid u rx then (true, d.summarySamples u rx t) else (false, List.replicate 36 0)
    | none => (false, List.replicate 36 0)
  let a := one 0
  let b := one 1
  ⟨0x10, BitVec.ofNat 8 (rx.toNat + 4 * a.1.toNat + 8 * b.1.toNat), bytesOf 8 t ++ a.2 ++ b.2⟩

/-- The samples from time `t` on can be formed: their interval has ended and the symbols of the valid carriers reach past it. A
carrier whose symbols stay out for 8 µs is not waited for, so that the stream does not become absent (log entry 110). -/
def Dev.summaryDue (d : Dev) (rx : Bool) (cs : List (Fin 48)) (t : Nat) : Bool :=
  decide (t + 36 ≤ d.bs.time.toNat) && (decide (t + 32000 ≤ d.bs.time.toNat) ||
    cs.all fun u => !d.summaryValid u rx ||
      decide (((t + 36 : Nat) : Rat) / 4 ≤ (d.symStream u rx).until + d.bandShift))

/-- At most `n` cells of a stream, and the time of the sample that follows them. -/
def Dev.summaryCells (d : Dev) (rx : Bool) (cs : List (Fin 48)) : Nat → Nat → List CellBody × Nat
  | 0, t => ([], t)
  | n + 1, t =>
    if d.summaryDue rx cs t then
      let r := d.summaryCells rx cs n (t + 36)
      (d.summaryCell rx cs t :: r.1, r.2)
    else ([], t)

/-- The streams of link `j` go on from time `t`. -/
def SMap.startAt (m : SMap Nat) (j t : Nat) : SMap Nat := SMap.put (SMap.put m (2 * j) 0 t) (2 * j + 1) 0 t

/-- The summary cells of one direction that link `j` sends in a block. -/
def Dev.summaryTake (d : Dev) (j : Nat) (rx : Bool) : List CellBody × Dev :=
  match d.bs.sumServe.find? fun r => decide (d.linkTo r.pkg = j) with
  | none => ([], d)
  | some r =>
    let cs := if rx then r.rx else r.tx
    if cs = [] then ([], d)
    else
      let r := d.summaryCells rx cs 56 (SMap.get d.bs.sumNext (2 * j + rx.toNat) 0)
      (r.1, onBs (fun b => { b with sumNext := SMap.put b.sumNext (2 * j + rx.toNat) 0 r.2 }) d)

/-! Blocks (R361, R364). -/

/-- Where a cell's sequence numbers are counted: per type and, for summaries, per direction. -/
def CellBody.counter (b : CellBody) : Nat := b.type.toNat + if b.type = 0x10 ∧ b.flags.getLsbD 0 then 256 else 0

/-- A cell as it is sent (Table 13-1). -/
def CellBody.bytes (b : CellBody) (seq : Nat) : List Byte :=
  let bs := [b.type, b.flags] ++ bytesOf 2 seq ++ b.payload
  bs ++ bytesOf 4 (crc32 bs).toNat

/-- Cells numbered and sent one after the other. -/
def numberCells (seqs : SMap Nat) : List CellBody → List (List Byte) × SMap Nat
  | [] => ([], seqs)
  | b :: rest =>
    let n := SMap.get seqs b.counter 0
    let r := numberCells (SMap.put seqs b.counter 0 ((n + 1) % 65536)) rest
    (b.bytes n :: r.1, r.2)

def idleCell : CellBody := ⟨0x00, 0, List.replicate 80 0⟩

/-- A skip set with 3 fillers and a block of 10,208 bytes on the eight lanes: byte i travels on lane i mod 8 (R359, R361). -/
def toLanes (block : List Byte) : List (List LinkSym) :=
  let rows := (pieces 8 (block.length / 8) block).1
  (List.range 8).map fun l => [.comma, .filler, .filler, .filler] ++ rows.map fun r => .data (r.getD l 0)

/-- One block of link `j`: summary cells, then message cells in the order queued, then idle cells. -/
def Dev.sendBlock (d : Dev) (j : Nat) : Dev :=
  if d.lState j ≠ lsUp then d
  else
    let t := d.summaryTake j false
    let r := t.2.summaryTake j true
    let sums := t.1 ++ r.1
    let msgs := (r.2.link j).cells.take (116 - sums.length)
    let body := sums ++ msgs ++ List.replicate (116 - sums.length - msgs.length) idleCell
    let sent := numberCells (r.2.link j).seqs body
    (r.2.onLink j fun l => { l with cells := l.cells.drop msgs.length, seqs := sent.2 }).sendLanes j (toLanes sent.1.flatten)

end Sys2Proof.Machine
end

