-- ==== Sys2Proof/Machine/TxModem.lean ====
section
/-!
DEFINITION. The transmit modem (chapter 7): codewords out of the frame data (R168, R169, R191), symbols with training and pilots
(R120, R194 to R196), Crosshatch pre-distortion (R302), pulse shaping, fine frequency shift and pre-emphasis (R197 to R200), and the
codes of the DACs (R215).
-/
namespace Sys2Proof.Machine
open RegMap

/-! From frame data to dimensions. -/

/-- The data stream of the running band multiframe; bits that the modem has not taken are free values from count `free` on
(log entry 101). -/
def TxModem.bitAt (m : TxModem) (free : Nat) : Nat → Bool :=
  let a := m.bits.toArray
  fun pos => if m.from_ ≤ pos ∧ pos < m.from_ + a.size then a.getD (pos - m.from_) false
    else (Config.freeValue (free + pos / 64)).getLsbD (pos % 64)

/-- The first bit of the stream that codeword `w` or a later one still reads. -/
def keepFrom (f e w : Nat) : Nat :=
  if fmtShaped f then min (wordStart f e w) (blockStart f e (w * fmtDims f / 108)) else wordStart f e w

/-- The next `n` codewords are encoded. -/
def TxModem.encode (m : TxModem) (f e n free : Nat) : TxModem :=
  let bit := m.bitAt free
  let dims := (List.range n).flatMap fun j => txWord f e bit (m.word + j)
  let keep := max m.from_ (keepFrom f e (m.word + n))
  if n = 0 then m
  else { m with word := m.word + n, cut := 0, dims := m.dims ++ dims.drop m.cut, bits := m.bits.drop (keep - m.from_), from_ := keep }

/-- Codewords whose data bits have all been taken. -/
def TxModem.available (m : TxModem) (f e : Nat) : Nat :=
  ((List.range 192).takeWhile fun j =>
    decide (m.word + j < fmtW f) && decide (wordStart f e (m.word + j + 1) ≤ m.from_ + m.bits.length)).length

/-- Every frame taken gets its dimensions, with free bits in the codeword that reaches past them: its mode ends here. -/
def TxModem.flush (m : TxModem) (f e free : Nat) : TxModem :=
  let need := m.frames.length * frameDims
  let m1 := m.encode f e ((need + m.cut + fmtDims f - 1 - m.dims.length) / fmtDims f) free
  { m1 with dims := m1.dims.take need }

/-- A mode starts at frame `i` of a band multiframe: the codeword that reaches into it from the frame before is sent in part. -/
def TxModem.restart (m : TxModem) (f e i : Nat) : TxModem :=
  { m with from_ := i * frameBits f e, bits := [], word := i * frameDims / fmtDims f, cut := i * frameDims % fmtDims f }

/-- Frame data joins the stream; behind the last frame of a band multiframe its fill bits do (R168). -/
def TxModem.join (m : TxModem) (fr : TxFrame) (data : List Bool) (free : Nat) : TxModem :=
  let d := frameBits fr.fmt fr.ent
  let m1 := if fr.i = 0 then { m with from_ := 0, bits := [], word := 0 } else m
  let fill := if fr.i = 255 then List.replicate (dataBits fr.fmt fr.ent - 256 * d) false else []
  let m2 := { m1 with last := some fr, frames := m1.frames ++ [fr], bits := m1.bits ++ (data ++ List.replicate (d - data.length) false).take d ++ fill }
  m2.encode fr.fmt fr.ent (m2.available fr.fmt fr.ent) free

/-! Symbols (R120, R167). -/

/-- The symbol of training or pilot values. -/
def knownPol (x y : Int × Int) : Pol := ⟨⟨x.1, x.2⟩, ⟨y.1, y.2⟩⟩

/-- The training symbols of a frame, and its pilots (R195, R196). -/
def trainingBlock (c tpat : Nat) : List Pol :=
  (List.range 512).map fun n => knownPol (trainSymbol (trainSeed c tpat false) n) (trainSymbol (trainSeed c tpat true) n)
def pilots (c tpat : Nat) : List Pol :=
  (List.range 4080).map fun i => knownPol (pilotSymbol (trainSeed c tpat false) i) (pilotSymbol (trainSeed c tpat true) i)

/-- Data symbols of dimensions in the order XI, XQ, YI, YQ. -/
def dataSymbols : List Rat → List Pol
  | xi :: xq :: yi :: yq :: r => ⟨⟨xi, xq⟩, ⟨yi, yq⟩⟩ :: dataSymbols r
  | _ => []

/-- The symbols of a carrier frame (R120): training block, then each pilot with the 31 data symbols behind it. -/
def frameSymbols (c tpat : Nat) (data : List Pol) : List Pol :=
  trainingBlock c tpat ++
    ((pilots c tpat).foldl (fun (st : List (List Pol) × List Pol) p => ((p :: st.2.take 31) :: st.1, st.2.drop 31)) ([], data)).1.reverse.flatten

/-- Frames whose dimensions are all there become symbols. -/
def TxModem.form (m : TxModem) (c : Nat) : Nat → TxModem
  | 0 => m
  | n + 1 => match m.frames with
    | [] => m
    | fr :: rest =>
      if m.dims.length < frameDims then m
      else
        let data := dataSymbols (scaled fr.fmt fr.ent (m.dims.take frameDims))
        { m with frames := rest, done := m.done ++ [fr], dims := m.dims.drop frameDims,
                 syms := m.syms ++ frameSymbols c fr.tpat data }.form c n

/-! Crosshatch pre-distortion (R302). -/

/-- Symbols of a carrier frame. -/
def frameLen : Nat := 131072

/-- The symbols that correct the frame from symbol `n0` on have all been formed: those of the next frame, and of each neighbour that
is present up to the end of it. -/
def Dev.covered (d : Dev) (c n0 : Nat) (fr : TxFrame) : Bool :=
  let m := d.txModem c
  let stop : Rat := (d.symStream c false).start + symPeriod (d.txZr c) m.rate * ((n0 + 2 * frameLen : Nat) : Rat)
  decide (n0 + 2 * frameLen ≤ m.first + m.syms.length) &&
    (fr.bank.isNone || (List.range 4).all fun slot =>
      match (d.slotsInForce c false).getD slot (0, 0, 0) with
      | (1, u, _) => d.bit (aXhStat c) (missBit slot false) || (d.txModem u).last.isNone || decide (stop ≤ (d.symStream u false).until)
      | _ => true)

/-- One frame is corrected. -/
def Dev.correctFrame (d : Dev) (c n0 : Nat) (fr : TxFrame) : Dev :=
  let s := d.symStream c false
  let sym (n : Int) : Pol := match fr.bank with
    | none => s.sym n
    | some b => (s.sym n).add ((d.perturbation c false b s n).scale (xhShare false b))
  let d1 := d.onTxm c fun m =>
    { m with done := m.done.drop 1, out := m.out ++ (List.range frameLen).map fun j => sym ((n0 + j : Nat) : Int) }
  match fr.bank with | none => d1 | some b => d1.countMissing c false b

/-- Frames are corrected in order, as far as the symbols they need have been formed, or all of them when the symbol clock ends. -/
def Dev.correct (d : Dev) (c : Nat) (all : Bool) : Nat → Dev
  | 0 => d
  | n + 1 =>
    let m := d.txModem c
    let n0 := m.outFirst + m.out.length
    match m.done with
    | [] => d
    | fr :: _ => if all || d.covered c n0 fr then (d.correctFrame c n0 fr).correct c all n else d

/-! The samples of the DACs. -/

/-- sin(πx) and cos(πx). -/
def sinPi (x : Rat) : Rat := (turn (x / 2)).im
def cosPi (x : Rat) : Rat := (turn (x / 2)).re

/-- The root-raised-cosine pulse of roll-off `b` at `u` symbol periods from its centre (R197). Its spectrum ends at (1 + b) / 2 of the
symbol rate, within the mask; how far it reaches in time is `Config.pulseSpan`. -/
def rrc (b u : Rat) : Rat :=
  if u = 0 then 1 - b + 4 * b / Config.pi
  else if 16 * b * b * u * u = 1 then
    b / Config.sqrt 2 * ((1 + 2 / Config.pi) * sinPi (1 / (4 * b)) + (1 - 2 / Config.pi) * cosPi (1 / (4 * b)))
  else (sinPi (u * (1 - b)) + 4 * b * u * cosPi (u * (1 + b))) / (Config.pi * u * (1 - 16 * b * b * u * u))

/-- Samples per ns of a region's converters (R218). -/
def Dev.sampleRate (d : Dev) (g : Nat) : Nat := if d.halfMode g then 96 else 192

/-- The shaped signal at a number of symbol periods since symbol 0. -/
def TxModem.wave (m : TxModem) (roll u : Rat) : Pol :=
  let lo : Int := u.floor - (Config.pulseSpan : Int)
  (List.range (2 * Config.pulseSpan + 2)).foldl (fun acc (j : Nat) =>
    let n : Int := lo + (j : Int)
    let v := if n < m.outFirst then ({} : Pol) else m.out.getD (n - m.outFirst).toNat {}
    acc.add (v.scale (rrc roll (u - n)))) {}

/-- Dimension 0 to 3: XI, XQ, YI, YQ. -/
def Pol.dim (v : Pol) : Nat → Rat
  | 0 => v.x.re
  | 1 => v.x.im
  | 2 => v.y.re
  | _ => v.y.im

/-- CVT_DSK_j of a carrier's pair in ns (Table 8-5). -/
def Dev.deskew (d : Dev) (c : Nat) (rx : Bool) (dim : Nat) : Rat :=
  (Fld.int ⟨0, 10⟩ (d.reg (cvtBase (c / 6) + 0x40 + 4 * (8 * (c % 6) + 4 * rx.toNat + dim))) : Rat) / 10000

/-- The tap h_t of a dimension (R200). -/
def Dev.pem (d : Dev) (c dim t : Nat) : Rat := (Fld.int ⟨0, 12⟩ (d.actReg (carrBase c + 0x100 + 4 * (7 * dim + t))) : Rat) / 1024

/-- The code of a sample, and whether it was clamped (R215). -/
def dacCode (gain : Nat) (y : Rat) : Byte × Bool :=
  let v := roundQ (y * gain / 4)
  (BitVec.ofInt 8 (128 + clampInt (-127) 127 v), decide (v < -127 ∨ 127 < v))

/-- The codes of a dimension from sample `m.sample` on, `n` of them: shaped, delayed by its pair's deskew, shifted by the fine offset
`f` in GHz, pre-emphasised (R197 to R200, R215). -/
def Dev.dimCodes (d : Dev) (c dim n : Nat) (f : Rat) : List (Byte × Bool) :=
  let m := d.txModem c
  let fs : Rat := (d.sampleRate (c / 6) : Nat)
  let period := symPeriod (d.txZr c) m.rate
  let roll : Rat := (d.actFld (aCarrSym c) ⟨16, 5⟩ : Nat) / 100
  let gain := d.actFld (cvtBase (c / 6) + 0x10 + 4 * (c % 6)) ⟨0, 8⟩
  let at_ (i : Int) : Rat :=
    let t : Rat := i / fs - d.deskew c false dim
    (Pol.times (turn (m.turns + f * (t - m.sample / fs))) (m.wave roll (t / period))).dim dim
  (List.range n).map fun (k : Nat) =>
    let i : Int := m.sample + (k : Int)
    dacCode gain ((List.range 7).foldl (fun y (t : Nat) => y + d.pem c dim t * at_ (i + 3 - (t : Int))) 0)

/-- A capture that runs in the direction named stores the codes of a carrier's converters, 2^len of each (R224). -/
def Dev.captured (d : Dev) (c : Nat) (dac : Bool) (codes : List (List Byte)) : Dev :=
  let g := c / 6
  if (d.region g).capRun && decide (d.fld (cvtBase g + 0x104) ⟨16, 2⟩ = dac.toNat) then
    d.onRegion g fun r => { r with capCodes := codes.zipIdx.foldl (fun m p =>
      let key := 4 * (c % 6) + p.2
      SMap.put m key [] ((SMap.get m key [] ++ p.1).take (2 ^ d.fld (cvtBase g + 0x104) ⟨18, 4⟩))) r.capCodes }
  else d

/-- The samples that corrected symbols determine are sent: the codes of the four DACs, with clips counted. -/
def Dev.sendSamples (d : Dev) (c : Nat) : Dev :=
  let m := d.txModem c
  let fs : Rat := (d.sampleRate (c / 6) : Nat)
  let period := symPeriod (d.txZr c) m.rate
  let f : Rat := ((d.carrier c).fofsNow : Rat) / 100000
  let whole : Rat := ((m.outFirst + m.out.length : Nat) : Rat) - (Config.pulseSpan : Rat) - 1
  let n := (whole * period * fs).floor.toNat - 8 - m.sample
  let codes := (List.range 4).map fun dim => d.dimCodes c dim n f
  let clips := (codes.flatMap fun l => l.filter fun p => p.2).length
  let old := (m.sample + n) / fs / period
  let drop := (old.floor.toNat - Config.pulseSpan - 8) - m.outFirst
  let d1 := d.onTxm c fun m =>
    { m with sample := m.sample + n, turns := let t := m.turns + f * n / fs; t - t.floor, outFirst := m.outFirst + drop, out := m.out.drop drop }
  let d2 := if clips = 0 then d1 else (d1.setBit (cvtBase (c / 6) + 0x204) 1).count c 2 0 clips
  let sent := codes.map fun l => l.map fun p => p.1
  if n = 0 then d else (d2.captured c true sent).emit (.dac c sent)

/-- Symbols far behind the DACs are held no longer: 32 carrier frames stay for the neighbours' blocks (R301). -/
def TxModem.prune (m : TxModem) : TxModem :=
  let drop := m.syms.length - 32 * frameLen
  { m with first := m.first + drop, syms := m.syms.drop drop }

/-- Formed symbols are corrected and sent. -/
def Dev.modemSend (d : Dev) (c : Nat) (all : Bool) : Dev :=
  let d1 := d.onTxm c fun m => m.form c m.frames.length
  ((d1.correct c all (d1.txModem c).done.length).sendSamples c).onTxm c TxModem.prune

/-- Free values that one codeword stream may take. -/
def Dev.skipFree (d : Dev) (f e : Nat) : Dev := { d with free := d.free + dataBits f e / 64 + 1 }

/-- The modem's mode changes at frame `fr`, or the modem starts: what it holds of the earlier mode is sent out, a new symbol rate
starts the symbol clock anew, and codewords start at the place of the frame in the band multiframe (log entry 101). -/
def Dev.modemMode (d : Dev) (c : Nat) (fr : TxFrame) : Dev :=
  match (d.txModem c).last with
  | none => d.onTxm c fun _ => ({ start := d.time, rate := fr.rate } : TxModem).restart fr.fmt fr.ent fr.i
  | some l =>
    if l.fmt = fr.fmt ∧ l.ent = fr.ent ∧ l.rate = fr.rate then d
    else
      let d1 := ((d.onTxm c fun m => m.flush l.fmt l.ent d.free).skipFree l.fmt l.ent).modemSend c (decide (l.rate ≠ fr.rate))
      d1.onTxm c fun m =>
        if l.rate = fr.rate then m.restart fr.fmt fr.ent fr.i
        else ({ start := d.time, rate := fr.rate, turns := m.turns, last := m.last } : TxModem).restart fr.fmt fr.ent fr.i

/-- The modem takes a carrier frame from the framer. -/
def Dev.modemTake (d : Dev) (c : Nat) (fr : TxFrame) (data : List Bool) : Dev :=
  let d1 := d.modemMode c fr
  let cut := (d1.txModem c).cut
  let d2 := d1.onTxm c fun m => m.join fr data d1.free
  (if cut = 0 then d2 else d2.skipFree fr.fmt fr.ent).modemSend c false

end Sys2Proof.Machine
end

