-- ==== Sys2Proof/Machine/RxChain.lean ====
section
/-!
DEFINITION. The stages of the receive modem (Table 10-1): input, derotation and resampling (R267 to R270), dispersion (R271), equaliser
(R274 to R276), polarisation tracker (R277), carrier recovery (R278 to R280), Crosshatch cancellation (R303), demapper (R291, R292), and
the measurements of a frame (R284, R293). What the spec leaves to them is in log entry 100.
-/
namespace Sys2Proof.Machine
open RegMap

/-! Input. -/

/-- ADC samples at −128 or +127 (R216). -/
def clipped (codes : List (List Int)) : Nat := (codes.flatMap fun l => l.filter fun v => decide (v ≤ -128 ∨ 127 ≤ v)).length

/-- The samples of a dimension delayed by `t` sample periods (Table 8-5). -/
def delayed (l : List Int) (t : Rat) : List Rat :=
  let a := (l.map fun (v : Int) => (⟨⟨v, 0⟩, {}⟩ : Pol)).toArray
  (List.range l.length).map fun (n : Nat) => (interp a (n - t)).x.re

/-- Samples without their mean. -/
def noDc (l : List Rat) : List Rat := let m := meanQ l; l.map fun v => v - m

def dot (a b : List Rat) : Rat := (List.zipWith (· * ·) a b).foldl (· + ·) 0

/-- One polarisation with DC removed, and Q made orthogonal to I and of its power. -/
def quadrature (i q : List Rat) : List Cx :=
  let i := noDc i
  let q := noDc q
  let p := dot i i
  let q := List.zipWith (fun a b => b - dot i q / p * a) i q
  let g := Config.sqrt (p / dot q q)
  List.zipWith (fun a b => ⟨a, g * b⟩) i q

/-- The input stage: the codes of XI, XQ, YI and YQ as samples of both polarisations. -/
def Dev.inputStage (d : Dev) (c : Nat) (codes : List (List Int)) : List Pol :=
  let fs : Rat := (d.sampleRate (c / 6) : Nat)
  let dim (i : Nat) := delayed (codes.getD i []) (d.deskew c true i * fs)
  List.zipWith Pol.mk (quadrature (dim 0) (dim 1)) (quadrature (dim 2) (dim 3))

/-! Derotation and resampling. -/

/-- Samples `xs` shifted by −`f` GHz from a phase in turns on, and taken every `step` samples from `place` on, while they reach. -/
def resample (xs : List Pol) (fs f step place turns : Rat) : List Pol :=
  let a := xs.toArray
  let n := (((xs.length : Rat) - (Config.pulseSpan : Rat) - 1 - place) / step).ceil.toNat
  (List.range n).map fun (k : Nat) =>
    let p := place + step * k
    Pol.times (turn (-(turns + f * step * k / fs))) (interp a p)

/-- Input samples per working sample: the working rate is 1.25 times the symbol rate of the far clock (R268, R270). -/
def workStep (fs : Nat) (rate : Nat) (clock : Rat) : Rat :=
  (fs : Rat) / (5 / 4 * ((rate : Rat) / 8) * (1 + clock / 100000000))

/-- CARR_FREQ.fofs in force, in GHz. -/
def Dev.fofsGHz (d : Dev) (c : Nat) : Rat := ((d.carrier c).fofsNow : Rat) / 100000

/-! Dispersion. -/

/-- The turns by which `cd` in 10 ps/nm delays a component `f` GHz from the centre at `f0` GHz: c · D · f² / (2 · f0²). -/
def cdTurns (cd f f0 : Rat) : Rat := 299792458 * (cd * (1 / 100)) * (f * f) / (2 * (f0 * f0))

/-- The all-pass response that compensates it, over the bins of a spectrum (R271). -/
def allPass (cd rate f0 : Rat) (spec : List Pol) : List Pol :=
  spec.zipIdx.map fun p => Pol.times (turn (cdTurns cd (binFreq spec.length p.2 * rate) f0)) p.1

/-- Overlap-save: a block of `n` samples advances by `adv`, and the middle of each transformed block is kept. The second list holds
the samples that the next block begins with. -/
def overlapSave (n adv : Nat) (f : List Pol → List Pol) : Nat → List Pol → List Pol × List Pol
  | 0, l => ([], l)
  | k + 1, l =>
    if l.length < n then ([], l)
    else
      let r := overlapSave n adv f k (l.drop adv)
      (((f (l.take n)).drop ((n - adv) / 2)).take adv ++ r.1, r.2)

/-- The dispersion stage on a list of samples: 65,536 points, 16,384 ahead at a time. -/
def cdStage (cd rate f0 : Rat) (l : List Pol) : List Pol × List Pol :=
  overlapSave 65536 16384 (fun b => Pol.through (idft 65536) (allPass cd rate f0 (Pol.through (dft 65536) b))) (l.length / 16384) l

/-- The centre of carrier `c` in GHz (R198). -/
def Dev.centreGHz (d : Dev) (c : Nat) : Rat := 184500 + (d.actFld (aCarrFreq c) ⟨0, 12⟩ : Rat) * 25 / 4 + d.fofsGHz c

/-! Equaliser. -/

/-- One block through the tap sets (R274). -/
def eqBlock (taps : List Jones) (b : List Pol) : List Pol × List Pol :=
  let spec := Pol.through (dft 4096) b
  (spec, ((Pol.through (idft 4096) (List.zipWith Jones.apply taps spec)).drop 1024).take 2048)

/-- The equaliser on the samples that wait: 4,096 points, 2,048 ahead at a time. -/
def RxModem.equalise (m : RxModem) : Nat → RxModem × List Pol
  | 0 => (m, [])
  | n + 1 =>
    let q := m.equalise n
    if q.1.eqIn.length < 4096 then q
    else
      let r := eqBlock m.taps (q.1.eqIn.take 4096)
      let at_ := m.eqBase + m.eqOut.length + q.2.length
      ({ q.1 with eqIn := q.1.eqIn.drop 2048, blocks := q.1.blocks ++ [(at_, r.1)] }, q.2 ++ r.2)

/-- The waveform of training symbols at the working rate, in a window of 4,096 samples whose sample 1,024 is symbol 0. -/
def trainingWave (roll : Rat) (train : List Pol) : List Pol :=
  let a := train.toArray
  (List.range 4096).map fun (i : Nat) =>
    let u : Rat := ((i : Rat) - 1024) * 4 / 5
    let lo : Int := u.floor - (Config.pulseSpan : Int)
    (List.range (2 * Config.pulseSpan + 2)).foldl (fun acc (j : Nat) =>
      let n : Int := lo + (j : Int)
      if n < 0 then acc else acc.add ((a.getD n.toNat {}).scale (rrc roll (u - n)))) {}

/-- The sum of a list of matrices over the 32 bins about bin `k`, cyclically. -/
def over32 (a : Array Jones) (k : Nat) : Jones := Jones.sum ((List.range 32).map fun i => a.getD ((k + 4080 + i) % 4096) Jones.zero)

/-- The start of the equaliser (R275): least squares of received spectra `rs` on that of the training sequence, smoothed over 32
bins, and the minimum mean-square-error inverse of the response found. -/
def lsStart (sent : List Pol) (rs : List (List Pol)) : List Jones :=
  let zero := List.replicate 4096 Jones.zero
  let cross := (rs.foldl (fun acc r => List.zipWith Jones.add acc (List.zipWith Pol.outer r sent)) zero).toArray
  let own := ((List.zipWith Pol.outer sent sent).map (Jones.scale (rs.length : Rat))).toArray
  let h := (List.range 4096).map fun k => (over32 cross k).mul (over32 own k).inv
  let miss := rs.map fun r => meanQ (List.zipWith (fun p q => (Pol.sub p q).norm2) r (List.zipWith Jones.apply h sent))
  let n2 : Jones := Jones.scale (meanQ miss / 2) {}
  h.map fun j => j.adj.mul ((j.mul j.adj).add n2).inv

/-- A tap is held to a magnitude of 8.0 (R281). -/
def clampTap (v : Cx) : Cx := if 64 < v.norm2 then v.scale (8 / Config.sqrt v.norm2) else v
def clampTaps (j : Jones) : Jones := ⟨clampTap j.xx, clampTap j.xy, clampTap j.yx, clampTap j.yy⟩

/-- One least-mean-square update of every tap set with step `mu` (R276): `err` is the error of the 2,048 samples kept of a block. -/
def lmsStep (mu : Rat) (taps : List Jones) (spec err : List Pol) : List Jones :=
  let e := Pol.through (dft 4096) (List.replicate 1024 ({} : Pol) ++ err ++ List.replicate 1024 ({} : Pol))
  List.zipWith (fun w p => clampTaps (w.add ((Pol.outer p.1 p.2).scale mu))) taps (e.zip spec)

/-! Polarisation tracker. -/

/-- The unitary matrix nearest in direction: rows made orthogonal and of length 1. -/
def unitary (m : Jones) : Jones :=
  let n := Config.sqrt (m.xx.norm2 + m.xy.norm2)
  let a := m.xx.scale (1 / n)
  let b := m.xy.scale (1 / n)
  let p := (m.yx.mul a.conj).add (m.yy.mul b.conj)
  let c := m.yx.sub (p.mul a)
  let e := m.yy.sub (p.mul b)
  let k := Config.sqrt (c.norm2 + e.norm2)
  ⟨a, b, c.scale (1 / k), e.scale (1 / k)⟩

/-- A matrix from a list of its elements. -/
def jonesOf (l : List (Rat × Rat)) : Jones :=
  let e (i : Nat) : Cx := let p := l.getD i (0, 0); ⟨p.1, p.2⟩
  ⟨e 0, e 1, e 2, e 3⟩

/-- The tracker on samples, a datapath word at a time (R277). -/
def track (gain : Rat) : Nat → Jones → List Pol → List Pol × Jones
  | 0, m, _ => ([], m)
  | n + 1, m, l =>
    if l = [] then ([], m)
    else
      let w := max 1 Config.datapathWord
      let out := (l.take w).map m.apply
      let g := jonesOf (Config.trackError (out.map fun v => ((v.x.re, v.x.im), (v.y.re, v.y.im))))
      let r := track gain n (unitary (m.add ((g.mul m).scale gain))) (l.drop w)
      (out ++ r.1, r.2)

/-! Carrier recovery. -/

/-- The known symbol at place `n` of a frame, training or pilot (R120). -/
def knownAt (tr pi : Array Pol) (n : Nat) : Option Pol :=
  if n < 512 then tr[n]? else if n % 32 = 0 then pi[(n - 512) / 32]? else none

def isPilot (n : Nat) : Bool := decide (512 ≤ n ∧ n % 32 = 0)

/-- The second-order loop on the pilot phases (R278): symbols with frequency and phase removed, the turns taken off each, and the
frequency (turns a symbol) and phase that it ends with. -/
def pilotLoop (known : Nat → Option Pol) (f p : Rat) (ys : List Pol) : List (Pol × Rat) × Rat × Rat :=
  let r := ys.zipIdx.foldl (fun (st : List (Pol × Rat) × Rat × Rat) q =>
    let (out, f, p) := st
    let y := Pol.times (turn (-p)) q.1
    let (f, p') := match isPilot q.2, known q.2 with
      | true, some x =>
        let z := (y.x.mul x.x.conj).add (y.y.mul x.y.conj)
        let e := Config.arg (z.re, z.im)
        (f + Config.pilotGain.2 * e, p + Config.pilotGain.1 * e)
      | _, _ => (f, p)
    ((y, p) :: out, f, p' + f)) ([], f, p)
  (r.1.reverse, r.2.1, r.2.2)

/-- The nearest value of a list, the first of equals. -/
def nearest (pts : List Rat) (v : Rat) : Rat :=
  pts.foldl (fun b s => if (v - s) * (v - s) < (v - b) * (v - b) then s else b) (pts.headD 0)

/-- The values of a dimension of a format on the unit-power scale (R194), and of training and pilots. -/
def levels (f e : Nat) : List Rat := scaled f e ((List.range (fmtL f)).flatMap fun a => [dimValue false a, dimValue true a])
def unitLevels : List Rat := [1, -1]

/-- The nearest point of a format. -/
def nearestPoint (pts : List Rat) (v : Cx) : Cx := ⟨nearest pts v.re, nearest pts v.im⟩

/-- Test phases of the blind phase search (R279). -/
def testPhases (f : Nat) : Nat := if f = 4 then 64 else if f = 3 then 32 else 16

/-- The distance of one symbol of a polarisation from the nearest point under test phase `j`; a pilot weighs 4 times a data symbol. -/
def phaseCost (f : Nat) (pts : List Rat) (n : Nat) (y : Cx) (j : Nat) : Rat :=
  let z := y.mul (turn (-((j : Rat) / (4 * testPhases f : Nat))))
  let q := nearestPoint (if n < 512 ∨ isPilot n then unitLevels else pts) z
  (if isPilot n then 4 else 1) * (z.sub q).norm2

/-- The phase of each symbol of a polarisation in turns: the best test phase over a window of `win` symbols, taken nearest to the
phase before it in steps of a quarter turn. -/
def blindPhases (f win : Nat) (pts : List Rat) (start : Rat) (ys : List Cx) : List Rat :=
  let b := testPhases f
  let cost := (ys.zipIdx.map fun q => ((List.range b).map fun j => phaseCost f pts q.2 q.1 j).toArray).toArray
  let best (n : Nat) : Nat :=
    let total (j : Nat) : Rat := (List.range win).foldl (fun t i =>
      if n + i < win / 2 then t else t + ((cost.getD (n + i - win / 2) #[]).getD j 0)) 0
    ((List.range b).foldl (fun (s : Nat × Rat) j => let t := total j; if t < s.2 then (j, t) else s) (0, total 0)).1
  ((List.range ys.length).foldl (fun (st : List Rat × Rat) n =>
    let v : Rat := (best n : Rat) / (4 * b : Nat)
    let p := v + (roundQ (4 * (st.2 - v)) : Rat) / 4
    (p :: st.1, p)) ([], start)).1.reverse

/-- The quadrant, counted from that of the known symbol, in which a pilot is decided. -/
def quadrant (y x : Cx) : Nat :=
  let z := y.mul x.conj
  if 0 ≤ z.re ∧ -z.re ≤ z.im ∧ z.im < z.re then 0
  else if 0 < z.im ∧ -z.im < z.re ∧ z.re ≤ z.im then 1
  else if z.re ≤ 0 ∧ z.re < z.im ∧ z.im ≤ -z.re then 2 else 3

/-- The quadrants by which the symbols from a pilot on are turned back, newest first, and the cycle slips (R280): three consecutive
pilots in the same wrong quadrant. -/
def slipTurns : List (Nat × Nat) → List (Nat × Nat) × Nat
  | qs =>
    let r := qs.foldl (fun (st : List (Nat × Nat) × Nat × List Nat × Nat) p =>
      let (turns, now, run, slips) := st
      let q := (p.2 + 4 - now) % 4
      if q = 0 then (turns, now, [], slips)
      else
        let run := if (run.head?.map fun n => n % 4) = some q then (4 * p.1 + q) :: run else [4 * p.1 + q]
        if run.length = 3 then (((run.getLastD 0) / 4, (now + q) % 4) :: turns, (now + q) % 4, [], slips + 1)
        else (turns, now, run, slips)) ([], 0, [], 0)
    (r.1, r.2.2.2)

/-- One polarisation: its blind phase search and its slips resolved. The symbols, the turns taken off each, the phase at its end. -/
def recoverPol (f win : Nat) (pts : List Rat) (known : Nat → Option Cx) (start : Rat) (ys : List Cx) :
    List (Cx × Rat) × Rat × Nat :=
  let ph := blindPhases f win pts start ys
  let zs := List.zipWith (fun y p => y.mul (turn (-p))) ys ph
  let qs := zs.zipIdx.filterMap fun q =>
    if isPilot q.2 then (known q.2).map fun x => (q.2, quadrant q.1 x) else none
  let s := slipTurns qs
  let off (n : Nat) : Rat := (((s.1.find? fun t => decide (t.1 ≤ n)).map fun t => t.2).getD 0 : Nat) / 4
  ((zs.zip ph).zipIdx.map fun q => (q.1.1.mul (turn (-(off q.2))), q.1.2 + off q.2),
   ph.getLastD start + off ys.length, s.2)

/-! Measurements. -/

/-- The training correlation of a polarisation in 1/1000. -/
def correlation (ys xs : List Cx) : Nat :=
  let z := Cx.sum (List.zipWith (fun y x => y.mul x.conj) ys xs)
  let p := (ys.map Cx.norm2).foldl (· + ·) 0 * (xs.map Cx.norm2).foldl (· + ·) 0
  Nat.sqrt (z.norm2 * 1000000 / p).floor.toNat

/-- Pilots decided in error: not in the quadrant of the known symbol. -/
def pilotErrors (ys xs : List Cx) : Nat :=
  ((ys.zip xs).filter fun p => !(decide (0 ≤ p.1.re * p.2.re) && decide (0 ≤ p.1.im * p.2.im))).length

/-- The pilots of a frame of symbols. -/
def pilotsOf (l : List Pol) : List Pol := (l.zipIdx.filter fun q => isPilot q.2).map fun q => q.1

/-- The measurement of a recovered frame against a carrier and training pattern (R284). -/
def frameMetric (c tpat : Nat) (l : List Pol) : Metric :=
  let tr := trainingBlock c tpat
  let ps := pilotsOf l
  let xs := pilots c tpat
  ⟨correlation ((l.take 512).map Pol.x) (tr.map Pol.x), correlation ((l.take 512).map Pol.y) (tr.map Pol.y),
   pilotErrors (ps.map Pol.x) (xs.map Pol.x), pilotErrors (ps.map Pol.y) (xs.map Pol.y)⟩

/-! Demapper (R291, R292). -/

/-- The points of a dimension: label bits, value, −ln P. -/
def labelled (f e : Nat) : List (List Bool × Rat × Rat) :=
  (List.range (fmtL f)).flatMap fun a =>
    let prior := -Config.ln (ampFreq f e a / 2)
    [false, true].map fun s => (s :: grayBits (fmtM f) a, (scaled f e [dimValue s a]).headD 0, prior)

/-- The least of a list, 0 of none. -/
def least : List Rat → Rat
  | [] => 0
  | v :: vs => vs.foldl min v

/-- The LLRs of a dimension received as `r` with noise variance `v`: sign bit first. -/
def dimLlrs (pts : List (List Bool × Rat × Rat)) (m scale : Nat) (v r : Rat) : List Int :=
  let d := pts.map fun p => (p.1, (r - p.2.1) * (r - p.2.1) / (2 * v) + p.2.2)
  (List.range m).map fun i =>
    let side (b : Bool) := least ((d.filter fun p => p.1.getD i false = b).map fun p => p.2)
    clampInt (-31) 31 (roundQ ((side true - side false) * scale / 4))

/-- The LLRs of a frame, by dimension. -/
def frameLlrs (f e scale : Nat) (vx vy : Rat) (l : List Pol) : List Int :=
  let pts := labelled f e
  (l.zipIdx.filter fun q => decide (512 ≤ q.2) && !isPilot q.2).flatMap fun q =>
    let one (v r : Rat) := dimLlrs pts (fmtM f) scale v r
    one vx q.1.x.re ++ one vx q.1.x.im ++ one vy q.1.y.re ++ one vy q.1.y.im

/-! The modem of a carrier. -/

/-- Symbol rate in 0.125 GBd and training pattern of the mode in use. -/
def Dev.rxRate (d : Dev) (c : Nat) : Nat := d.fld (carrBase c + 0x244) ⟨0, 11⟩
def Dev.rxTpat (d : Dev) (c : Nat) : Nat := d.fld (carrBase c + 0x244) ⟨16, 3⟩

/-- The known symbols of a frame in use. -/
def Dev.rxKnown (d : Dev) (c : Nat) : Nat → Option Pol :=
  let tr := (trainingBlock c (d.rxTpat c)).toArray
  let pi := (pilots c (d.rxTpat c)).toArray
  knownAt tr pi

/-! The Drypoint tap (R465). -/

/-- A rational as an integer; which neighbour an inexact one takes is free (log entry 36). -/
def Dev.intOf (d : Dev) (v : Rat) : Int × Dev :=
  if v.den = 1 then (v.num, d) else (v.floor + (((Config.freeValue d.free).toNat % 2 : Nat) : Int), { d with free := d.free + 1 })

def sat16 (v : Int) : Int := max (-32768) (min 32767 v)

/-- The component of one sample that DP_CTRL.comp selects: X or Y times `k`, or the sum or difference of the powers times `kp`. -/
def Dev.dpComponent (d : Dev) (comp : Nat) (k kp : Rat) (p : Pol) : (Int × Int) × Dev :=
  let one (v : Cx) : (Int × Int) × Dev :=
    let a := d.intOf (v.re * k)
    let b := a.2.intOf (v.im * k)
    ((sat16 a.1, sat16 b.1), b.2)
  if comp = 0 then one p.x
  else if comp = 1 then one p.y
  else
    let a := d.intOf ((if comp = 2 then p.x.norm2 + p.y.norm2 else p.x.norm2 - p.y.norm2) * kp)
    ((sat16 a.1, 0), a.2)

/-- The chain of region `g` takes carrier `c` at point `pt`: it runs, in a region in RUN. -/
def Dev.dpTapped (d : Dev) (c pt : Nat) : Bool :=
  let w := d.reg (dpBase (c / 6))
  w.getLsbD 0 && decide (c % 6 = Fld.get ⟨1, 3⟩ w) && decide (pt = Fld.get ⟨4, 1⟩ w) &&
    decide (d.fld aPwrRstat ⟨2 * (c / 6), 2⟩ = 0)

/-- Samples of carrier `c` at point `pt` come to the chain that taps them; those of a carrier that is OFF are 0. -/
def Dev.dpTap (d : Dev) (c pt : Nat) (k kp : Rat) (l : List Pol) : Dev :=
  if !d.dpTapped c pt then d
  else
    let off := decide (d.cState c = csOff)
    let r := l.foldl (fun (st : List (Int × Int) × Dev) p =>
      let v := st.2.dpComponent (d.fld (dpBase (c / 6)) ⟨5, 2⟩) k kp (if off then {} else p)
      (v.1 :: st.1, v.2)) ([], d)
    r.2.onRegion (c / 6) fun g => { g with dp := { g.dp with input := g.dp.input ++ r.1.reverse } }

/-- ADC codes of XI, XQ, YI and YQ as samples. -/
def codeSamples (codes : List (List Int)) : List Pol :=
  let q (i : Nat) : List Rat := (codes.getD i []).map fun (v : Int) => (v : Rat)
  let pair (i j : Nat) : List Cx := List.zipWith (fun a b => (⟨a, b⟩ : Cx)) (q i) (q j)
  List.zipWith Pol.mk (pair 0 1) (pair 2 3)

/-- New input samples go through the stages up to the tracker. -/
def Dev.rxFront (d : Dev) (c : Nat) (codes : List (List Int)) : Dev :=
  let m := d.rxModem c
  let fs := d.sampleRate (c / 6)
  let f := d.fofsGHz c
  let step := workStep fs (d.rxRate c) m.clock
  let xs := m.tail ++ d.inputStage c codes
  let ws := resample xs fs f step m.place m.turns
  let place := m.place + step * ws.length
  let keep := place.floor.toNat - Config.pulseSpan
  let cd := cdStage (d.carrier c).cd ((d.rxRate c : Rat) * 5 / 32) (d.centreGHz c) (m.cdIn ++ ws)
  let m1 := { m with tail := xs.drop keep, place := place - (min keep xs.length : Nat), turns := m.turns + f * step * ws.length / fs,
                     cdIn := cd.2, eqIn := m.eqIn ++ cd.1 }
  let q := m1.equalise (m1.eqIn.length / 2048)
  let t := track (1 / (2 ^ Fld.get ⟨4, 4⟩ (d.actReg (carrBase c + 0x228)) : Nat)) q.2.length q.1.tracker q.2
  (d.onRxm c fun _ => { q.1 with eqOut := q.1.eqOut ++ t.1, tracker := t.2 }).dpTap c 1 4096 4096 t.1

/-- Equalised samples short of a frame are kept; a whole frame of symbols is taken from `symAt` on, every 1.25 samples. -/
def RxModem.nextSymbols (m : RxModem) : Option (List Pol) :=
  if m.symAt + 5 / 4 * (frameLen : Rat) + (Config.pulseSpan : Rat) + 1 ≤ ((m.eqBase + m.eqOut.length : Nat) : Rat) then
    let a := m.eqOut.toArray
    some ((List.range frameLen).map fun (n : Nat) => interp a (m.symAt + 5 / 4 * n - m.eqBase))
  else none

/-- The error of the equalised samples that a block kept, from number `at_` on, given the error of the frame's symbols. -/
def blockError (errs : Array Pol) (symAt : Rat) (at_ : Nat) : List Pol :=
  (List.range 2048).map fun (i : Nat) => interp errs (((at_ + i : Nat) - symAt) * 4 / 5)

/-- One frame is recovered (R276 to R280): loops, equaliser updates, tentative decisions, measurements. It then waits for Crosshatch
cancellation. -/
def Dev.rxRecover (d : Dev) (c : Nat) (ys : List Pol) : Dev :=
  let m := d.rxModem c
  let (f, e) := d.rxFormat c
  let loop := d.actReg (carrBase c + 0x228)
  let known := d.rxKnown c
  let period := symPeriod false (d.rxRate c)
  let pts := levels f e
  let win := Fld.get ⟨12, 7⟩ loop
  let pl := pilotLoop known (m.freq / 1000 * period) m.phase ys
  let rx := recoverPol f win pts (fun n => (known n).map Pol.x) m.phaseX (pl.1.map fun q => q.1.x)
  let ry := recoverPol f win pts (fun n => (known n).map Pol.y) m.phaseY (pl.1.map fun q => q.1.y)
  let zs := List.zipWith (fun a b => (⟨a.1, b.1⟩ : Pol)) rx.1 ry.1
  let dec := zs.zipIdx.map fun q => (known q.2).getD ⟨nearestPoint pts q.1.x, nearestPoint pts q.1.y⟩
  let locked := decide (d.rxState c = rxLocked)
  let errs := ((zs.zip dec).zipIdx.map fun q =>
    if locked || (known q.2).isSome then Pol.sub q.1.2 q.1.1 else {})
  let back := List.zipWith (fun (q : Pol × Rat × Rat × Rat) (_ : Unit) =>
      m.tracker.adj.apply ⟨q.1.x.mul (turn (q.2.1 + q.2.2.1)), q.1.y.mul (turn (q.2.1 + q.2.2.2))⟩)
    (errs.zip ((pl.1.map fun q => q.2).zip ((rx.1.map fun q => q.2).zip (ry.1.map fun q => q.2)))) (ys.map fun _ => ())
  let eArr := back.toArray
  let nextAt := m.symAt + 5 / 4 * (frameLen : Rat)
  let due := m.blocks.filter fun b => decide (((b.1 + 2048 : Nat) : Rat) ≤ nextAt)
  let taps := due.foldl (fun w b => lmsStep (1 / (2 ^ Fld.get ⟨0, 4⟩ loop : Nat)) w b.2 (blockError eArr m.symAt b.1)) m.taps
  let (g1, g2) := Config.loopGain ((2 ^ Fld.get ⟨8, 3⟩ loop : Nat) : Rat)
  let te := Config.timingError ((m.eqOut.map fun v => (v.x.re, v.x.im)))
  let clock := max (-20000) (min 20000 (m.clock + g2 * te))
  let drop := (nextAt.floor.toNat - Config.pulseSpan) - m.eqBase
  let freq := pl.2.1 / period * 1000
  let h : RxHeld := ⟨zs, frameMetric c (d.rxTpat c) zs, rx.2.2 + ry.2.2, roundQ freq, roundQ clock⟩
  let cut := (m.decided.length + frameLen) - 32 * frameLen
  d.onRxm c fun m =>
    { m with taps := taps, blocks := m.blocks.filter fun b => !decide (((b.1 + 2048 : Nat) : Rat) ≤ nextAt),
             eqBase := m.eqBase + min drop m.eqOut.length, eqOut := m.eqOut.drop drop, symAt := nextAt + g1 * te, clock := clock,
             freq := freq, phase := pl.2.2 - pl.2.2.floor, phaseX := rx.2.1, phaseY := ry.2.1, held := m.held ++ [h],
             decided := (m.decided ++ dec).drop cut,
             decidedAt := (if m.decided = [] then (d.time : Rat) - period * (frameLen : Rat) else m.decidedAt) + period * cut }

/-- Whole frames of equalised samples are recovered. -/
def Dev.rxRecoverAll (d : Dev) (c : Nat) : Nat → Dev
  | 0 => d
  | n + 1 => match (d.rxModem c).nextSymbols with
    | none => d
    | some ys => (d.rxRecover c ys).rxRecoverAll c n

/-- Cancellation acts on a carrier: a native one with rx_en at 1 that is not suspended (R303, R319, R324). -/
def Dev.cancels (d : Dev) (c : Nat) : Bool :=
  !d.cZr c && (d.actReg (xhBase c)).getLsbD 1 && !d.bit (xhBase c + 0x30) 8

/-- The decisions that cancel the oldest frame that waits have come: those of the next frame, and of each neighbour present. -/
def Dev.cancelCovered (d : Dev) (c : Nat) : Bool :=
  let m := d.rxModem c
  let s := d.symStream c true
  decide (2 ≤ m.held.length) && (List.range 4).all fun slot =>
    match (d.slotsInForce c true).getD slot (0, 0, 0) with
    | (1, u, _) => d.bit (aXhStat c) (missBit slot true) ||
        decide (s.until - s.period * ((m.held.length - 2) * frameLen : Nat) ≤ (d.symStream u true).until)
    | _ => true

/-- What a frame shows after cancellation and demapping: the frame for the states and the delineation (R171, R284, R291), and its
estimates (R293). -/
def Dev.rxFrameOf (d : Dev) (c : Nat) (h : RxHeld) (zs : List Pol) : RxFrame × Rat × Rat :=
  let m := d.rxModem c
  let (f, e) := d.rxFormat c
  let ps := pilotsOf zs
  let xs := pilots c (d.rxTpat c)
  let nx := meanQ (List.zipWith (fun y x => (y.x.sub x.x).norm2) ps xs) / 2
  let ny := meanQ (List.zipWith (fun y x => (y.y.sub x.y).norm2) ps xs) / 2
  let scale := Fld.get ⟨0, 5⟩ (d.actReg (carrBase c + 0x22C))
  let llrs := frameLlrs f e scale (if m.noiseX = 0 then nx else m.noiseX) (if m.noiseY = 0 then ny else m.noiseY) zs
  ({ use := h.use, trainAt := decide (500 ≤ h.use.corrX ∧ 500 ≤ h.use.corrY), unsat := (List.range (fmtPeriod f)).map (phaseChecks f llrs),
     slips := h.slips, offset := h.offset, timing := h.timing, llrs := llrs }, nx, ny)

/-- The oldest frame that waits is cancelled and demapped. -/
def Dev.rxDemap (d : Dev) (c : Nat) (h : RxHeld) : Dev × RxFrame :=
  let m := d.rxModem c
  let s := d.symStream c true
  let n0 : Int := (m.decided.length : Int) - (m.held.length * frameLen : Nat)
  let b := d.bankHead c true
  let zs := if d.cancels c then
      h.syms.zipIdx.map fun q => Pol.sub q.1 ((d.perturbation c true b s (n0 + (q.2 : Int))).scale (xhShare true b))
    else h.syms
  let (r, nx, ny) := d.rxFrameOf c h zs
  let locked := decide (d.rxState c = rxLocked)
  let d1 := d.onRxm c fun m =>
    { m with held := m.held.drop 1, noiseX := nx, noiseY := ny, estFrames := m.estFrames + 1,
             estLocked := m.estLocked + locked.toNat, estNoise := if locked then m.estNoise + 8160 * (nx + ny) else m.estNoise,
             estPilots := if locked then m.estPilots + 8160 else m.estPilots,
             estFreq := if locked then m.estFreq + h.offset else m.estFreq,
             estClock := if locked then m.estClock + h.timing else m.estClock }
  (if d.cancels c then d1.countMissing c true b else d1, r)

/-- Frames that wait are demapped in order, as far as their decisions have come. -/
def Dev.rxDemapAll (d : Dev) (c : Nat) : Nat → Dev × List RxFrame
  | 0 => (d, [])
  | n + 1 => match (d.rxModem c).held with
    | [] => (d, [])
    | h :: _ =>
      if d.cancels c && !d.cancelCovered c then (d, [])
      else
        let (d1, r) := d.rxDemap c h
        let (d2, rs) := d1.rxDemapAll c n
        (d2, r :: rs)

/-- The samples of one carrier frame go through the stages of a native carrier. -/
def Dev.rxNative (d : Dev) (c : Nat) (codes : List (List Int)) : Dev × List RxFrame :=
  let d1 := d.rxFront c codes
  let d2 := d1.rxRecoverAll c ((d1.rxModem c).eqOut.length / 163840 + 1)
  d2.rxDemapAll c (d2.rxModem c).held.length

/-- The 400ZR receiver takes the place of the native stages (R290): tentative decisions for the neighbours, client bits, counters,
and the measurement that the acquisition gives. A loss of 400ZR frame alignment is a physical loss. -/
def Dev.rxZr (d : Dev) (c : Nat) (codes : List (List Int)) (a : Acq) : Dev × List RxFrame :=
  let (dec, bits, corrected, bad, aligned) := Config.zrReceive codes
  let syms := dec.map fun q => (⟨⟨q.1.1, q.1.2⟩, ⟨q.2.1, q.2.2⟩⟩ : Pol)
  let d1 := d.onRxm c fun m =>
    { m with zr := m.zr ++ bits, zrLost := !aligned, decidedAt := if m.decided = [] then (d.time : Rat) - symPeriod true 0 * syms.length else m.decidedAt,
             decided := m.decided ++ syms }
  (((d1.count c 9 0 corrected true).count c 0xA 0 bad).pmCorrected c corrected bad, [{ use := (a.cands.map Prod.fst).headD ⟨0, 0, 0, 0⟩ }])

/-- Samples about the training block of candidate `q` where the acquisition has found it, as the start of the equaliser takes them
(R275): derotated, resampled at the candidate's working rate, dispersion compensated. -/
def Dev.searchBlock (d : Dev) (c : Nat) (codes : List (List Int)) (a : Acq) (q : Nat) : List Pol :=
  let rate := Fld.get ⟨0, 11⟩ ((d.carrier c).cands.getD q (0, 0)).1
  let fs := d.sampleRate (c / 6)
  let ws := resample (d.inputStage c codes) fs (d.fofsGHz c + a.offset / 1000) (workStep fs rate 0) 0 0
  let cd := allPass (d.cdFound c a) ((rate : Rat) * 5 / 32) (d.centreGHz c) (Pol.through (dft ws.length) ws)
  let xs := (Pol.through (idft ws.length) cd)
  let at_ := ((a.cands.getD q (⟨0, 0, 0, 0⟩, 0)).2)
  ((List.replicate 1024 ({} : Pol) ++ xs).drop at_).take 4096

/-- In a search the samples about each candidate's training block are kept, 8 of them, and the frame counts for the estimates. -/
def Dev.rxTrain (d : Dev) (c : Nat) (codes : List (List Int)) (a : Acq) : Dev :=
  let d1 := d.onRxm c fun m => { m with estFrames := m.estFrames + 1 }
  if (codes.getD 0 []).isEmpty then d1
  else each (List.range (min 4 a.cands.length)) (fun q d =>
    let b := d.searchBlock c codes a q
    d.onRxm c fun m => { m with train := SMap.put m.train q [] ((b :: SMap.get m.train q []).take 8) }) d1

/-- The modem has locked on a candidate: the equaliser starts from its training blocks, and the stages run from the frame behind the
one whose samples these are. -/
def Dev.rxStart (d : Dev) (c : Nat) (codes : List (List Int)) (a : Acq) : Dev :=
  let q := d.fld (aRxStat c) ⟨3, 2⟩
  let m := d.rxModem c
  let rs := (SMap.get m.train q []).map (Pol.through (dft 4096))
  let sent := Pol.through (dft 4096) (trainingWave ((d.actFld (aCarrSym c) ⟨16, 5⟩ : Rat) / 100) (trainingBlock c (d.rxTpat c)))
  let at_ : Rat := (((a.cands.getD q (⟨0, 0, 0, 0⟩, 0)).2 : Nat) : Rat) + 5 / 4 * (frameLen : Rat)
  let d1 := d.onRxm c fun m =>
    { m with run := true, tail := [], place := 0, turns := 0, clock := if m.run then m.clock else 0,
             cdIn := List.replicate 24576 {}, eqIn := List.replicate 1024 {}, taps := if rs = [] then m.taps else lsStart sent rs,
             tracker := {}, blocks := [], eqBase := 0, eqOut := [], symAt := at_, train := [], freq := a.offset,
             phase := 0, phaseX := 0, phaseY := 0, held := [], decided := [], noiseX := 0, noiseY := 0 }
  if (codes.getD 0 []).isEmpty then d1 else d1.rxFront c codes

/-- The samples of one carrier frame reach the receive modem. -/
def Dev.rxSamples (d : Dev) (c : Nat) (codes : List (List Int)) (a : Acq) : Dev :=
  let st := d.rxState c
  let d0 := ((if st = rxIdle then d else d.adcClips c (clipped codes)).captured c false (codes.map fun l => l.map (BitVec.ofInt 8))).dpTap
    c 0 256 (1 / 4) (codeSamples codes)
  let (d1, rs) :=
    if st = rxSearch then (if d.cZr c then d0 else d0.rxTrain c codes a, [])
    else if st = rxRetest ∨ st = rxLocked then (if d.cZr c then d0.rxZr c codes a else d0.rxNative c codes)
    else (d0, [])
  let d2 := d1.carrierFrameRx c rs a
  if st = rxSearch ∧ d2.rxState c = rxLocked ∧ !d.cZr c then d2.rxStart c codes a else d2

end Sys2Proof.Machine
end

