-- ==== Sys2Proof/Machine/Pcs.lean ====
section
/-!
DEFINITION. The PCS of client ports and idle mapping (R47, R56, R57, R59 to R61, R477): RS(544,514), scrambler, 66B and 257B blocks,
what a port's lanes bring to its flow and what they send. Where IEEE 802.3 and ITU-T G.709 decide, see log entries 103 and 104.
-/
namespace Sys2Proof.Machine
open RegMap

/-! RS(544,514) over GF(2^10), generator x^10 + x^3 + 1, 15 symbols corrected. -/

def gf10X (a : Nat) : Nat := if a.testBit 9 then ((2 * a) % 1024).xor 9 else 2 * a

def gf10Mul (a b : Nat) : Nat :=
  ((List.range 10).foldl (fun (st : Nat × Nat) i => (if b.testBit i then st.1.xor st.2 else st.1, gf10X st.2)) (0, a)).1

def gf10Pow : Nat → Nat
  | 0 => 1
  | n + 1 => gf10X (gf10Pow n)

def gf10Inv (a : Nat) : Nat :=
  ((List.range 9).foldl (fun (st : Nat × Nat) _ => let sq := gf10Mul st.2 st.2; (gf10Mul st.1 sq, sq)) (1, a)).1

/-- A polynomial, constant coefficient first, at x. -/
def gf10Eval (p : List Nat) (x : Nat) : Nat := p.foldr (fun c acc => c.xor (gf10Mul acc x)) 0

/-- The generator polynomial, roots α^0 to α^29, constant coefficient first. -/
def rsGenerator : List Nat :=
  (List.range 30).foldl (fun g i => List.zipWith Nat.xor (0 :: g) (g.map (gf10Mul (gf10Pow i)) ++ [0])) [1]

/-- The 30 parity symbols of 514 data symbols, first symbol the highest coefficient. -/
def rsParity (data : List Nat) : List Nat :=
  let g := (rsGenerator.take 30).reverse
  data.foldl (fun r v =>
    let q := (r.headD 0).xor v
    List.zipWith (fun a c => a.xor (gf10Mul q c)) (r.drop 1 ++ [0]) g) (List.replicate 30 0)

def rsEncode (data : List Nat) : List Nat := data ++ rsParity data

/-- The syndromes of a received word. -/
def rsSyndromes (w : List Nat) : List Nat :=
  (List.range 30).map fun i => let a := gf10Pow i; w.foldl (fun acc v => (gf10Mul acc a).xor v) 0

/-- One step of Berlekamp–Massey, as `bmStep` over the other field. -/
def rsBmStep (syn : List Nat) (st : List Nat × List Nat × Nat × Nat × Nat) (n : Nat) : List Nat × List Nat × Nat × Nat × Nat :=
  let (c, b, len, m, bd) := st
  let disc := (List.range (len + 1)).foldl (fun t i => t.xor (gf10Mul (c.getD i 0) (syn.getD (n - i) 0))) 0
  if disc = 0 then (c, b, len, m + 1, bd)
  else
    let q := gf10Mul disc (gf10Inv bd)
    let sh := List.replicate m 0 ++ b.map (gf10Mul q)
    let c' := (List.range (max c.length sh.length)).map fun i => (c.getD i 0).xor (sh.getD i 0)
    if 2 * len ≤ n then (c', c, n + 1 - len, 1, disc) else (c', b, len, m + 1, bd)

/-- Errors of a received word as (exponent, value): roots of the locator with Forney's values; none where there are too many. -/
def rsErrors (syn : List Nat) : Option (List (Nat × Nat)) :=
  let (loc, _, len, _, _) := (List.range 30).foldl (rsBmStep syn) ([1], [1], 0, 1, 1)
  let omega := (List.range 30).map fun n => (List.range (n + 1)).foldl (fun t i => t.xor (gf10Mul (loc.getD i 0) (syn.getD (n - i) 0))) 0
  let odd := (List.range loc.length).map fun i => if i % 2 = 1 then loc.getD i 0 else 0
  let found := (List.range 544).filterMap fun e =>
    let x := gf10Pow e
    let y := gf10Inv x
    if gf10Eval loc y = 0 then some (e, gf10Mul (gf10Eval (omega.take len) y) (gf10Inv (gf10Eval odd y))) else none
  if len ≤ 15 ∧ found.length = len then some found else none

/-- The data symbols of a received word, the symbols corrected, and whether it is uncorrectable. -/
def rsDecode (w : List Nat) : List Nat × Nat × Bool :=
  let syn := rsSyndromes w
  if syn.all (fun s => decide (s = 0)) then (w.take 514, 0, false)
  else match rsErrors syn with
    | none => (w.take 514, 0, true)
    | some es =>
      ((w.zipIdx.map fun p => match es.find? fun e => decide (e.1 = 543 - p.2) with | some e => p.1.xor e.2 | none => p.1).take 514,
       es.length, false)

/-! Bits of symbols and bytes go least significant first. -/

def lsbBits (n v : Nat) : List Bool := (List.range n).map v.testBit
def lsbNat (bs : List Bool) : Nat := bs.foldr (fun b a => 2 * a + b.toNat) 0

/-! The self-synchronising scrambler x^58 + x^39 + 1. -/

def descramble (st : List Bool) (bs : List Bool) : List Bool × List Bool :=
  let r := bs.foldl (fun (s : List Bool × List Bool) b =>
    ((b ^^ s.2.getD 38 false ^^ s.2.getD 57 false) :: s.1, (b :: s.2).take 58)) ([], st)
  (r.1.reverse, r.2)

def scramble (st : List Bool) (bs : List Bool) : List Bool × List Bool :=
  let r := bs.foldl (fun (s : List Bool × List Bool) b =>
    let v := b ^^ s.2.getD 38 false ^^ s.2.getD 57 false
    (v :: s.1, (v :: s.2).take 58)) ([], st)
  (r.1.reverse, r.2)

/-! 66B blocks: whether a data block, and its 64 bits. -/

abbrev Blk := Bool × List Bool

/-- The block type of a control block. -/
def blkType (b : Blk) : Nat := lsbNat (b.2.take 8)

/-- The block types of control blocks, by their first nibble (IEEE 802.3). -/
def blkTypes : List Nat := [0x1E, 0x2D, 0x33, 0x66, 0x55, 0x78, 0x4B, 0x87, 0x99, 0xAA, 0xB4, 0xCC, 0xD2, 0xE1, 0xFF]

def ctrlBlk (type : Nat) (rest : List Nat) : Blk := (false, lsbBits 8 type ++ rest.flatMap (lsbBits 8))

/-- Idle, local fault, and error in each place. -/
def idleBlk : Blk := ctrlBlk 0x1E (List.replicate 7 0)
def localFault : Blk := ctrlBlk 0x4B [0, 0, 1, 0, 0, 0, 0]
def errorBlk : Blk := (false, lsbBits 8 0x1E ++ (List.replicate 8 (lsbBits 7 0x1E)).flatten)

/-- A block that a PCS accepts. -/
def blkValid (b : Blk) : Bool := b.1 || blkTypes.contains (blkType b) && !decide (b = errorBlk)

/-- Whether a packet is open behind a block. -/
def openAfter (open_ : Bool) (b : Blk) : Bool :=
  if b.1 then open_
  else if blkType b = 0x78 then true
  else if [0x1E, 0x4B].contains (blkType b) || [0x87, 0x99, 0xAA, 0xB4, 0xCC, 0xD2, 0xE1, 0xFF].contains (blkType b) then false
  else open_

/-- Four 66B blocks as a 257B block: a leading 1 for four data blocks; else a 0, a bit for each block, and the blocks, without the second
nibble of the first control block's type. -/
def enc257 (bs : List Blk) : List Bool :=
  if bs.all (fun b => b.1) then true :: bs.flatMap fun b => b.2
  else
    let c := bs.findIdx fun b => !b.1
    false :: bs.map (fun b => b.1) ++ bs.zipIdx.flatMap fun p => if p.2 = c then p.1.2.take 4 ++ p.1.2.drop 8 else p.1.2

/-- The blocks of a 257B block with control blocks from place `j` on; `first` while none of them has been met. -/
def splitCtrl (first : Bool) : List Bool → List Bool → List Blk
  | [], _ => []
  | true :: fs, bs => (true, bs.take 64) :: splitCtrl first fs (bs.drop 64)
  | false :: fs, bs =>
    if first then
      let t := (blkTypes.find? fun t => decide (t % 16 = lsbNat (bs.take 4))).getD 0
      (false, lsbBits 8 t ++ (bs.drop 4).take 56) :: splitCtrl false fs (bs.drop 60)
    else (false, bs.take 64) :: splitCtrl first fs (bs.drop 64)

/-- The four 66B blocks of a 257B block. -/
def dec257 (b : List Bool) : List Blk :=
  if b.headD false then (List.range 4).map fun j => (true, (b.drop (1 + 64 * j)).take 64)
  else if ((b.drop 1).take 4).all id then List.replicate 4 errorBlk
  else splitCtrl true ((b.drop 1).take 4) (b.drop 5)

/-- A 257B block between packets that holds nothing but idles. -/
def idleUnit : List Blk := List.replicate 4 idleBlk

/-! Rate adaptation (R57): whole 257B blocks of idles, between packets. An ordered set is never touched. -/

/-- Up to `n` idle blocks taken out, none within a packet. -/
def dropIdles (open_ : Bool) : Nat → List (List Blk) → List (List Blk)
  | _, [] => []
  | 0, us => us
  | n + 1, u :: us =>
    if !open_ && decide (u = idleUnit) then dropIdles open_ n us else u :: dropIdles (u.foldl openAfter open_) (n + 1) us

/-- `n` idle blocks put in at the first place between packets; where there is none the open packet ends in error (log entry 104). -/
def addIdles (open_ : Bool) (n : Nat) : List (List Blk) → List (List Blk)
  | [] => if open_ then List.replicate n (List.replicate 4 errorBlk) else List.replicate n idleUnit
  | u :: us => if open_ then u :: addIdles (u.foldl openAfter open_) n us else List.replicate n idleUnit ++ u :: us

/-- The stream brought to `n` blocks, as far as idles allow. -/
def adapt (open_ : Bool) (n : Nat) (us : List (List Blk)) : List (List Blk) :=
  if us.length < n then addIdles open_ (n - us.length) us else dropIdles open_ (us.length - n) us

/-! A port. -/

/-- The counter block and index of a port (R477). -/
def Dev.portBlock (d : Dev) (p : Nat) : Nat := 64 + d.fld (aPortMap p) ⟨3, 7⟩ / 64
def Dev.portIndex (d : Dev) (p : Nat) : Nat := d.fld (aPortMap p) ⟨3, 7⟩ % 64 / 2

/-- An event of a port's PCS counts at its index, while the port is enabled (R477). -/
def Dev.portCount (d : Dev) (p evt n : Nat) (value : Bool := false) : Dev :=
  if d.portEn p then d.count (d.portBlock p) evt (d.portIndex p) n value else d

/-- The symbols of lane `i` of a port with the polarity of LANE_CTRL (Table 2-2): bit 2 on receive, bit 1 on transmit. -/
def Dev.polarity (d : Dev) (p bit i : Nat) (l : List (BitVec 10)) : List (BitVec 10) :=
  if d.bit (laneBase ((d.portLanes p).getD i 0)) bit then l.map Config.invertLane else l

/-- The 257B blocks of a decoded codeword; one that is uncorrectable is all errors. -/
def codewordBlocks (r : List Nat × Nat × Bool) : List (Option (List Bool)) :=
  if r.2.2 then List.replicate 20 none else ((pieces 257 20 (r.1.flatMap (lsbBits 10))).1).map some

/-- What the lanes of a port bring: its 257B blocks as 66B blocks, with the counters of its PCS (R47). -/
def Dev.pcsIn (d : Dev) (p : Nat) (lanes : List (List (BitVec 10))) : List (List Blk) × Dev :=
  let q := d.port p
  let n := (d.portLanes p).length
  let got := (List.range n).map fun i => q.inSyms.getD i [] ++ d.polarity p 2 i (lanes.getD i [])
  let (words, rest) := Config.pcsGather n got
  let res := words.map fun w => rsDecode (w.map BitVec.toNat)
  let raw := (res.flatMap codewordBlocks).filter fun b => match b with | some x => !Config.isMarker n x | none => true
  let (units, st) := raw.foldl (fun (a : List (List Blk) × List Bool) b => match b with
    | none => (List.replicate 4 errorBlk :: a.1, a.2)
    | some x => let r := descramble a.2 x; (dec257 r.1 :: a.1, r.2)) ([], q.descr)
  let bad := (units.flatMap fun u => u.filter fun b => !blkValid b).length
  let fixed := (res.filter fun r => decide (0 < r.2.1)).length
  let lost := (res.filter fun r => r.2.2).length
  let syms := res.foldl (fun t r => t + r.2.1) 0
  let d1 := d.onPort p fun q => { q with inSyms := rest, descr := st }
  (units.reverse.map fun u => u.map fun b => if blkValid b then b else errorBlk,
   (((d1.portCount p 1 fixed).portCount p 2 lost).portCount p 3 syms true).portCount p 4 bad)

/-- The stream that a port maps (R59): what its lanes bring while it is up, local fault while it is replaced. -/
def Dev.ingress (d : Dev) (p n : Nat) (lanes : List (List (BitVec 10))) (open_ : Bool) : List (List Blk) × Dev :=
  let (us, d1) := d.pcsIn p lanes
  if d.bit (aPortStat p) 0 && !(d.port p).replaced then (adapt open_ n us, d1)
  else (List.replicate n (List.replicate 4 localFault), d1)

/-- 257B blocks go out on a port: scrambled, with alignment markers, RS(544,514) and the lanes of its rate (R47). -/
def Dev.pcsOut (d : Dev) (p : Nat) (us : List (List Blk)) : Dev :=
  let n := (d.portLanes p).length
  let q := d.port p
  let (bits, st, am) := us.foldl (fun (a : List Bool × List Bool × Nat) u =>
    let r := scramble a.2.1 (enc257 u)
    if a.2.2 + 1 < Config.markerPeriod n then (a.1 ++ r.1, r.2, a.2.2 + 1)
    else (a.1 ++ r.1 ++ (Config.markers n).flatten, r.2, 0)) (q.outBits, q.scr, q.sinceAm)
  let (words, rest) := pieces 5140 bits.length bits
  let code := words.map fun w => (rsEncode (((pieces 10 514 w).1).map lsbNat)).map fun v => (BitVec.ofNat 10 v)
  let lanes := (Config.pcsSpread n code).zipIdx.map fun l => d.polarity p 1 l.2 l.1
  (d.onPort p fun q => { q with scr := st, outBits := rest, sinceAm := am }).emit (.client p lanes)

/-- A port sends blocks of the mapped stream, or as many of local fault, or electrical idle (R60, R61). -/
def Dev.egressSend (d : Dev) (p : Nat) (e : Egress) (us : List (List Blk)) : Dev :=
  match e with
  | .mapped => d.pcsOut p us
  | .localFault => d.pcsOut p (us.map fun _ => List.replicate 4 localFault)
  | .idle => d.emit (.clientIdle p)

/-- What stands for a block that is never delivered (R104): client replacement as PORT_MAP_p.act sets it, unless the port sends no mapped
stream anyway. -/
def Dev.egressHeld (d : Dev) (p : Nat) : Egress :=
  match d.egress p with
  | .mapped => if d.bit (aPortMap p) 10 then .idle else .localFault
  | e => e

end Sys2Proof.Machine
end

