-- ==== Sys2Proof/Machine/TimingCore.lean ====
section
/-!
DEFINITION. The timing core (chapter 12): candidates, selection, the loop as far as its outcome is a rule, holdover, and the
output time counter.
-/
namespace Sys2Proof.Machine
open RegMap

/-- Timing states (Table 12-1). -/
def tsFree : Nat := 0
def tsAcquire : Nat := 1
def tsLocked : Nat := 2
def tsHoldover : Nat := 3
def tsSoftware : Nat := 4

def Dev.tState (d : Dev) : Nat := d.fld aTmStat ⟨0, 3⟩
def Dev.setTState (d : Dev) (st : Nat) : Dev := d.setFld aTmStat ⟨0, 3⟩ st
def Dev.onTm (d : Dev) (f : Timing → Timing) : Dev := { d with tm := f d.tm }

/-- TM_CTRL.mode in force. -/
def Dev.tMode (d : Dev) : Nat := d.actFld 0x4000 ⟨0, 2⟩

/-- The CV limit in 10^-12 (R334). -/
def Dev.cvLimit (d : Dev) : Int := (d.actFld 0x400C ⟨16, 7⟩ : Int) * 1000000

/-- Applies a control value, clamped (R334): TM_CV shows it. -/
def Dev.applyCv (d : Dev) (v : Int) : Dev :=
  let l := d.cvLimit
  let c := clampInt (-l) l v
  let d1 := (d.setReg 0x4020 (BitVec.ofInt 32 c)).onTm fun t => { t with cv := c }
  if l ≤ v.natAbs then d1.setBit aTmStat 9 else d1

/-! Candidates (R338 to R340). -/

def aCand (n : Nat) : Nat := 0x4060 + 4 * n

def Dev.candEn (d : Dev) (n : Nat) : Bool := (d.actReg (aCand n)).getLsbD 0
def Dev.candType (d : Dev) (n : Nat) : Nat := d.actFld (aCand n) ⟨1, 3⟩
def Dev.candIdx (d : Dev) (n : Nat) : Nat := d.actFld (aCand n) ⟨4, 6⟩
def Dev.candPri (d : Dev) (n : Nat) : Nat := d.actFld (aCand n) ⟨10, 4⟩
def Dev.candQl (d : Dev) (n : Nat) : Nat := d.actFld (aCand n) ⟨14, 4⟩

/-- A carrier or a port that a candidate names delivers a clock (R338); other sources are outside. -/
def Dev.candAlive (d : Dev) (n : Nat) : Bool :=
  if d.candType n = 1 then decide (d.rxState (d.candIdx n) = rxLocked)
  else if d.candType n = 2 then d.bit (aPortStat (d.candIdx n)) 0
  else true

/-- Eligible (R340, R342). -/
def Dev.eligible (d : Dev) (n : Nat) : Bool :=
  d.candEn n && d.bit (aCand n) 18 && decide (d.candPri n ≠ 0) && decide (d.candQl n ≠ 15) &&
    (!(d.actReg 0x4000).getLsbD 3 || decide (d.actFld 0x4000 ⟨4, 3⟩ = n))

/-- The best eligible candidate: lowest ql, then lowest pri, then lowest n (R340). -/
def Dev.bestCand (d : Dev) : Option Nat :=
  (List.range 8).foldl (fun best n =>
    if d.eligible n then
      match best with
      | none => some n
      | some m => if d.candQl n * 16 + d.candPri n < d.candQl m * 16 + d.candPri m then some n else some m
    else best) none

/-- The candidate's reference carries a phase (R352): a 1PPS input or the software source. -/
def Dev.phaseRef (d : Dev) (n : Nat) : Bool :=
  decide (d.candType n = 3) || (decide (d.candType n = 0) && (d.actReg (0x4040 + 4 * (d.candIdx n % 4))).getLsbD 30)

/-- A phase reference is in use. -/
def Dev.onPhaseRef (d : Dev) : Bool := match d.tm.inUse with | none => false | some n => d.phaseRef n

/-- TM_STAT.cand and cv_ok follow the candidate in use. -/
def Dev.setInUse (d : Dev) (n : Option Nat) : Dev :=
  let d1 := d.onTm fun t => { t with inUse := n }
  match n with
  | none => d1.setBit aTmStat 6 false
  | some k => (d1.setBit aTmStat 6 true).setFld aTmStat ⟨3, 3⟩ k

/-- TM_STAT.slewing: the counter differs from a target it has (R352). -/
def Dev.slewUpdate (d : Dev) : Dev :=
  let d1 := if d.onPhaseRef then d else d.onTm fun t => { t with lead := 0 }
  d1.setBit aTmStat 10 (decide (d1.tm.lead ≠ 0))

/-- A candidate is selected: ACQUIRE, CV continuous; the phase offset of its first sample is absorbed (R343). In SOFTWARE the loop
stays open (log entry 35). -/
def Dev.select (d : Dev) (n : Nat) : Dev :=
  let d0 := d.onTm fun t => { t with perr := 0, perrOld := 0, absorbed := none, sampled := false, lead := 0 }
  let d1 := ((d0.setInUse (some n)).incFld aTmStat ⟨16, 16⟩).slewUpdate
  if d.tState = tsSoftware then d1 else d1.setTState tsAcquire

/-! Holdover (R348, R349). -/

/-- The valid entries of the averaging window, of ages guard to guard + win. -/
def Dev.holdEntries (d : Dev) : List Int :=
  ((d.tm.history.drop (d.actFld 0x4014 ⟨16, 10⟩)).take (d.actFld 0x4014 ⟨0, 13⟩)).filterMap id

/-- The mean of a list of values; how an inexact mean rounds is left open, so the result is a free one of the two
neighbouring values (log entry 36). -/
def Dev.meanOf (d : Dev) (sum : Int) (n : Nat) : Int × Dev :=
  if n = 0 then (0, d)
  else if sum % n = 0 then (sum / n, d)
  else (sum / n + ((Config.freeValue d.free).toNat % 2 : Nat), { d with free := d.free + 1 })

/-- Holdover is entered: HOLDOVER on the mean of at least 60 valid entries, FREE otherwise. -/
def Dev.enterHoldover (d : Dev) : Dev :=
  let es := d.holdEntries
  let d0 := (d.setInUse none).slewUpdate
  if 60 ≤ es.length then
    let (v, d1) := d0.meanOf (es.foldl (· + ·) 0) es.length
    let d2 := ((d1.applyCv v).setReg 0x4030 (BitVec.ofInt 32 v)).setTState tsHoldover
    if es.length < d.actFld 0x4014 ⟨0, 13⟩ then d2.setBit aTmStat 7 else d2
  else (d0.applyCv 0).setTState tsFree

/-- A second counts when it is spent in LOCKED or SOFTWARE (R348). -/
def Dev.secondGood (d : Dev) : Bool := decide (d.tState = tsLocked ∨ d.tState = tsSoftware)

def Dev.historyStore (d : Dev) : Dev :=
  let (v, d1) := if d.tm.cvN = 0 then (d.tm.cv, d) else d.meanOf d.tm.cvSum d.tm.cvN
  let e := if d.tm.secondOk && d.secondGood then some v else none
  d1.onTm fun t =>
    { t with history := (e :: t.history).take 7800, cvSum := 0, cvN := 0, secondOk := d.secondGood }

def execHistoryStore (s : State) : Answer := s.nextOn Dev.historyStore

/-! The loop update (R334, R341 to R343, R350). -/

/-- Selection in mode 0 and in SOFTWARE, at a loop update (R341). -/
def Dev.reselect (d : Dev) : Dev :=
  match d.tm.inUse, d.bestCand with
  | none, none => d
  | none, some n => d.select n
  | some m, best =>
    if !d.eligible m then
      (match best with
       | some n => d.select n
       | none => if d.tState = tsSoftware then (d.setInUse none).slewUpdate else d.enterHoldover)
    else match best with
      | none => d
      | some n =>
        if d.tState = tsLocked ∧ n ≠ m ∧ ((d.actReg 0x4000).getLsbD 2 ∨ d.candQl n < d.candQl m) then d.select n else d

/-- The bandwidth of a code in mHz (R344). -/
def bandwidth (code : Nat) : Nat := (match code % 3 with | 0 => 1 | 1 => 2 | _ => 5) * 10 ^ (code / 3)

/-- The bandwidth in force: in ACQUIRE the wider of bw and abw. -/
def Dev.loopBandwidth (d : Dev) : Nat :=
  let bw := d.actFld 0x400C ⟨0, 5⟩
  bandwidth (if d.tState = tsAcquire then max bw (d.actFld 0x400C ⟨8, 5⟩) else bw)

/-- The closed loop takes a phase sample; without one CV stays (R334). -/
def Dev.loopCv (d : Dev) : Dev :=
  if d.tm.sampled then
    (d.applyCv (d.tm.cv + Config.cvStep d.loopBandwidth d.tm.perrOld d.tm.perr)).onTm fun t => { t with sampled := false }
  else d

/-- One loop update. -/
def Dev.loopUpdate (d : Dev) : Dev :=
  let d1 := if d.tMode = 0 ∨ d.tState = tsSoftware then d.reselect else d
  let d2 :=
    if d1.tState = tsSoftware then
      (match d1.tm.swCv with
       | some v => (d1.applyCv v).onTm fun t => { t with swCv := none }
       | none => d1)
    else if d1.tState = tsAcquire ∨ d1.tState = tsLocked then d1.loopCv
    else d1
  d2.onTm fun t =>
    { t with cvSum := t.cvSum + t.cv, cvN := t.cvN + 1, secondOk := t.secondOk && d2.secondGood }

/-- R345, R353: the phase error has stayed within the threshold. -/
def Dev.timingLock (d : Dev) : Dev :=
  if d.tState = tsAcquire ∧ d.tm.absorbed.isSome ∧ d.tm.perr.natAbs ≤ 4 * d.actFld 0x4010 ⟨0, 10⟩ then
    let d1 := d.setTState tsLocked
    let off := (List.range 4).all fun n => decide (d.actFld (0x4080 + 4 * n) ⟨0, 3⟩ = 0)
    if d.onPhaseRef && off then (d1.onTm fun t => { t with counter := t.counter - t.lead, lead := 0 }).slewUpdate else d1
  else d

def execTimingLock (s : State) : Answer := s.nextOn Dev.timingLock

/-- An interval in 10^-7 ns brought within half a second of 0. -/
def halfSecond (v : Int) : Int := (v + 5000000000000000) % 10000000000000000 - 5000000000000000

/-- A phase sample of the candidate in use: `err` is its phase against the core in 0.25 ns, for the software source what TM_SWPH was
last written with; the loop's phase error is what remains beside the offset absorbed (R343, R346). A phase reference also gives
the output time counter its target (R352): a 1PPS pulse comes `at_` × 0.25 ns into the microsecond (log entry 114). -/
def Dev.phaseSample (d : Dev) (err : Int) (at_ : Nat) : Dev :=
  match d.tm.inUse with
  | none => d
  | some n =>
    let soft := decide (d.candType n = 3)
    let raw := if soft then d.tm.swPhase.getD 0 else err
    if soft && d.tm.swPhase.isNone then d
    else
      let base := d.tm.absorbed.getD raw
      let e := clampInt (-(2 : Int) ^ 31) ((2 : Int) ^ 31 - 1) (raw - base)
      let d1 := d.onTm fun t =>
        { t with perrOld := t.perr, perr := e, absorbed := some base, sampled := true, swPhase := if soft then none else t.swPhase }
      let d2 := if d.tState = tsSoftware then (d1.setReg 0x4024 (BitVec.ofInt 32 e)).incFld 0x4028 ⟨0, 16⟩ else d1
      let ofs := Fld.int ⟨0, 30⟩ (d.actReg 0x4094) * 10000000
      let ahead : Int := if soft then raw * 2500000 else d.tm.counter + (at_ : Int) * 2500000
      if d.onPhaseRef then (d2.onTm fun t => { t with lead := halfSecond (ahead + ofs) }).slewUpdate else d2

def execPhaseSample (err : Int) (at_ : Fin 4000) (s : State) : Answer := s.nextOn fun d => d.phaseSample err at_

/-! Pulse and clock outputs, and the state pins (R350, R352, R354). -/

/-- The level of PULSE_OUTn: 1PPS and the band-frame pulse are high for wid × 100 ns, the 8 kHz and user outputs for half a period. -/
def Dev.pulseLevel (d : Dev) (n : Nat) : Bool :=
  let w := d.actReg (0x4080 + 4 * n)
  let wid := Fld.get ⟨3, 8⟩ w
  let per : Int := d.actFld 0x4090 ⟨0, 30⟩
  match Fld.get ⟨0, 3⟩ w with
  | 1 => decide (d.tm.counter % 10000000000000000 < (wid : Int) * 1000000000)
  | 2 => decide (d.tm.counter % 1250000000000 < 625000000000)
  | 3 => decide (d.time < d.bmfAt + 100 * wid)
  | 4 => decide (d.tm.counter % (per * 100000000) < per * 50000000)
  | _ => false

/-- The frequency of SYSCLK_OUTn in Hz, 0 while it is off (R354). -/
def Dev.sysclkHz (d : Dev) (n : Nat) : Nat :=
  match d.actFld 0x409C ⟨4 * n, 3⟩ with
  | 1 => 10000000
  | 2 => 25000000
  | 3 => 100000000
  | 4 => 156250000
  | _ => 0

/-- R336: source 8 of the hub die, whose class is fixed at SAFE. -/
def execSysoscLoss (s : State) : Answer := .next (s.fault 12 8)

/-- A frequency measured at `ppb` from nominal lies within ±TM_QUAL.ppm (R338). -/
def Dev.inRange (d : Dev) (ppb : Int) : Bool := decide (ppb.natAbs ≤ 1000 * d.actFld 0x4018 ⟨0, 7⟩)

/-- A monitor of an enabled candidate fails (R338). -/
def Dev.disqualify (d : Dev) (n : Nat) (why : MonFail) : Dev :=
  let fails := match why with
    | .frq ppb => !d.inRange ppb
    | .los => !(decide (d.candType n = 1 ∨ d.candType n = 2) && d.candAlive n)
  if d.candEn n && fails then
    ((d.setFld (aCand n) ⟨18, 2⟩ 0).setBit (aCand n) (match why with | .frq _ => 21 | .los => 20)).onTm fun t =>
      { t with requal := t.requal.filter (· ≠ n) }
  else d

/-- All monitors of a disqualified candidate pass again, its frequency `ppb` from nominal (R339); after a timing cluster reset without
a wait (R351). -/
def Dev.monitorsPass (d : Dev) (n : Nat) (ppb : Int) : Dev :=
  if d.candEn n && !d.bit (aCand n) 18 && d.candAlive n && d.inRange ppb then
    if d.tm.requal.contains n then
      (d.setBit (aCand n) 18).onTm fun t => { t with requal := t.requal.filter (· ≠ n) }
    else d.setBit (aCand n) 19
  else d

def execCandidateDisqualify (n : Fin 8) (why : MonFail) (s : State) : Answer := s.nextOn fun d => d.disqualify n why

def execCandidateMonitorsPass (n : Fin 8) (ppb : Int) (s : State) : Answer := s.nextOn fun d => d.monitorsPass n ppb

/-- R339. -/
def execWaitToRestoreEnd (n : Fin 8) (s : State) : Answer :=
  s.nextOn fun d => if d.bit (aCand n) 19 then (d.setBit (aCand n) 19 false).setBit (aCand n) 18 else d

/-- R347. -/
def execSoftwareTimeout (s : State) : Answer :=
  s.nextOn fun d =>
    if d.tState = tsSoftware then
      (((d.setBit aTmStat 8).event .timing 12 0).enterHoldover).onTm fun t => { t with swCv := none }
    else d

/-! Writes (R346, R338) and the commit (R350). -/

/-- A TM_CV write is rejected outside SOFTWARE, or beyond the limit. -/
def Dev.tmCvBad (d : Dev) (w : Word) : Bool :=
  decide (d.tState ≠ tsSoftware) || decide (d.cvLimit < w.toInt.natAbs)

/-- A TM_CV write waits for the next loop update. -/
def Dev.tmCvWritten (d : Dev) (w : Word) : Dev := d.onTm fun t => { t with swCv := some w.toInt }

def Dev.tmSwphWritten (d : Dev) (w : Word) : Dev := d.onTm fun t => { t with swPhase := some w.toInt }

/-- What a commit of the timing cluster does beside taking its fields: a written mode acts, and candidates that are
disabled or name another source lose their qualification. `old` is the device before the commit. -/
def Dev.timingCommitted (d old : Dev) : Dev :=
  let d1 := each (List.range 8) (fun n d =>
    if d.candEn n && decide (d.candType n = old.candType n) && decide (d.candIdx n = old.candIdx n) then d
    else d.setFld (aCand n) ⟨18, 2⟩ 0) d
  let ofs (x : Dev) := Fld.int ⟨0, 30⟩ (x.actReg 0x4094)
  let d2 := (d1.onTm fun t => { t with lead := t.lead + (ofs d1 - ofs old) * 10000000 }).slewUpdate
  let d2 := if d2.tState = tsFree then d2 else d2.applyCv d2.tm.cv
  if !d2.tm.modeWritten then d2
  else
    let d3 := d2.onTm fun t => { t with modeWritten := false }
    match d3.tMode with
    | 1 => (d3.setTState tsSoftware).onTm fun t => { t with swCv := none }
    | 2 => (((d3.setInUse none).slewUpdate).applyCv 0).setTState tsFree
    | 3 => d3.enterHoldover
    | _ =>
      if d3.tState = tsSoftware ∨ d3.tState = tsHoldover then
        (match d3.bestCand with
         | some n => (d3.setTState tsAcquire).select n
         | none => d3.enterHoldover)
      else d3

end Sys2Proof.Machine
end

