-- ==== Sys2Proof/Machine/Wake.lean ====
section
/-!
DEFINITION. Waking the device (R490 to R494), and when its base address registers answer (R388, R536): shared by the host
interface, the register accesses and the power controller.
-/
namespace Sys2Proof.Machine

/-- PWR_STAT.state: 0 RUN, 1 IDLE, 2 SLEEP, 3 DEEP, 4 OFF. -/
def Dev.pwrState (d : Dev) : Nat := d.fld aPwrStat ⟨0, 3⟩
def Dev.pwrBusy (d : Dev) : Bool := d.bit aPwrStat 3
def Dev.onPw (d : Dev) (f : Power → Power) : Dev := { d with pw := f d.pw }

/-- The BARs answer: the boot has ended and the device is not on its way to OFF. -/
def Dev.barOpen (d : Dev) : Bool := decide (d.boot = .ready) && decide (d.pwrState ≠ 4)

/-- An access to a BAR that does not answer: discarded and counted during a boot and in boot recovery (R536); in reset and in
OFF nothing counts. -/
def Dev.barClosed (d : Dev) : Dev :=
  match d.boot with
  | .running | .recovery => d.satFld aHiDisc ⟨0, 16⟩
  | _ => d

/-- A transition to `st` starts, or waits for the voltage step that runs (R503). -/
def Dev.pwrGo (d : Dev) (st : Nat) : Dev :=
  let d1 := d.setBit aPwrStat 3
  if d.pw.steps = [] then d1.onPw fun p => { p with to_ := some st, window := false }
  else d1.onPw fun p => { p with after := some st }

/-- An entry to a gated state runs. -/
def Dev.entering (d : Dev) : Bool :=
  d.pwrBusy && (match d.pw.to_, d.pw.after with
    | some t, _ => decide (2 ≤ t)
    | none, some t => decide (2 ≤ t)
    | none, none => false)

/-- The wake proper: from SLEEP or DEEP to the state that PWR_CFG.wake_to names. -/
def Dev.wakeNow (d : Dev) (src : Nat) : Dev :=
  if (d.pwrState = 2 ∨ d.pwrState = 3) ∧ !d.pwrBusy then
    (d.setFld aPwrStat ⟨8, 3⟩ src).pwrGo (d.fld aPwrCfg ⟨0, 1⟩)
  else d

/-- The source of a wake that follows on the running entry: of several, the lower code (R494). -/
def Dev.wakeLater (d : Dev) (src : Nat) : Dev :=
  d.onPw fun p => { p with wakeDue := some (match p.wakeDue with | none => src | some o => min o src) }

/-- An entry is aborted: the device stays in the state it left. -/
def Dev.entryAbort (d : Dev) : Dev :=
  (((d.setBit aPwrStat 3 false).setBit aPwrStat 5).onPw fun p =>
    { p with to_ := none, window := false, wakeDue := none, after := none }).event .entryAbort 12 0

/-- An event of wake source `src`, of the management class or of the traffic class, an edge or a level (R490, R492). -/
def Dev.wake (d : Dev) (src : Nat) (management edge : Bool) : Dev :=
  if d.entering then
    if management && !d.pw.window then d.entryAbort
    else if management && edge then (d.setBit aPwrStat 4).satFld aPwrStat ⟨16, 16⟩
    else d.wakeLater src
  else d.wakeNow src

/-- The device is gated: accesses wait until it has woken (R493). -/
def Dev.asleep (d : Dev) : Bool := decide (d.pwrState = 2 ∨ d.pwrState = 3) || d.entering

end Sys2Proof.Machine
end

