-- ==== Sys2Proof/Machine/Host.lean ====
section
/-!
DEFINITION. The host interface (chapter 14): functions, tenants and their binding, the registers of a ring block, doorbells,
descriptor reads, arbitration and its checks, cancels, message moderation, the owner's grants, telemetry, STAT_READ,
ENGINE (R242, R244) and the capture ring (R408).
-/
namespace Sys2Proof
open Machine

/-! Fields of a descriptor (Table 14-4). -/

/-- Parameter byte `n` of the descriptor, numbered as in the descriptor (28 to 63). -/
def Desc.p8 (d : Desc) (n : Nat) : Nat := (d.par.getD (n - 28) 0).toNat
/-- Little-endian parameter of two bytes, and of four. -/
def Desc.p16 (d : Desc) (n : Nat) : Nat := d.p8 n + 256 * d.p8 (n + 1)
def Desc.p32 (d : Desc) (n : Nat) : Nat := d.p16 n + 65536 * d.p16 (n + 2)

/-- The parameter bytes an operation has, with their unreserved bits (Tables 14-6 and 14-8). Record kinds of TELEM_SUB are
numbered from BOH in the order of Table 14-9. -/
def parMasks (op : Nat) : Option (List (Nat × Nat)) :=
  match op with
  | 0x0000 | 0x0011 | 0x0103 | 0x0200 | 0x0300 => some []
  | 0x0010 => some [(28, 0x3F), (29, 1), (30, 0xFF), (31, 0xFF), (32, 1)]
  | 0x0020 | 0x0201 | 0x0203 => some [(28, 3)]
  | 0x0030 => some [(28, 1)]
  | 0x0100 => some [(28, 0xFF), (29, 0x0F), (30, 0x3F)]
  | 0x0101 => some [(28, 0xFF), (29, 0x0F)]
  | 0x0102 => some [(28, 0xFF), (29, 1), (30, 0x0F)]
  | 0x0110 => some [(28, 0xFF), (29, 0xFF), (30, 0xFF), (31, 0xFF), (32, 1)]
  | 0x0120 => some [(28, 7), (29, 0xFF)]
  | 0x0130 => some [(28, 1), (29, 1), (30, 0xFF), (31, 0xFF), (32, 0xFF), (33, 0xFF)]
  | 0x0140 => some [(28, 3), (29, 3), (30, 0xFF), (31, 0x0F), (32, 0xFF), (33, 0xFF)]
  | 0x0202 => some ([(28, 0x0F), (29, 7)] ++ (List.range 32).map fun i => (32 + i, 0xFF))
  | 0x0210 => some [(28, 7), (29, 0x0F)]
  | _ => none

/-- A reserved bit is set in flags or in par. -/
def Desc.badBits (d : Desc) (masks : List (Nat × Nat)) : Bool :=
  decide (d.flags.toNat &&& 0xF9 ≠ 0) ||
    (List.range 36).any fun i =>
      decide (d.p8 (28 + i) &&& (0xFF - ((masks.find? fun m => m.1 = 28 + i).map fun m => m.2).getD 0) ≠ 0)

/-- The operation stands on a ring (Tables 14-6 and 14-8, R408). -/
def opOnRing (k : RingKind) (op : Nat) : Bool :=
  match k with
  | .command => decide (op < 0x200)
  | .overhead => decide (0x200 ≤ op ∧ op < 0x300)
  | .capture => decide (op = 0x300)
  | _ => false

/-- BADOP (Table 14-5). -/
def Desc.badOp (d : Desc) (k : RingKind) : Bool :=
  match parMasks d.op.toNat with
  | none => true
  | some ms => !opOnRing k d.op.toNat || d.badBits ms

/-- The object of an overhead descriptor (R406): layer and number. -/
def Desc.ohLayer (ds : Desc) : Nat := Fld.get ⟨13, 3⟩ ds.obj
def Desc.ohNum (ds : Desc) : Nat := Fld.get ⟨0, 13⟩ ds.obj

/-- The key of the overhead object that a descriptor names. -/
def Desc.ohKey (ds : Desc) : Nat :=
  if ds.ohLayer = 0 then ds.ohNum else if ds.ohLayer = 1 then 4096 + ds.ohNum else 4160 + ds.ohNum

/-- The ring does not reach the overhead that an operation names (Table 5-12, R152). -/
def Desc.ohRefused (ds : Desc) : Bool :=
  let x := ds.p8 28
  match ds.ohLayer, ds.op.toNat with
  | 0, 0x0202 => decide (9 < x)
  | _, 0x0202 => decide (ds.ohLayer = 1 ∨ x ≠ 0)
  | 0, 0x0203 => decide (x ≠ 1)
  | 1, 0x0203 => decide (x ≠ 0)
  | _, 0x0203 => decide (x ≠ 1 ∧ x ≠ 2)
  | 0, 0x0210 => decide (x = 2 ∨ x = 4 ∨ 5 < x) || (decide (x = 5) && decide (9 < ds.p8 29))
  | 1, 0x0210 => decide (x ≠ 0 ∧ x ≠ 2)
  | _, 0x0210 => decide (x = 2 ∨ 5 < x) || (decide (x = 5) && decide (ds.p8 29 ≠ 0))
  | _, _ => false

end Sys2Proof

namespace Sys2Proof.Machine
open RegMap

/-! Tenants and functions (R386, R392). -/

def aTenBind (t : Nat) : Nat := 0x1C1000 + 4 * t

def Dev.bound (d : Dev) (t : Nat) : Bool := d.bit (aTenBind t) 13

/-- Vector count of a function. -/
def vecCount (fn : Nat) : Nat := if fn = 0 then 256 else 7

def ringKinds : List RingKind := [.command, .event, .overhead, .telemetry, .capture]

/-- A ring exists at page `t` (Table 14-2). -/
def ringAt (t : Nat) (k : RingKind) : Bool := decide (t = 0) || decide (ringCode k ≤ 2)

/-- One more discarded access (R388, R6). -/
def Dev.discard (d : Dev) : Dev := d.satFld aHiDisc ⟨0, 16⟩

/-- A write to a doorbell page or to the mailbox is rejected: those registers lie in no BAR0 window, so only the REJECT record
is written (R29, R394; log entry 38). -/
def Dev.rejectOutside (d : Dev) (off : Nat) (w : Word) : Dev := d.ownerRecord ⟨.reject, 0, 12, 0, 0, [off, w.toNat]⟩

/-! Halting and disabling (R390, R391). -/

/-- The ring halts. -/
def Dev.ringHalt (d : Dev) (t : Nat) (k : RingKind) : Dev :=
  ((d.onRing t k fun r => { r with stat := r.stat ||| 5#32 }).ringEvent t k).faultLog 12 16

/-- A ring is disabled: commands that won arbitration run to their end, without write-backs. -/
def Dev.ringDisable (d : Dev) (t : Nat) (k : RingKind) : Dev :=
  d.onRing t k fun r =>
    { r with cfg := Fld.set ⟨5, 1⟩ 0 r.cfg, fetched := [], cancelled := [], recvs := [], modHeld := false,
             granted := r.granted.map fun g => { g with drop := true } }

/-- Every ring of every tenant bound to a function is disabled. -/
def Dev.functionOff (d : Dev) (fn : Nat) : Dev :=
  let ts := (List.range 4096).filter fun t => d.bound t && decide (d.fnOf t = fn)
  each ts (fun t d => each ringKinds (fun k d => if (d.ring t k).en then d.ringDisable t k else d) d) d

/-! The registers of a ring block (R394, Table 14-3). -/

/-- RING_CFG after a write; a ring that is enabled starts at index 0. The owner's event ring gets the ready event (R537). -/
def Dev.ringCfgWritten (d : Dev) (t : Nat) (k : RingKind) (w : Word) : Dev :=
  let was := (d.ring t k).en
  if !w.getLsbD 5 && was then
    (d.ringDisable t k).onRing t k fun r => { r with cfg := w }
  else
    let d1 := d.onRing t k fun r =>
      if w.getLsbD 5 && !was then
        { r with cfg := w, idx := 0, db := 0, stat := 0, fetched := [], cancelled := [], recvs := [], lost := 0, cnt := 0 }
      else { r with cfg := w }
    if d1.readyDue && decide (t = 0 ∧ k = .event) && w.getLsbD 5 then { d1 with readyDue := false }.event .ready 12 0 else d1

/-- A RING_CFG write is rejected. -/
def Dev.ringCfgBad (d : Dev) (t : Nat) (k : RingKind) (w : Word) : Bool :=
  let r := d.ring t k
  badValue ⟨.ringCfg, 8, [], .none, [rwR 0 5 4 16 4, rw 5 1 0, rw 6 1 0, rw 8 8 0, rw 16 8 0]⟩ w ||
    decide (vecCount (d.fnOf t) ≤ Fld.get ⟨8, 8⟩ w) ||
    (r.en && decide (Fld.get ⟨0, 5⟩ w ≠ r.lsize ∨ Fld.get ⟨8, 8⟩ w ≠ r.vec))

/-- R394, the row of a RING_CFG write. -/
def Dev.ringCfgWrite (d : Dev) (t : Nat) (k : RingKind) (w : Word) : Dev :=
  if d.ringCfgBad t k w then d.rejectOutside (0x1000 * t + 0x40 * ringCode k + 8) w else d.ringCfgWritten t k w

/-! Doorbells (R395, R398). -/

/-- The index rule of R395. -/
def Ring.doorbellOk (r : Ring) (k : RingKind) (n : BitVec 16) : Bool :=
  if ringProduced k then decide ((r.idx - n).toNat ≤ (r.idx - r.db).toNat)
  else decide ((r.db - r.idx).toNat ≤ (n - r.idx).toNat ∧ (n - r.idx).toNat ≤ 2 ^ r.lsize)

/-- The LOST record is written as space returns (R398). -/
def Dev.lostRecord (d : Dev) (t : Nat) (k : RingKind) : Dev :=
  let r := d.ring t k
  if decide (0 < r.lost) && decide (r.used < 2 ^ r.lsize) then
    (d.onRing t k fun r => { r with lost := 0 }).record t k ⟨.lost, 0, 12, 0, t, [r.lost]⟩
  else d

/-- Reads of `n` descriptors from index `i` on are requested of the host. -/
def Dev.fetchAll (d : Dev) (t : Nat) (k : RingKind) (i : BitVec 16) (n : Nat) : Dev :=
  each (List.range n) (fun j d => d.emit (.fetch t k (i + BitVec.ofNat 16 j))) d

/-- A write of index `n` to RING_DB. In a gated device it is recorded, and its descriptors are read after the wake (R493). -/
def Dev.doorbell (d : Dev) (t : Nat) (k : RingKind) (n : BitVec 16) : Dev :=
  let r := d.ring t k
  if r.doorbellOk k n then
    let d1 := (d.onRing t k fun r => { r with db := n }).count pcHost 1 0 1
    if ringProduced k then d1.lostRecord t k
    else if r.halted || !r.en then d1
    else if d.asleep then d1.onPw fun p => { p with dbWait := p.dbWait ++ [(t, k, r.db, (n - r.db).toNat)] }
    else d1.fetchAll t k r.db (n - r.db).toNat
  else (d.onRing t k fun r => { r with stat := r.stat ||| 2#32 }).ringEvent t k

def execDoorbell (t : Fin 4096) (r : RingKind) (idx : BitVec 16) (s : State) : Answer :=
  s.nextOn fun d =>
    if !d.barOpen then d.barClosed
    else if d.bound t && ringAt t r then (d.wake 1 true true).doorbell t r idx
    else d.discard

def execRingEnable (t : Fin 4096) (r : RingKind) (data : Word) (s : State) : Answer :=
  s.nextOn fun d =>
    if !d.barOpen then d.barClosed else if d.bound t && ringAt t r then d.ringCfgWrite t r data else d.discard

/-! Cancels (R405, Table 14-7). -/

/-- A fetched command is taken out of its ring. -/
def Dev.unfetch (d : Dev) (t : Nat) (k : RingKind) (i : BitVec 16) : Dev :=
  d.onRing t k fun r => { r with fetched := r.fetched.filter fun e => e.1 ≠ i }

/-- A write of index `i` to RING_CANCEL. -/
def Dev.cancel (d : Dev) (t : Nat) (i : BitVec 16) : Dev :=
  let r := d.ring t .command
  match r.fetched.find? fun e => e.1 = i with
  | some (_, ds) => (d.complete t .command ⟨i, ds, false, false⟩ stCancelled).unfetch t .command i
  | none =>
    if (match r.granted with | some g => decide (g.idx = i) | none => false) then
      d.onRing t .command fun r => { r with granted := r.granted.map fun g => { g with late := true } }
    else if decide ((i - r.idx).toNat < (r.db - r.idx).toNat) && !r.cancelled.contains i then
      d.onRing t .command fun r => { r with cancelled := i :: r.cancelled }
    else d.onRing t .command fun r => { r with stat := r.stat ||| 0x10#32 }

def execCancel (t : Fin 4096) (idx : BitVec 16) (s : State) : Answer :=
  s.nextOn fun d => if !d.barOpen then d.barClosed else if d.bound t then d.cancel t idx else d.discard

/-! Reads of descriptors (R390, R396) and the checks of the overhead and capture rings (R152, R406, R408). -/

/-- The tenant may not name the object: layer 0 on flows it owns, and layers 1 and 2 for the owner (R406, Table 5-12). -/
def Dev.ohDenied (d : Dev) (t : Nat) (ds : Desc) : Bool :=
  decide (0xFFFF < ds.obj.toNat) ||
    (match ds.ohLayer with
     | 0 => !((d.flow ds.ohNum).alive && decide ((d.flow ds.ohNum).owner = t))
     | 1 | 2 => decide (t ≠ 0 ∨ 48 ≤ ds.ohNum)
     | _ => true)

/-- The status with which an unfit overhead or capture descriptor completes. -/
def Dev.descRefusal (d : Dev) (t : Nat) (k : RingKind) (ds : Desc) : Option Nat :=
  if ds.badOp k then some stBadop
  else if k = RingKind.overhead ∧ d.ohDenied t ds then some stDenied
  else if k = RingKind.overhead ∧ ds.ohRefused then some stRefused
  else none

/-- Unfit descriptors at the head of an overhead or capture ring complete; a RECV there is posted by its own row. -/
def Dev.ringSettle (d : Dev) (t : Nat) (k : RingKind) : Nat → Dev
  | 0 => d
  | n + 1 =>
    match (d.ring t k).fetched with
    | [] => d
    | (i, ds) :: _ => match d.descRefusal t k ds with
      | none => d
      | some st => ((d.complete t k ⟨i, ds, false, false⟩ st).unfetch t k i).ringSettle t k n

def Dev.settle (d : Dev) (t : Nat) (k : RingKind) : Dev :=
  if k = .command then d else d.ringSettle t k (d.ring t k).fetched.length

/-- The head of a host-produced ring completes, and unfit descriptors behind it. -/
def Dev.headDone (d : Dev) (t : Nat) (k : RingKind) (st : Nat) (res : Word := 0) : Dev :=
  match (d.ring t k).fetched with
  | [] => d
  | (i, ds) :: _ => ((d.complete t k ⟨i, ds, false, false⟩ st res).unfetch t k i).settle t k

/-- A descriptor arrives: a command that was cancelled meanwhile is read for its flags only. -/
def Dev.fetched (d : Dev) (t : Nat) (k : RingKind) (ds : Desc) : Dev :=
  let r := d.ring t k
  let i := r.idx
  let d1 := (d.onRing t k fun r => { r with idx := r.idx + 1, cancelled := r.cancelled.filter (· ≠ i) }).count pcHost 2 0 1
  if r.cancelled.contains i then d1.complete t k ⟨i, ds, false, false⟩ stCancelled
  else (d1.onRing t k fun r => { r with fetched := r.fetched ++ [(i, ds)] }).settle t k

/-- A read for the ring is outstanding: of a descriptor below the producer index, or of a granted command's buffer. -/
def Dev.readsDesc (d : Dev) (t : Nat) (k : RingKind) : Bool :=
  let r := d.ring t k
  r.en && !r.halted && decide (r.idx ≠ r.db)

/-- A read failed: the ring halts, and a granted command whose buffer it was completes as DMAERR (log entry 39). -/
def Dev.readFailed (d : Dev) (t : Nat) (k : RingKind) : Dev :=
  if d.readsDesc t k then d.ringHalt t k
  else if k = .command ∧ (d.ring t k).granted.isSome then (d.completeCommand t stDmaerr).ringHalt t k
  else d

/-- A read completes; after a timeout the completion is counted (R390). -/
def Dev.hostRead (d : Dev) (t : Nat) (k : RingKind) (res : ReadEnd) : Dev :=
  if (d.ring t k).halted then d.satFld aHiDisc ⟨16, 15⟩
  else match res with
    | .data ds => if d.readsDesc t k then d.fetched t k ds else d
    | _ => d.readFailed t k

def execHostReadCompletion (t : Fin 4096) (r : RingKind) (res : ReadEnd) (s : State) : Answer :=
  s.nextOn fun d => if ringProduced r then d else d.hostRead t r res

def execHostReadTimeout (t : Fin 4096) (r : RingKind) (s : State) : Answer :=
  s.nextOn fun d => if ringProduced r || (d.ring t r).halted then d else d.readFailed t r

/-! Function resets (R391) and message moderation (R400). -/

/-- An FLR of PF0 acts on every virtual function as well. -/
def execFunctionLevelReset (fn : Fin 257) (s : State) : Answer :=
  s.nextOn fun d =>
    if fn.val = 0 then each (List.range 257) (fun v d => d.functionOff v) d else d.functionOff fn

def execBusMasterDisable (fn : Fin 257) (s : State) : Answer := s.nextOn fun d => d.functionOff fn

/-- The interval ends: messages held back leave as one, which starts a new interval. -/
def execMsixModerationEnd (t : Fin 4096) (r : RingKind) (s : State) : Answer :=
  s.nextOn fun d =>
    let q := d.ring t r
    if !q.modBusy then d
    else if q.modHeld then (d.emit (.msix (d.fnOf t) q.vec)).onRing t r fun q => { q with modHeld := false }
    else d.onRing t r fun q => { q with modBusy := false }

/-! Arbitration (R402, R403). -/

/-- The tenants whose command ring has a fetched command waiting at engine `e`. -/
def Dev.waiting (d : Dev) (e : Nat) : List Nat :=
  d.rings.filterMap fun p =>
    let t := p.1 / 8
    if p.1 % 8 = 0 ∧ t % 2 = e ∧ p.2.en ∧ ¬ p.2.halted ∧ p.2.granted.isNone ∧ p.2.fetched ≠ [] then some t else none

/-- The ring granted next: the owner's every second time while it waits, the others in turn by tenant number. -/
def Dev.nextGrant (d : Dev) (e : Nat) : Option Nat :=
  let ws := d.waiting e
  let others := ws.filter (· ≠ 0)
  let en := d.engine e
  let turn := match others.find? fun t => decide (en.lastTenant < t) with
    | some t => some t
    | none => others.head?
  if ws.contains 0 && (!en.ownerLast || others = []) then some 0 else turn

/-- DENIED: the op is the owner's, or the tenant does not own the object (Table 14-6). -/
def Dev.cmdDenied (d : Dev) (t : Nat) (ds : Desc) : Bool :=
  let f := ds.obj.toNat
  match ds.op.toNat with
  | 0x0000 => false
  | 0x0010 => !((d.tenant t).grants.any fun g => decide (g.1 = f))
  | 0x0011 | 0x0020 => !((d.flow f).alive && decide ((d.flow f).owner = t))
  | 0x0030 =>
    if t = 0 then false
    else if ds.p8 28 = 0 then !((d.flow f).alive && decide ((d.flow f).owner = t))
    else decide (66 ≤ f) || !(d.bit (pcBase f + 0x70) 2 && decide (d.fld (pcBase f + 0x70) ⟨16, 12⟩ = t))
  | _ => decide (t ≠ 0)

/-- The next command wins arbitration; a failing check completes it at once. A fenced engine grants nothing (R422). -/
def Dev.grantNext (d : Dev) (e : Nat) : Dev :=
  if d.bit aMxFence (5 + e) then d
  else match d.nextGrant e with
  | none => d
  | some t => match (d.ring t .command).fetched with
    | [] => d
    | (i, ds) :: _ =>
      let d1 := (d.onEngine e fun en =>
        { en with lastTenant := if t = 0 then en.lastTenant else t, ownerLast := decide (t = 0) }).unfetch t .command i
      let d2 := d1.onRing t .command fun r => { r with granted := some ⟨i, ds, false, false⟩ }
      if ds.badOp .command then d2.completeCommand t stBadop
      else if d2.cmdDenied t ds then d2.completeCommand t stDenied
      else d2

def execCommandGrant (e : Fin 2) (s : State) : Answer := s.nextOn fun d => d.grantNext e

/-- A ring engine is reset: its fence is released, and the commands it had granted complete as REFUSED (R422). -/
def Dev.engineReset (d : Dev) (e : Nat) : Dev :=
  let ts := d.rings.filterMap fun p => if p.1 % 8 = 0 ∧ p.1 / 8 % 2 = e ∧ p.2.granted.isSome then some (p.1 / 8) else none
  each ts (fun t d => d.completeCommand t stRefused) (d.setBit aMxFence (5 + e) false)

def execRingEngineReset (e : Fin 2) (s : State) : Answer :=
  s.nextOn fun d => if d.bit aMxFence (5 + e) then d.engineReset e else d

/-! Simple commands. A command's row runs the granted command of its operation; with none granted it leaves the state
(log entry 2). -/

/-- The granted descriptor of a tenant, if its operation is `op`. -/
def Dev.granted (d : Dev) (t op : Nat) : Option Desc :=
  match (d.ring t .command).granted with
  | none => none
  | some g => if g.desc.op.toNat = op then some g.desc else none

def execNop (t : Fin 4096) (s : State) : Answer :=
  s.nextOn fun d => if (d.granted t 0x0000).isSome then d.completeCommand t stDone else d

/-- Takes an owner authorisation block: accepted when both signatures verify under enrolled keys and its counter is newer
(R446); the accepted counter is then stored. -/
def Dev.authTake (d : Dev) (a : Auth) : Option Dev :=
  if d.tc.ownerHash.isSome && a.ecdsa && a.mldsa && decide (d.tc.counter < a.counter) then
    some { d with tc := { d.tc with counter := a.counter } }
  else none

/-- An owner's command on grants and bindings with its authorisation (R448): required in the approved mode, optional
outside. -/
def Dev.authorised (d : Dev) (a : Option Auth) : Option Dev :=
  match a with
  | none => if d.tc.approved then none else some d
  | some b => match d.authTake b with
    | some d1 => some d1
    | none => if d.tc.approved then none else some d

/-- An owner's command under its authorisation; `run` answers the status. -/
def Dev.ownerCommand (d : Dev) (op : Nat) (a : Option Auth) (run : Desc → Dev → Dev × Nat) : Dev :=
  match d.granted 0 op with
  | none => d
  | some ds => match d.authorised a with
    | none => d.completeCommand 0 stDenied
    | some d1 => let r := run ds d1; r.1.completeCommand 0 r.2

/-- GRANT: a flow, a port and line slots go to tenant obj. -/
def execGrant (slots : List Nat) (auth : Option Auth) (s : State) : Answer :=
  s.nextOn fun d => d.ownerCommand 0x0100 auth fun ds d =>
    if 4096 ≤ ds.obj.toNat ∨ slots.any (fun x => decide (5120 ≤ x)) then (d, stRefused)
    else (d.onTenant ds.obj.toNat fun t =>
      { t with grants := t.grants ++ [(ds.p16 28, ds.p8 30, slots)] }, stDone)

/-- REVOKE: refused while the flow exists. -/
def execRevoke (auth : Option Auth) (s : State) : Answer :=
  s.nextOn fun d => d.ownerCommand 0x0101 auth fun ds d =>
    let f := d.flow (ds.p16 28)
    if 4096 ≤ ds.obj.toNat ∨ ((f.alive ∨ f.coming) ∧ f.owner = ds.obj.toNat) then (d, stRefused)
    else (d.onTenant ds.obj.toNat fun t => { t with grants := t.grants.filter fun g => g.1 ≠ ds.p16 28 }, stDone)

/-- Any ring of the tenant is enabled. -/
def Dev.anyRing (d : Dev) (t : Nat) : Bool := ringKinds.any fun k => (d.ring t k).en

/-- R392: BIND. -/
def execBind (auth : Option Auth) (s : State) : Answer :=
  s.nextOn fun d => d.ownerCommand 0x0102 auth fun ds d =>
    let t := ds.obj.toNat
    let fn := ds.p16 28
    let taken := decide (fn ≠ 0) && (List.range 4096).any fun u =>
      decide (u ≠ t) && d.bound u && decide (d.fnOf u = fn) && decide (d.fld (aTenBind u) ⟨9, 4⟩ = ds.p8 30)
    if t = 0 ∨ 4096 ≤ t ∨ d.anyRing t ∨ d.numVfs < fn ∨ taken then (d, stRefused)
    else (d.setReg (aTenBind t) (BitVec.ofNat 32 (fn + (if fn = 0 then 0 else ds.p8 30) * 2 ^ 9 + 2 ^ 13)), stDone)

/-- R392: UNBIND. -/
def execUnbind (auth : Option Auth) (s : State) : Answer :=
  s.nextOn fun d => d.ownerCommand 0x0103 auth fun ds d =>
    let t := ds.obj.toNat
    if t = 0 ∨ 4096 ≤ t ∨ d.anyRing t ∨ d.numVfs < d.fnOf t then (d, stRefused)
    else (d.setReg (aTenBind t) 0, stDone)

/-! Telemetry (R137, R409, R473). -/

def execTelemSub (s : State) : Answer :=
  s.nextOn fun d => match d.granted 0 0x0120 with
    | none => d
    | some ds =>
      let sub := if ds.p8 28 = 0 ∨ ds.p8 29 = 0 then none else some (ds.p8 28, ds.p8 29)
      { d with telem := sub }.completeCommand 0 stDone

/-- Payload of a list cut into parts of 32 bytes. -/
def parts (bs : List Byte) : List (Nat × List Nat) :=
  (List.range 16).map fun i => (i, ((bs.drop (32 * i)).take 32).map fun b => b.toNat)

/-- A snapshot as its record carries it: corrected bits, uncorrectable words, BIP, BEI, authentication failures, defect
seconds, and the overflow flag of the corrected bits. -/
def Pm.figures (p : Pm) : List Nat :=
  [p.corrected, p.uncorrectable, p.bip, p.bei, p.authFail, p.defectSeconds, p.wrapped.toNat]

/-- The records of one period: BOH of carriers with an accepted block, EST and PM of enabled carriers, PM of flows. -/
def Dev.telemetry (d : Dev) : Dev :=
  match d.telem with
  | none => d
  | some (kinds, _) =>
    let cs := List.range 48
    let tel (d : Dev) (r : Rec) : Dev := d.record 0 .telemetry r
    let d1 := if kinds.testBit 0 then
        each cs (fun c d => match (d.carrier c).boh with
          | none => d
          | some b => each (parts b.bytes) (fun p d => tel d ⟨.boh, p.1, 8 + c / 12, 0, c, p.2⟩) d) d
      else d
    let d2 := if kinds.testBit 1 then
        each cs (fun c d => if d.cEnabled c then
          tel d ⟨.est, 0, 8 + c / 12, 0, c, (List.range 8).map fun e => (d.reg (carrBase c + 0x260 + 4 * e)).toNat⟩
          else d) d1
      else d1
    if kinds.testBit 2 then
      let d3 := each cs (fun c d => if d.cEnabled c then
        tel d ⟨.pm, 0, 8 + c / 12, 0, c, (d.carrier c).snap.figures⟩ else d) d2
      each (d3.flows.map fun e => e.1) (fun f d => if (d.flow f).alive then
        tel d ⟨.pm, 1, 12, 0, f, (d.flow f).snap.figures⟩ else d) d3
    else d2

def execTelemetryPeriod (s : State) : Answer := s.nextOn Dev.telemetry

/-! STAT_READ (R473, R483). -/

/-- Four bytes of a number, least significant first. -/
def le4 (v : Nat) : List Byte := (List.range 4).map fun i => BitVec.ofNat 8 (v >>> (8 * i))

/-- The words of a counter block in register order (Table 17-6). -/
def Dev.pcWords (d : Dev) (b : Nat) : List Nat :=
  (List.range 53).map fun i =>
    let off := 4 * i
    if (0x50 ≤ off ∧ off < 0x80) ∨ off = 0xD0 then (d.reg (pcBase b + off)).toNat
    else if off = 8 ∨ off = 0xC ∨ off = 0x88 ∨ off = 0x8C then 0
    else d.pcLive b off

def execStatRead (t : Fin 4096) (s : State) : Answer :=
  s.nextOn fun d => match d.granted t 0x0030 with
    | none => d
    | some ds =>
      let o := ds.obj.toNat
      let figures := if ds.p8 28 = 0 then
          (if (d.flow o).alive then some ((d.fdefWord o).toNat :: (d.flow o).snap.figures) else none)
        else if o < 66 then some (d.pcWords o) else none
      match figures with
      | none => d.completeCommand t stRefused
      | some ws =>
        let bytes := (ws.flatMap le4).take ds.len.toNat
        (d.emit (.buffer t bytes)).completeCommand t stDone (BitVec.ofNat 32 bytes.length)

/-! ENGINE (R242, R244, R245). -/

/-- A loop or the carrier state machine owns function `a` of carrier `c` (R242). -/
def Dev.functionOwned (d : Dev) (c a : Nat) : Bool :=
  let b := feBase (c / 6)
  match a with
  | 0 => !d.bit (b + 0x50 + 4 * (c % 6)) 0
  | 1 => d.bit (b + 0x90) 0
  | 3 => d.bit (b + 0x94) 0
  | _ => decide (d.cState c ≠ csOff)

/-- An address of Table 9-1 that is owned. -/
def Dev.addressOwned (d : Dev) (g : Nat) (addr : Nat) : Bool :=
  (List.range 6).any fun a => (List.range 6).any fun x =>
    decide (d.profAddr (6 * g + x) a = BitVec.ofNat 16 addr) && d.functionOwned (6 * g + x) a

/-- An ENGINE command is queued, or starts its I2C transfer; refused transactions complete at once. -/
def Dev.engineCommand (d : Dev) (ds : Desc) (data : List Byte) : Dev :=
  let g := ds.obj.toNat
  if 8 ≤ g ∨ d.busDead g then d.completeCommand 0 stRefused
  else if ds.p8 28 = 0 then
    if d.addressOwned g (ds.p16 30) then d.completeCommand 0 stRefused
    else d.spiPut g ⟨3, ds.p8 29 = 1, BitVec.ofNat 16 (ds.p16 30), BitVec.ofNat 16 (ds.p16 32), true, none, false⟩
  else if d.bit (feBase g + 0xE0) 2 then d.completeCommand 0 stRefused
  else
    (d.onRegion g fun r => { r with i2c := true }).emit
      (.i2c g (d.bit (feBase g + 0xE0) 3) (decide (ds.p8 29 = 1)) (ds.p16 30) (ds.p16 32) data)

def execEngine (data : List Byte) (s : State) : Answer :=
  s.nextOn fun d => match d.granted 0 0x0130 with
    | none => d
    | some ds =>
      if (d.regions.any fun r => r.2.i2c || (r.2.queue ++ r.2.waiting ++ r.2.bus.toList).any fun t => t.ring) then d
      else if ds.p8 28 = 1 ∧ ds.p8 29 = 0 ∧ data.length ≠ ds.p16 32 then d.completeCommand 0 stRefused
      else d.engineCommand ds (if ds.p8 29 = 0 then data else [])

/-! The capture ring (R408). -/

/-- Posted buffers take the bytes of a completed capture in ring order; the last one is marked in res. -/
def Dev.captureFill (d : Dev) : Nat → Dev
  | 0 => d
  | n + 1 =>
    match (d.ring 0 .capture).recvs with
    | [] => d
    | (i, ds, _, _) :: rest =>
      if d.capLeft = 0 then d
      else
        let m := min d.capLeft ds.len.toNat
        let last := decide (d.capLeft ≤ ds.len.toNat)
        let d1 := { d with capLeft := d.capLeft - m }.onRing 0 .capture fun r => { r with recvs := rest }
        (d1.complete 0 .capture ⟨i, ds, false, false⟩ stDone
          (BitVec.ofNat 32 (m + if last then 2 ^ 31 else 0))).captureFill n

/-- CAP_BUF: the head of the capture ring is posted. A buffer must be a multiple of 4 KiB. -/
def Dev.capBuf (d : Dev) : Dev :=
  match (d.ring 0 .capture).fetched with
  | [] => d
  | (i, ds) :: _ =>
    if ds.len.toNat = 0 ∨ ds.len.toNat % 4096 ≠ 0 ∨ 2 ^ 24 < ds.len.toNat then d.headDone 0 .capture stRefused
    else
      let d1 := (d.unfetch 0 .capture i).onRing 0 .capture fun r => { r with recvs := r.recvs ++ [(i, ds, [], false)] }
      (d1.settle 0 .capture).captureFill 1

def execCapBuf (s : State) : Answer := s.nextOn Dev.capBuf

/-- The converters of a region that CAP_MASK selects. -/
def Dev.captureConvs (d : Dev) (g : Nat) : List Nat :=
  (List.range 24).filter fun i => d.bit (cvtBase g + 0x108) i

/-- A code that no command has brought: a free value, of a DAC one from 1 to 255, as code 0 is never driven (R215). -/
def captureCode (dac : Bool) (k : Nat) : Byte :=
  let v := (Config.freeValue k).toNat
  BitVec.ofNat 8 (if dac then v % 255 + 1 else v)

/-- The codes of one converter: a stopped carrier records 128 or 0 (R226), DACs that have sent nothing their mid-code, others what they
gave, and free values where the capture runs past that. -/
def Dev.captureCodes (d : Dev) (g conv n : Nat) (dac : Bool) : Dev :=
  let known : List Byte :=
    if d.cState (6 * g + conv / 4) = csOff then List.replicate n (if dac then 128 else 0)
    else
      let got := SMap.get (d.region g).capCodes conv []
      if dac && got.isEmpty && (d.carrier (6 * g + conv / 4)).midCode then List.replicate n 128 else got
  { d.emit (.codes g conv n known d.free dac) with free := d.free + (n - known.length) }

/-- The header of a capture: its count, the tick, len and src, then mask and status of each region. -/
def Dev.captureHeader (d : Dev) (g : Nat) : List Byte :=
  let w := d.reg (cvtBase g + 0x104)
  le4 d.capCount ++ (le4 (Fld.get ⟨0, 16⟩ w)).take 2 ++
    [BitVec.ofNat 8 (Fld.get ⟨18, 4⟩ w), BitVec.ofNat 8 (Fld.get ⟨16, 2⟩ w)] ++
    (List.range 8).flatMap fun r =>
      (le4 (d.fld (cvtBase r + 0x108) ⟨0, 24⟩)).take 3 ++ [BitVec.ofNat 8 (d.fld (cvtBase r + 0x10C) ⟨0, 3⟩)]

/-- A capture whose regions have all ended is written across the posted buffers, or dropped when none is posted. -/
def Dev.captureFlush (d : Dev) : Dev :=
  let gs := (List.range 8).filter fun g => (d.region g).capDone
  match gs with
  | [] => d
  | g0 :: _ =>
    if (List.range 8).any fun g => d.bit (cvtBase g + 0x104) 31 then d
    else
      let d0 := each gs (fun g d => d.onRegion g fun r => { r with capDone := false }) d
      if (d0.ring 0 .capture).recvs = [] then
        d0.ringEvent 0 .capture
      else
        let len (g : Nat) := 2 ^ d0.fld (cvtBase g + 0x104) ⟨18, 4⟩
        let d1 := d0.emit (.buffer 0 (d0.captureHeader g0 ++ List.replicate 24 0))
        let d2 := each gs (fun g d => each (d.captureConvs g) (fun i d =>
          d.captureCodes g i (len g) (decide (d.fld (cvtBase g + 0x104) ⟨16, 2⟩ = 1))) d |>.onRegion g fun r => { r with capCodes := [] }) d1
        let total := 64 + gs.foldl (fun t g => t + (d0.captureConvs g).length * len g) 0
        let d3 := { d2 with capLeft := total, capCount := (d2.capCount + 1) % 2 ^ 32 }
        d3.captureFill (d3.ring 0 .capture).recvs.length

end Sys2Proof.Machine
end

