-- ==== Sys2Proof/Machine/Boundary.lean ====
section
/-!
DEFINITION. Commit boundaries (R15 to R19, Table 1-3): what each cluster takes and what taking it does — starting, stopping
and changing a carrier (R140, R206 to R209), the framer's thresholds (R150), the cipher's flow by flow, the timing
modes (R350) — with the rows that request, reach or reset a cluster and those that are a boundary themselves.
-/
namespace Sys2Proof.Machine
open RegMap

/-! What taking a carrier's fields does. -/

/-- The carrier is enabled (R140, R206): its counters are cleared (R473), it starts at band multiframe 0, its receive modem
leaves IDLE for NOLIGHT, its first defects are raw-present, and it enters TUNE. That its TTIs, TIM mode and field values start anew is the
model's choice (log entry 120). -/
def Dev.carrierEnable (d : Dev) (c : Nat) : Dev :=
  let fofs := Fld.int ⟨16, 12⟩ (d.actReg (aCarrFreq c))
  let d1 := d.onCarrier c fun k =>
    { k with level := 0, txen := false, convReady := false, unused := false, regrid := none, regridRx := none, prev := none, bmfas := 0,
             acc := 0, block := [], fofsNow := 100 * fofs, pm := {}, snap := {}, degBad := 0, degGood := 0, boh := none,
             sinceBoh := 4, arrival := none, mfRx := 0, loliFirst := true, loliLow := 0, loliHigh := 0, locfBad := 0,
             locfGood := 0, lockedSeen := false, xhFirst := true, xhSeen := none, xhAt := none, xhLate := none,
             xhDiff := 0, xhStop := false, squelch := false, island := none }
  let d2 := (d1.onOverhead (4096 + c) fun _ => {}).onOverhead (4160 + c) fun _ => {}
  let d3 := d2.setReg (xhBase c + 0x34) 0
  let d4 := d3.setCarrRaw c (if d.cZr c then 0x7#11 else 0x1F#11)
  ((d4.enterNolight c).enterTune c).bohUpdate c

/-- The carrier is disabled (R209, R140): its defects cease at once, a lit carrier ramps down sending unused slots in its
previous format, and a dark one goes OFF. `old` is the device before the commit. -/
def Dev.carrierDisable (d old : Dev) (c : Nat) : Dev :=
  let mode := (old.actReg (aCarrSym c), old.actReg (aCarrFmt c), old.actReg (aCarrTx c), old.cZr c)
  let d1 := (d.setCarrRaw c 0).runDrop c
  let st := d1.cState c
  if st = csRun ∨ st = csRampUp ∨ st = csRampDown then
    (d1.rampDown c .disable).onCarrier c fun k => { k with unused := true, prev := some mode, regrid := none, regridRx := none }
  else d1.enterOff c

/-- A committed grid change on a carrier in RUN (R208): it ramps down first, and the transmit fields wait for TUNE. -/
def Dev.gridChanges (d : Dev) (c : Nat) : Bool :=
  decide (d.cState c = csRun) && d.cEnabled c && (d.reg (aCarrCtrl c)).getLsbD 0 &&
    decide (Fld.get ⟨0, 12⟩ (d.reg (aCarrFreq c)) ≠ d.actFld (aCarrFreq c) ⟨0, 12⟩)

/-- Carrier `c` takes its transmit fields. While a grid change waits for TUNE, a later commit changes the fields that wait, and at once
those that need no change procedure. -/
def Dev.carrierTakeTx (d : Dev) (c : Fin 48) : Dev :=
  if d.gridChanges c then
    (d.rampDown c .regrid).onCarrier c fun k =>
      { k with unused := true, regrid := some (d.shadowTx (.carrier c)),
               prev := some (d.actReg (aCarrSym c), d.actReg (aCarrFmt c), d.actReg (aCarrTx c), d.cZr c) }
  else if (d.carrier c).regrid.isSome && (d.reg (aCarrCtrl c)).getLsbD 0 then
    let d1 := each (procedureFields c) (fun e d1 => d1.setAct e.1 (e.2.set (d.actFld e.1 e.2) (d1.actReg e.1)))
      (d.takeShadow (.carrier c) true false)
    d1.onCarrier c fun k => { k with regrid := some (d.shadowTx (.carrier c)) }
  else
    let d1 := (d.takeShadow (.carrier c) true false).shpUpdate c
    if d1.cEnabled c && !d.cEnabled c then d1.carrierEnable c
    else if d.cEnabled c && !d1.cEnabled c then d1.carrierDisable d c
    else d1

/-- SUM_REQ to package `k`, with the carriers named from it (R328, R377). -/
def Dev.sumRequest (d : Dev) (k : Fin 4) : Dev :=
  let own : Fin 4 := Fin.ofNat 4 d.ownPkg
  let cs := (d.remoteNamed [] k).filterMap fun c => if h : c < 48 then some (⟨c, h⟩ : Fin 48) else none
  let d1 := d.sendPkg k (.sumReq ⟨own, k, cs, cs⟩)
  { d1 with bs := { d1.bs with sumWait := k.val :: d1.bs.sumWait.filter (· ≠ k.val) } }

/-- After a committed change of neighbour slots a member of a formed set sends SUM_REQ to each package named before or
after it. -/
def Dev.sumRequests (d old : Dev) : Dev :=
  if d.bit 0x1C00008 0 then
    each (List.finRange 4) (fun k d =>
      if old.remoteNamed [] k = d.remoteNamed [] k then d else d.sumRequest k) d
  else d

/-- Carrier `c` takes its receive fields, those committed with a grid change as it enters TUNE (R208). -/
def Dev.carrierTakeRx (d : Dev) (c : Fin 48) : Dev :=
  if (d.gridChanges c || (d.carrier c).regrid.isSome) && (d.reg (aCarrCtrl c)).getLsbD 0 then
    d.onCarrier c fun k => { k with regridRx := some (d.shadowRx (.carrier c)) }
  else d.takeShadow (.carrier c) false true

/-- A carrier's fields of either direction are taken; both taken, the commit is done. -/
def Dev.carrierTake (d : Dev) (c : Fin 48) (tx rx : Bool) : Dev :=
  let q := d.cluster c
  let d1 := if tx && !q.txDone then d.carrierTakeTx c else d
  let d2 := if rx && !q.rxDone then d1.carrierTakeRx c else d1
  let d3 := (d2.onCluster c fun q => { q with txDone := q.txDone || tx, rxDone := q.rxDone || rx }).sumRequests d
  if (d3.cluster c).txDone && (d3.cluster c).rxDone then
    d3.commitDone (.carrier c)
  else d3

/-! The cipher clusters, flow by flow. -/

/-- Active CIPH_CTRL of cipher cluster `x`. -/
def Dev.ciphActive (d : Dev) (x : Nat) : Word := if x = 0 then d.actReg 0x180000 else d.actRxReg 0x180000

/-- CIPH_CTRL and SPOT_CTRL in force for a flow. -/
def Dev.flowCtl (d : Dev) (f : Nat) : Word := ((d.flow f).ctl).getD (d.ciphActive (d.flow f).cl)
def Dev.flowSpot (d : Dev) (f : Nat) : Word := ((d.flow f).spot).getD (d.actReg (0x180010 + 4 * (d.flow f).cl))

/-- Flows of cluster `x` that have not reached their boundary yet. -/
def Dev.flowsToTake (d : Dev) (x : Nat) : List Nat :=
  (d.cluster (58 + x)).flowsLeft.filter fun f => (d.flow f).alive && decide ((d.flow f).cl = x)

/-- Every flow has taken the new values: they are the cluster's. -/
def Dev.cipherDone (d : Dev) (x : Fin 2) : Dev :=
  let d1 := each (d.flows.map fun e => e.1)
    (fun f d => if (d.flow f).cl = x.val then d.onFlow f fun w => { w with ctl := none, spot := none } else d) d
  let a := 0x180010 + 4 * x.val
  let d2 := d1.setAct a (d1.reg a)
  let d3 := if x = 0 then d2.setAct 0x180000 (d2.reg 0x180000)
    else { d2 with actRx := SMap.put d2.actRx 0x180000 (resetAt 0x180000) (d2.reg 0x180000) }
  d3.commitDone (.cipher x)

/-- Flow `f` takes the shadow copy at the start of its next crypto block. -/
def Dev.cipherTake (d : Dev) (x : Fin 2) (side : Side) : Dev :=
  let d1 := match side with
    | .flow f =>
      if (d.flow f).alive && decide ((d.flow f).cl = x) then
        (d.onFlow f fun w => { w with ctl := some (d.reg 0x180000), spot := some (d.reg (0x180010 + 4 * x.val)) }).onCluster
          (58 + x) fun q => { q with flowsLeft := q.flowsLeft.filter (· ≠ f.val) }
      else d
    | _ => d
  if d1.flowsToTake x = [] then d1.cipherDone x else d1

/-! Any cluster. -/

/-- A cluster that takes everything at one boundary. -/
def Dev.wholeTake (d : Dev) (k : Cluster) : Dev :=
  let d1 := (d.takeShadow k true true).commitDone k
  match k with
  | .framer => each (List.range 48) (fun c d => d.bohUpdate c) d1
  | .timing => d1.timingCommitted d
  | _ => d1

/-- A cluster takes its shadow copy at a boundary. -/
def Dev.take (d : Dev) (k : Cluster) (side : Side) : Dev :=
  match k with
  | .carrier c => d.carrierTake c (side ≠ .rx) (side ≠ .tx)
  | .cipher x => d.cipherTake x side
  | _ => d.wholeTake k

/-- The boundary of cluster `k`: a pending commit is checked once, and taken or refused (R16, R19); what a change procedure has
committed is taken without a second check (R87). -/
def Dev.boundary (d : Dev) (k : Cluster) (side : Side) : Dev :=
  let q := d.cluster (clusterCode k)
  if !(d.cmtPending k || q.due) || q.reset then d
  else if q.due || q.txDone || q.rxDone || d.check [k] k false then d.take k side
  else d.commitRefused k

/-- Band multiframe b of a committed change procedure has started (R87): cluster `k` takes its locked shadow at its first boundary
of Table 1-3 from now on. For the framer, the start of a band multiframe, that is this moment. A cipher cluster waits for each
flow it has. -/
def Dev.procedureTake (d : Dev) (k : Cluster) : Dev :=
  let d1 := d.onCluster (clusterCode k) fun q => { q with due := true }
  match k with
  | .framer => d1.take k .both
  | .cipher x =>
    let fs := (d.flows.filter fun e => e.2.alive && decide (e.2.cl = x.val)).map fun e => e.1
    if fs = [] then d1.cipherDone x else d1.onCluster (58 + x) fun q => { q with flowsLeft := fs }
  | _ => d1

/-! The rows. -/

def execCommitBoundary (k : Cluster) (side : Side) (s : State) : Answer :=
  .next (s.onWithSsf fun d => d.boundary k side)

/-- A cluster reset ends within 2 µs of its cause (R20). -/
def execClusterResetEnd (k : Cluster) (s : State) : Answer :=
  s.nextOn fun d => d.onCluster (clusterCode k) fun q => { q with reset := false }

/-- Client bits of a received interop carrier go to its port in whole 257B blocks (R174, R202). -/
def Dev.zrEgress (d : Dev) (c : Nat) : Dev :=
  if d.cZr c then
    let (us, rest) := pieces 257 (d.rxModem c).zr.length (d.rxModem c).zr
    let p := d.actFld (aCarrZr c) ⟨0, 6⟩
    (d.onRxm c fun m => { m with zr := rest }).egressSend p (d.egress p) (us.map dec257)
  else d

/-- A received carrier frame is the receive boundary of its carrier while the modem is LOCKED; its samples go through the stages of
the modem. The converters or the modem of a carrier on a lost die receive nothing (Table 1-2). -/
def execCarrierFrameRx (c : Fin 48) (codes : List (List Int)) (acq : Acq) (s : State) : Answer :=
  .next (s.onWithSsf fun d =>
    if d.carrDead c then d
    else ((if d.rxState c = rxLocked then d.boundary (.carrier c) .rx else d).rxSamples c codes acq).zrEgress c)

/-- A loop update is the timing cluster's boundary (R350). -/
def execLoopUpdate (s : State) : Answer :=
  s.nextOn fun d => (d.boundary .timing .both).loopUpdate

/-- The package band multiframe is the framer's boundary (R138). -/
def execPackageBandMultiframe (s : State) : Answer :=
  .next (s.onWithSsf fun d => ({ d with bmfAt := d.time }.setReg aBmfCnt (d.reg aBmfCnt + 1)).boundary .framer .both)

end Sys2Proof.Machine
end

