-- ==== Sys2Proof/Machine/Gcc2.lean ====
section
/-!
DEFINITION. GCC channels and the messages of the trust core on GCC2 (R154, R452, Table 16-5). The values of the key agreement itself
(ECDH, ML-KEM, signatures) are constants without a body (log entry 5).
-/
namespace Sys2Proof.Machine

/-- Bytes join the queue of a GCC channel. -/
def Dev.gccPut (d : Dev) (key chan : Nat) (bs : List Byte) : Dev :=
  d.onOverhead key fun o => { o with gccTx := SMap.put o.gccTx chan [] (SMap.get o.gccTx chan [] ++ bs) }

/-! Sending. -/

/-- What every message begins with: type, flow, agreement identifier. -/
def gcc2Head (type f : Nat) (id : BitVec 32) : List Byte := bytesOf 1 type ++ bytesOf 2 f ++ bytesOf 4 id.toNat

/-- The content of a message (Table 16-5); `init` is the content of the KA_INIT that a KA_RESP answers. -/
def Gcc2.content (f : Nat) (init : List Byte) : Gcc2 → List Byte
  | .init id dirs nonce =>
    let c := gcc2Head 1 f id ++ [dirs] ++ nonce ++ Config.kaPublic id false ++ Config.idKey
    c ++ Config.idkSign c
  | .resp id nonce =>
    let c := gcc2Head 2 f id ++ nonce ++ Config.kaPublic id true ++ Config.idKey
    c ++ Config.idkSign (init ++ c)
  | .ready id role confirm => gcc2Head 3 f id ++ bytesOf 1 role ++ bytesOf 16 confirm.toNat
  | .abort id => gcc2Head 4 f id ++ [Config.abortReason]

/-- 0x7E and 0x7D within a message go out as 0x7D and the byte XOR 0x20. -/
def escape (bs : List Byte) : List Byte := bs.flatMap fun b => if b = 0x7E ∨ b = 0x7D then [0x7D, b ^^^ 0x20] else [b]

/-- A message between its flags, with its CRC-32. -/
def gcc2Frame (content : List Byte) : List Byte := [0x7E] ++ escape (content ++ bytesOf 4 (crc32 content).toNat) ++ [0x7E]

/-- A message goes out on the GCC2 of a flow. -/
def Dev.gcc2Send (d : Dev) (f : Nat) (msg : Gcc2) (init : List Byte := []) : Dev :=
  (d.gccPut f 2 (gcc2Frame (msg.content f init))).emit (.gcc2 f msg)

/-! Receiving. -/

def unescape : List Byte → List Byte
  | [] => []
  | [b] => [b]
  | b :: e :: r => if b = 0x7D then (e ^^^ 0x20) :: unescape r else b :: unescape (e :: r)

end Sys2Proof.Machine

namespace Sys2Proof

/-- The content of a received message, once its CRC-32 holds. -/
def KaMsg.content (m : KaMsg) : Option (List Byte) :=
  let u := Machine.unescape m.bytes
  let n := u.length - 4
  if 4 ≤ u.length ∧ Machine.ofBytes (u.drop n) = (Machine.crc32 (u.take n)).toNat then some (u.take n) else none

/-- Bytes of each type of message. -/
def kaLength (type : Nat) : Nat :=
  match type with | 1 => 1898 | 2 => 1897 | 3 => 24 | _ => 8

/-- The message is whole, of the type expected, and names flow `f` (R452). -/
def KaMsg.good (m : KaMsg) (type f : Nat) : Bool :=
  match m.content with
  | none => false
  | some c => decide (c.length = kaLength type ∧ Machine.ofBytes (c.take 1) = type ∧ Machine.ofBytes ((c.drop 1).take 2) = f)

def KaMsg.field (m : KaMsg) (i n : Nat) : List Byte := ((m.content.getD []).drop i).take n
def KaMsg.id (m : KaMsg) : BitVec 32 := BitVec.ofNat 32 (Machine.ofBytes (m.field 3 4))
/-- Directions of KA_INIT, the nonces of KA_INIT and KA_RESP, role and confirmation of KA_READY. -/
def KaMsg.dirs (m : KaMsg) : Byte := (m.field 7 1).headD 0
def KaMsg.initNonce (m : KaMsg) : List Byte := m.field 8 32
def KaMsg.respNonce (m : KaMsg) : List Byte := m.field 7 32
def KaMsg.role (m : KaMsg) : Nat := Machine.ofBytes (m.field 7 1)
def KaMsg.confirm (m : KaMsg) : BitVec 128 := BitVec.ofNat 128 (Machine.ofBytes (m.field 8 16))

end Sys2Proof
end

