-- ==== Sys2Proof/Machine/Switch.lean ====
section
/-!
DEFINITION. The switch (chapter 3): connection memory and its pages, page copies and swaps in either direction, and flow
skew.
-/
namespace Sys2Proof.Machine
open RegMap

/-! Pages (R70 to R73). -/

/-- The standby page of a direction. -/
def Dev.standby (d : Dev) (rx : Bool) : Nat := 1 - d.actPage rx

/-- A connection memory word. -/
def Conn.setEntry (m : Conn) (page : Nat) (rx : Bool) (s : Nat) (w : Word) : Conn :=
  { m with pages := SMap.put m.pages (connKey page rx s) 0 w }

/-- A carrier base table word. -/
def Conn.setBase (m : Conn) (page : Nat) (rx : Bool) (c : Nat) (w : Word) : Conn :=
  { m with bases := SMap.put m.bases (connKey page rx c) 0 w }

/-- The words of a map under a page and direction go over to another page, which loses its own. -/
def copyKeys (src dst : Nat) (m : SMap Word) : SMap Word :=
  let mine := m.filter fun e => decide (src ≤ e.1 ∧ e.1 < src + 2 ^ 14)
  mine.foldl (fun acc e => SMap.put acc (e.1 - src + dst) 0 e.2)
    (m.filter fun e => !decide (dst ≤ e.1 ∧ e.1 < dst + 2 ^ 14))

/-- The page of index `page` is copied into the other one, with its base table (R78). -/
def Conn.copyPage (m : Conn) (page : Nat) (rx : Bool) : Conn :=
  { pages := copyKeys (connKey page rx 0) (connKey (1 - page) rx 0) m.pages,
    bases := copyKeys (connKey page rx 0) (connKey (1 - page) rx 0) m.bases }

/-- The active page of each direction named is copied into standby. -/
def State.copyActive (s : State) (tx rx : Bool) : State :=
  let m1 := if tx then s.conn.copyPage (s.dev.actPage false) false else s.conn
  { s with conn := if rx then m1.copyPage (s.dev.actPage true) true else m1 }

/-- A write to the standby page regions or base tables is rejected: a swap is armed, a copy runs, or a change procedure
holds the switch (R76, R78, R85). -/
def Dev.standbyHeld (d : Dev) : Bool := d.bit aSwCtrl 0 || d.bit aSwCtrl 1 || (d.cluster 57).locked

/-- A SW_TGT write is rejected (R76, R85). -/
def Dev.swTgtBad (d : Dev) : Bool := d.bit aSwCtrl 0 || (d.cluster 57).locked

/-- A SW_CTRL write is rejected (R76, R78, R84, R85). -/
def Dev.swCtrlBad (d : Dev) (w : Word) : Bool :=
  d.swTgtBad || (w.getLsbD 0 && (w.getLsbD 1 || d.bit aSwCtrl 1 || d.bit aSwStat 6)) || (w.getLsbD 1 && d.bit aSwCtrl 0)

/-- The arm of a transmit swap: the standby transmit page is checked and the lead tested; a refused arm changes nothing
but its sticky bits, and raises one event (R73 to R75). `ks` are the clusters of the change procedure that makes it, if one does. -/
def State.swapArm (s : State) (ks : List Cluster := []) : State :=
  let refused := !s.pageCheck (s.dev.standby false) false ks
  let late := !leadOk 16 (s.dev.reg aSwTgt) (s.dev.reg aTxOmf)
  s.on fun d =>
    let d1 := if refused then d.setBit aSwStat 2 else d
    let d2 := if late then d1.setBit aSwStat 3 else d1
    if refused || late then d2.event (if refused then .swapRefused else .swapLate) 12 0
    else d2.setBit aSwCtrl 0

/-- SW_CTRL written with `w`, which was not rejected. -/
def State.swCtrlWritten (s : State) (w : Word) : State :=
  let s1 := s.on fun d => d.setBit aSwCtrl 2 (w.getLsbD 2)
  if w.getLsbD 0 then s1.swapArm
  else if w.getLsbD 1 && !s.dev.bit aSwCtrl 1 then
    s1.on fun d => { d.setBit aSwCtrl 1 with sw := { d.sw with copyRxStopped := false } }
  else s1

/-- The copy completes; its receive part was abandoned when the receive pages changed meanwhile (R78). -/
def State.pageCopyDone (s : State) : State :=
  if s.dev.bit aSwCtrl 1 then
    (s.copyActive true (!s.dev.sw.copyRxStopped)).on fun d =>
      { d.setBit aSwCtrl 1 false with sw := { d.sw with copyRxStopped := false } }
  else s

def execPageCopyDone (s : State) : Answer := .next s.pageCopyDone

/-! The transmit swap (R65, R73, R79). -/

/-- A deleted flow is gone: its defects cease (R140), its keys, overhead and context with it. -/
def Dev.flowRemove (d : Dev) (f : Nat) : Dev :=
  ((d.setFlowRaw f 0).onFlow f fun _ => {}).onOverhead f fun _ => {}

/-- Random bytes of the trust core: free values (log entry 3). -/
def Dev.randomBytes (d : Dev) (words : Nat) : List Byte × Dev :=
  ((List.range words).flatMap fun i => (List.range 8).map fun j =>
      BitVec.ofNat 8 ((Config.freeValue (d.free + i)).toNat >>> (8 * j)),
   { d with free := d.free + words })

/-- The trust core agrees and loads keys: not in its error state, and ZEROIZE_N is high (R449, R460). -/
def Dev.keysServed (d : Dev) : Bool := !d.bit aTcStat 4 && !d.tc.zLow

/-- A key agreement is started here (R455, R456): a fresh identifier and nonce, and KA_INIT is sent. -/
def Dev.kaStart (d : Dev) (f : Nat) (dirs : Byte) (newFlow : Bool) : Dev :=
  if !d.keysServed then d
  else
    let (nonce, d1) := d.randomBytes 4
    let (v, d2) := d1.fresh
    let id : BitVec 32 := v.setWidth 32
    let a : Ka := { initiator := true, id := id, dirs := dirs, newFlow := newFlow, nonce := nonce, secret := [], salt := [],
                    init := (Gcc2.init id dirs nonce).content f [], answered := false, loaded := false, loadedTx := none, loadedRx := none }
    (d2.onFlow f fun w => { w with ka := some a }).gcc2Send f (.init id dirs nonce)

/-- A flow comes into being; unless it is a protection flow its keys are agreed (R380, R455). -/
def Dev.flowBorn (d : Dev) (f : Nat) : Dev :=
  let d1 := d.onFlow f fun w => { w with alive := true, coming := false }
  if (d1.flow f).standby then d1 else d1.kaStart f 3 true

/-- The flow commands whose swap was taken complete: flows that were coming exist, flows being deleted are gone. -/
def Dev.flowsSwapped (d : Dev) : Dev :=
  each (d.flows.map fun e => e.1) (fun f d =>
    let t := (d.flow f).owner
    if (d.flow f).coming then
      (d.flowBorn f).completeCommand t stDone
    else if (d.flow f).deleting then (d.flowRemove f).completeCommand t stDone
    else d) d

/-- The transmit direction changes pages on every carrier together. -/
def Dev.txSwap (d : Dev) : Dev :=
  let d1 := ((d.setFld aSwStat ⟨0, 1⟩ (d.standby false)).setBit aSwCtrl 0 false).incFld aSwStat ⟨16, 16⟩
  (d1.flowsSwapped).count pcSwitch 2 0 1

/-- ODU multiframe n starts on every carrier (R65): the switch's boundary, and the target of an armed swap. -/
def Dev.oduMultiframe (d : Dev) : Dev :=
  let d1 := ({ d.setReg aTxOmf (d.reg aTxOmf + 1) with otuMfas := 0 }).boundary .switch .both
  if d1.bit aSwCtrl 0 && decide (d1.reg aTxOmf = d1.reg aSwTgt) then d1.txSwap else d1

def execOduMultiframe (s : State) : Answer := .next (s.onWithSsf Dev.oduMultiframe)

/-! The receive side (R80 to R82). -/

/-- The receive direction changes pages; a running copy loses its receive part (R78), and a late change is reported. -/
def Dev.rxChange (d : Dev) (late : Bool) : Dev :=
  let copying := d.bit aSwCtrl 1
  let d1 := (d.setFld aSwStat ⟨1, 1⟩ (d.standby true)).count pcSwitch 2 0 1
  let d2 := { d1 with sw := { d1.sw with rxArm := none, annSeen := none, rxLate := false, diffRun := 0,
                                         copyRxStopped := copying || d1.sw.copyRxStopped } }
  let d3 := if copying then d2.setBit aSwStat 7 else d2
  if late then (d3.setBit aSwStat 5).event .swapLate 12 1 else d3

/-- R81: the received ODU multiframe numbered swap_at starts. -/
def execRxPageSwap (s : State) : Answer :=
  .next (s.onWithSsf fun d => if d.sw.rxArm.isSome && !d.sw.rxLate then d.rxChange false else d)

/-- A late change at the next received ODU multiframe: an arm after its target (R81), or a page mismatch whose standby page
passes its check (R82), which ends the page mismatch defect. -/
def State.rxLateSwap (s : State) : State :=
  if !s.dev.sw.rxLate then s
  else if s.dev.sw.rxArm.isSome then s.onWithSsf fun d => d.rxChange true
  else if s.pageCheck (s.dev.standby true) true then
    s.onWithSsf fun d => (d.rxChange true).setBit aSwStat 4 false
  else s.onWithSsf fun d => { d.setBit aSwStat 4 with sw := { d.sw with rxLate := false } }

def execRxLateSwap (s : State) : Answer := .next s.rxLateSwap

/-- What the page fields of an accepted block of the lead carrier `c` do. The received multiframe that runs is numbered from the
block's omf_ref and the multiframes that have started since (R80). Two blocks whose page differs from the one expected, or one
while the page mismatch defect is present, have the standby page checked whether or not a swap is armed (R82). -/
def State.pageFields (s : State) (c : Nat) (b : Boh) : State :=
  let w := s.dev.sw
  let now := b.omfRef + BitVec.ofNat 32 (s.dev.carrier c).mfRx
  let ann := if b.pend then some b.swapAt else none
  let gone := match w.rxArm with | some t => decide (ann ≠ some t) && newer t now | none => false
  let arm := if gone then none else if ann.isSome && decide (w.annSeen = ann) then ann else w.rxArm
  let lateArm := match arm with | some t => !newer t now | none => false
  let differs := b.page ≠ decide (s.dev.actPage true = 1)
  let run := if differs then w.diffRun + 1 else 0
  let s1 := s.on fun d => { d with sw := { d.sw with annSeen := ann, rxArm := arm, rxLate := lateArm, diffRun := min run 2 } }
  if !differs then s1.onWithSsf fun d => d.setBit aSwStat 4 false
  else if run < 2 && !s.dev.bit aSwStat 4 then s1
  else if s.pageCheck (s.dev.standby true) true then s1.on fun d => { d with sw := { d.sw with rxLate := true } }
  else s1.onWithSsf fun d => d.setBit aSwStat 4

/-! Skew (R66, R67). -/

/-- The arrival spread between the in-frame carriers of a flow, in 10 ns. -/
def State.flowSpread (s : State) (f : Nat) : Nat :=
  let p := s.dev.actPage true
  let ss := ((s.conn.listed p true).filter fun e => entryFlow e.2 = f).map fun e => e.1
  let as := (carriersOf s.conn p true s.dev.cSlots ss).filterMap fun c =>
    if s.dev.inFrame c then (s.dev.carrier c).arrival else none
  match as with
  | [] => 0
  | a :: r => r.foldl max a - r.foldl min a

/-- The deskew depth in 10 ns. -/
def Dev.depth (d : Dev) : Nat := 10 * d.actFld 0x140020 ⟨0, 8⟩

def execFlowSkewEnter (f : Fin 4096) (s : State) : Answer :=
  .next (if s.dev.depth < s.flowSpread f then s.on fun d => d.flowDefect f 1 true else s)

def execFlowSkewExit (f : Fin 4096) (s : State) : Answer :=
  .next (if s.flowSpread f + 20 ≤ s.dev.depth then s.on fun d => d.flowDefect f 1 false else s)

end Sys2Proof.Machine
end

