-- ==== Sys2Proof/Machine/Odu.lean ====
section
/-!
DEFINITION. OTUCn-M and ODUflex frames (R62, R65, R70, R128, R129, R148, R149, R151, R154, R155): the layout of a frame and of its
overhead, tributary slots by the connection memory, GMP of a flow into its slots, and the frames that the transmit framer sends.
What is taken from ITU-T G.709 is in log entry 103.
-/
namespace Sys2Proof.Machine
open RegMap

/-! Layout. Overhead is 4 rows of 16 columns, OTU and ODU overhead in columns 1 to 14, OPU overhead in 15 and 16. -/

/-- The place of a row and column, both from 1, among the 64 overhead bytes. -/
def ohPos (row col : Nat) : Nat := 16 * (row - 1) + (col - 1)

/-- `n` bytes, zero but for the parts placed. -/
def layOut (n : Nat) (parts : List (Nat × List Byte)) : List Byte :=
  (List.range n).map fun p =>
    ((parts.find? fun q => decide (q.1 ≤ p ∧ p < q.1 + q.2.length)).map fun q => q.2.getD (p - q.1) 0).getD 0

/-- `n` overhead bytes from a row and column on. -/
def ohAt (oh : List Byte) (row col n : Nat) : List Byte := (oh.drop (ohPos row col)).take n

/-- The frame alignment signal. -/
def fas : List Byte := [0xF6, 0xF6, 0xF6, 0x28, 0x28, 0x28]

/-- The 16-byte groups of an OTUCn-M frame in transmission order: row, group (0 is the overhead) and instance, both from 0. Groups of
the slots of the last instance that M leaves out are not carried (R128). -/
def slotAt (omfi row g : Nat) : Nat × Nat :=
  let w := omfi * 952 + row * 238 + (g - 1)
  (w % 20, w / 20)

def otuGroups (m omfi : Nat) : List (Nat × Nat × Nat) :=
  (List.range 4).flatMap fun row => (List.range 239).flatMap fun g => (List.range ((m + 19) / 20)).filterMap fun a =>
    if g = 0 ∨ 20 * a + (slotAt omfi row g).1 < m then some (row, g, a) else none

/-! BIP-8 and BEI (R149). -/

/-- The parity of a list of bytes. -/
def bip8 (bs : List Byte) : Byte := bs.foldl (· ^^^ ·) 0

/-- A frame carries the code of the last frame but one. -/
def Bip.code (b : Bip) : Byte := if b.last.length = 2 then b.last.headD 0 else 0
def Bip.push (b : Bip) (v : Byte) : Bip := ⟨(b.last ++ [v]).drop (b.last.length - 1)⟩

/-- The bits in which a received code differs from the one computed. -/
def Bip.violations (b : Bip) (v : Byte) : Nat := if b.last.length = 2 then ones 8 (v ^^^ b.code).toNat else 0

/-- A received BEI counts 1 to 8 violations; other values stand for none. -/
def beiCount (v : Nat) : Nat := if v ≤ 8 then v else 0

/-! What is queued for sending (R153 to R155). -/

/-- A queued transmit TTI comes into force at a 64-frame multiframe (R153). -/
def Dev.ttiTake (d : Dev) (key mfas : Nat) : Dev :=
  if mfas % 64 ≠ 0 then d
  else d.onOverhead key fun o => match o.txTtiNext with
    | some b => { o with txTti := b, txTtiNext := none }
    | none => o

/-- The next `n` bytes of a GCC channel: 0x7E where no byte is queued (R154). -/
def Dev.takeGcc (d : Dev) (key chan n : Nat) : List Byte × Dev :=
  let q := SMap.get (d.overhead key).gccTx chan []
  ((q ++ List.replicate n 0x7E).take n, d.onOverhead key fun o => { o with gccTx := SMap.put o.gccTx chan [] (q.drop n) })

/-- Bytes `n` long of a transmit field in frame MFAS; a value longer than the field goes on from frame to frame (R155). -/
def Overhead.txField (o : Overhead) (field level mfas n : Nat) : List Byte :=
  match o.txFields.find? fun e => decide (e.1 = field) && (decide (field ≠ 0) || decide (e.2.1 = level)) with
  | none => List.replicate n 0
  | some (_, _, v) => (List.range n).map fun k => if field = 0 then v.getD k 0 else v.getD ((n * mfas + k) % v.length) 0

/-- The fields of Table 5-12 with their places in the overhead: code of TX_FIELD, then row, column and length of each part. -/
def ohFields : List (Nat × List (Nat × Nat × Nat)) :=
  [(0, [(4, 5, 4)]), (1, [(3, 13, 2)]), (2, [(3, 7, 3)]), (3, [(3, 4, 3)]), (4, [(3, 1, 3)]), (5, [(2, 11, 3)]), (6, [(2, 8, 3)]),
   (7, [(2, 5, 3)]), (8, [(2, 14, 1)]), (9, [(2, 1, 2), (4, 9, 6)])]

/-- A field as the parts of it stand in the overhead. -/
def fieldParts (v : List Byte) : List (Nat × Nat × Nat) → List (Nat × List Byte)
  | [] => []
  | (row, col, n) :: r => (ohPos row col, v.take n) :: fieldParts (v.drop n) r

/-- The ODU overhead of one layer: fields, PM with TTI, BIP-8 and its third byte, GCC1 and GCC2. -/
def Dev.oduOh (d : Dev) (key mfas : Nat) (bip pm : Byte) (gcc1 gcc2 : List Byte) : List (Nat × List Byte) :=
  let o := d.overhead key
  (ohFields.flatMap fun e => fieldParts (o.txField e.1 (mfas % 8) mfas ((e.2.map fun p => p.2.2).foldl (· + ·) 0)) e.2) ++
    [(ohPos 3 10, [o.txTti.getD (mfas % 64) 0, bip, pm]), (ohPos 4 1, gcc1), (ohPos 4 3, gcc2)]

/-- PM's third byte: BEI, BDI, STAT. -/
def pmByte (bei : Nat) (bdi : Bool) (stat : Nat) : Byte := BitVec.ofNat 8 (16 * bei + 8 * bdi.toNat + stat)

/-! GMP of a flow into its slots. -/

/-- Data words of 16 bytes a slot in an OPUCn multiframe of 20 frames, as (numerator, denominator): the ODUflex rate of a slot,
239/238 × 5.15625 Gbit/s, over the 952 positions of the multiframe. -/
def gmpRate : Nat × Nat := (19120 * 515625 * 226, 238 * 995328 * 10)

/-- `n` words of `size` bytes. -/
def chunks (size : Nat) : Nat → List Byte → List (List Byte)
  | 0, _ => []
  | n + 1, bs => bs.take size :: chunks size n (bs.drop size)

/-- An OPUCn multiframe starts: the words announced for it become its own, and those of the next one are taken, as many as the rate
gives while bytes are there. -/
def Flow.gmpStart (w : Flow) : Flow :=
  let acc := w.gmpAcc + gmpRate.1
  let size := 16 * w.slots
  let n := min (acc / gmpRate.2) (w.txBytes.length / size)
  { w with gmpAcc := acc % gmpRate.2, gmpWords := w.gmpNext, gmpNext := chunks size n w.txBytes, txBytes := w.txBytes.drop (n * size) }

/-- Position `k` of the 952 holds a data word when `cm` of them do. -/
def gmpData (cm k : Nat) : Bool := decide ((k + 1) * cm % 952 < cm)

/-- The 16 bytes of slot `j` at position `k`; a stuffed position holds zeros. -/
def Flow.slotBytes (w : Flow) (j k : Nat) : List Byte :=
  let cm := w.gmpWords.length
  if gmpData cm k then ((w.gmpWords.getD ((k + 1) * cm / 952 - 1) []).drop (16 * j)).take 16 else List.replicate 16 0

/-! The OTUCn-M frame of a carrier. -/

/-- CARR_FMT in force at the framer (R208, R209). -/
def Dev.txSlots (d : Dev) (c : Nat) : Nat :=
  match (d.carrier c).prev with | some p => Fld.get ⟨20, 9⟩ p.2.1 | none => d.cSlots c

/-- The flow and slot index that tributary slot `i` of a carrier sends, none where the slot is idle (R62, R70, R209). -/
def State.txSlot (s : State) (c i : Nat) : Option (Nat × Nat) :=
  let p := s.dev.actPage false
  let e := s.conn.entry p false (s.conn.base p false c + i)
  if !e.getLsbD 0 || (s.dev.carrier c).unused || !(s.dev.flow (entryFlow e)).alive then none else some (entryFlow e, entryIdx e)

/-- A carrier sends ODUCn-AIS: during a hub datapath reset (R524), or under SQUELCH (Table 19-2). -/
def Dev.sendsAis (d : Dev) (c : Nat) : Bool := d.hubReset || (d.carrier c).squelch

/-- ODUCn PM STAT that a carrier sends: AIS, OCI while it ramps down unused (R209), else the normal value. -/
def Dev.txStat (d : Dev) (c : Nat) : Nat := if d.sendsAis c then 7 else if (d.carrier c).unused then 6 else 1

/-- The overhead of OTUC instance `a` of carrier `c` (R128, R129, R148, R149, R154): TTIs, GCC1, GCC2 and the fields stand in the first
instance, SM BIP-8, BEI and BDI, PM STAT and GCC0 in each. PSI holds payload type 0x01 in frame 0 of the MFAS cycle, and the MSI
bytes behind it are 0x00. -/
def Dev.otucOh (d : Dev) (c a : Nat) (jc gcc0 gcc1 gcc2 : List Byte) : List Byte :=
  let k := d.carrier c
  let mfas := d.otuMfas
  let bip := (k.bipTx.getD a {}).code
  let bei := (k.beiDue.getD a []).headD 0
  let sm := [(d.overhead (4096 + c)).txTti.getD (mfas % 64) 0, bip, BitVec.ofNat 8 (16 * bei + 8 * (d.smBdi c).toNat)]
  let otu := [(0, fas ++ [BitVec.ofNat 8 mfas]), (ohPos 1 8, if a = 0 then sm else 0 :: sm.drop 1), (ohPos 1 11, (gcc0.drop (2 * a)).take 2)]
  if d.sendsAis c then layOut 64 (otu ++ [(ohPos 1 15, List.replicate 50 0xFF)])
  else
    let pm := pmByte 0 false (d.txStat c)
    let odu := if a = 0 then d.oduOh (4160 + c) mfas bip pm gcc1 gcc2 else [(ohPos 3 10, [0, bip, pm])]
    let opu := [(ohPos 1 15, [jc.getD 3 0, jc.getD 0 0]), (ohPos 2 15, [jc.getD 4 0, jc.getD 1 0]), (ohPos 3 15, [jc.getD 5 0, jc.getD 2 0]),
      (ohPos 4 15, [if mfas = 0 then 1 else 0, BitVec.ofNat 8 d.otuOmfi])]
    layOut 64 (otu ++ opu ++ odu)

/-- The justification bytes of instance `a`: those of the flow in the slot that this frame of the multiframe serves. -/
def State.jcOf (s : State) (c a : Nat) : List Byte :=
  match s.txSlot c (20 * a + s.dev.otuOmfi) with
  | some (f, _) => Config.jcBytes (s.dev.flow f).gmpNext.length
  | none => []

/-- One OTUCn-M frame of a carrier: the groups with their instance, in order. -/
def State.otuParts (s : State) (c m : Nat) (ohs : List (List Byte)) : List (Nat × Nat × List Byte) :=
  (otuGroups m s.dev.otuOmfi).map fun p =>
    let (row, g, a) := p
    let (ts, k) := slotAt s.dev.otuOmfi row g
    (a, g,
      if g = 0 then ((ohs.getD a []).drop (16 * row)).take 16
      else if s.dev.sendsAis c then List.replicate 16 0xFF
      else match s.txSlot c (20 * a + ts) with
        | some (f, j) => (s.dev.flow f).slotBytes j k
        | none => List.replicate 16 Config.unusedSlot)

/-- The parity over the OPUC of an instance: the OPU overhead and the payload. -/
def opuBip (a : Nat) (parts : List (Nat × Nat × List Byte)) : Byte :=
  bip8 ((parts.filter fun p => decide (p.1 = a)).flatMap fun p => if p.2.1 = 0 then p.2.2.drop 14 else p.2.2)

/-- A carrier's next OTUCn-M frame is formed and waits for carrier frames. -/
def State.otuFrameTx (s : State) (c : Nat) : State :=
  let m := s.dev.txSlots c
  let n := (m + 19) / 20
  let d0 := (s.dev.ttiTake (4096 + c) s.dev.otuMfas).ttiTake (4160 + c) s.dev.otuMfas
  let (g0, d1) := d0.takeGcc (4096 + c) 0 (2 * n)
  let (g1, d2) := d1.takeGcc (4160 + c) 1 2
  let (g2, d3) := d2.takeGcc (4160 + c) 2 2
  let ohs := (List.range n).map fun a => d3.otucOh c a (s.jcOf c a) g0 g1 g2
  let parts := s.otuParts c m ohs
  let bips := (List.range n).map fun a => ((s.dev.carrier c).bipTx.getD a {}).push (opuBip a parts)
  { s with dev := d3.onCarrier c fun k =>
      { k with otuTx := k.otuTx ++ parts.flatMap fun p => p.2.2, bipTx := bips, beiDue := k.beiDue.map fun l => l.drop 1 } }

/-- The carrier sends carrier frames. -/
def Dev.sendsFrames (d : Dev) (c : Nat) : Bool :=
  let st := d.cState c
  decide (st = csTune ∨ st = csRampUp ∨ st = csRun ∨ st = csRampDown) && !d.carrDead c

/-- The next OTUC frame of every carrier that sends, all at the same instant (R65): the first of an OPUCn multiframe takes new words
of every flow. -/
def State.otuFrames (s : State) : State :=
  let s1 := if s.dev.otuOmfi = 0 then s.on fun d => each (d.flows.map fun e => e.1) (fun f d => d.onFlow f Flow.gmpStart) d else s
  let s2 := each ((List.range 48).filter fun c => s1.dev.sendsFrames c && !s1.dev.txZr c) (fun c s => s.otuFrameTx c) s1
  s2.on fun d => { d with otuMfas := (d.otuMfas + 1) % 256, otuOmfi := (d.otuOmfi + 1) % 20 }

/-- OTUC frames are formed until carrier `c` has `n` bytes to send. -/
def State.otuFill (s : State) (c n : Nat) : Nat → State
  | 0 => s
  | k + 1 => if n ≤ (s.dev.carrier c).otuTx.length then s else s.otuFrames.otuFill c n k

/-! A received frame. -/

/-- A frame taken apart: the overhead of each instance, the groups of its slots as (slot, position, bytes), and the parity of each
instance. -/
structure OtuFrame where
  oh : List (List Byte)
  slots : List (Nat × Nat × List Byte)
  bip : List Byte

/-- Bytes of a frame. -/
def otuLen (m omfi : Nat) : Nat := 16 * (otuGroups m omfi).length

def parseOtu (m omfi : Nat) (bytes : List Byte) : OtuFrame :=
  let gs := otuGroups m omfi
  let cells := gs.zip (chunks 16 gs.length bytes)
  let n := (m + 19) / 20
  { oh := (List.range n).map fun a => (cells.filter fun p => decide (p.1.2.1 = 0 ∧ p.1.2.2 = a)).flatMap fun p => p.2,
    slots := cells.filterMap fun p =>
      let (row, g, a) := p.1
      let (ts, k) := slotAt omfi row g
      if g = 0 then none else some (20 * a + ts, k, p.2),
    bip := (List.range n).map fun a => opuBip a (cells.map fun p => (p.1.2.2, p.1.2.1, p.2)) }

/-- The bytes can begin with a frame of place `omfi` in its multiframe. -/
def otuStarts (m omfi : Nat) (bytes : List Byte) : Bool :=
  decide (bytes.take 6 = fas) && decide (otuLen m omfi ≤ bytes.length) &&
    decide (((((parseOtu m omfi bytes).oh.headD []).getD (ohPos 4 16) 0).toNat) = omfi)

/-- The first place in the bytes at which a frame can begin, and its place in the multiframe. -/
def otuFind (m : Nat) : List Byte → Option (List Byte × Nat)
  | [] => none
  | b :: bs => match (List.range 20).find? fun o => otuStarts m o (b :: bs) with
    | some o => some (b :: bs, o)
    | none => otuFind m bs

/-- The number of a word of a flow: the OPUCn multiframe, named by the MFAS of its first frame, and the position. -/
def wordNo (mfas omfi k : Nat) : Nat := (mfas + 256 - omfi) % 256 * 952 + k

/-- The word behind another. -/
def nextWord (n : Nat) : Nat := if n % 952 < 951 then n + 1 else (n / 952 + 20) % 256 * 952

end Sys2Proof.Machine
end

