-- ==== Sys2Proof/Machine/BandFrame.lean ====
section
/-!
DEFINITION. Carrier frames and band overhead (chapter 5): the transmitted frame with its slice and block (R123 to R134), the
received block (R135 to R137), the rows of carrier and flow defects (R142, R143) and of DEG (R145).
-/
namespace Sys2Proof.Machine
open RegMap

/-! The transmitted band overhead block (R131 to R134). -/

/-- Entry j of the offset report (R132): the frequency estimate of received carrier j while it is valid. -/
def Dev.ofsEntry (d : Dev) (j : Nat) : BitVec 16 :=
  let w := d.reg (carrBase j + 0x260 + 4 * 6)
  if w.getLsbD 24 then w.setWidth 16 else 0x8000#16

/-- The offset report is brought up to date; its sequence number counts changes. -/
def Dev.ofsReport (d : Dev) : Dev :=
  let now := (List.range 48).map d.ofsEntry
  if now = d.ofsLast then d else { d with ofsLast := now, ofsSeq := d.ofsSeq + 1 }

/-- Bytes 0 to 507 of the block of carrier `c` (Table 5-2). -/
def Dev.blockBody (d : Dev) (c : Nat) : List Byte :=
  let z (n : Nat) : List Byte := List.replicate n 0
  [1, BitVec.ofNat 8 c] ++ bytesOf 2 (d.actFld 0x100010 ⟨0, 16⟩) ++
    [BitVec.ofNat 8 (d.fld 0x1C00000 ⟨0, 2⟩ + 4 * (d.bit 0x1C00008 0).toNat)] ++ z 3 ++
    bytesOf 8 Config.identity.toNat ++ bytesOf 4 (d.reg aEpoch).toNat ++ bytesOf 4 (d.reg (aXhCbmf c)).toNat ++
    [BitVec.ofNat 8 (d.actPage false + 2 * (d.bit aSwCtrl 0).toNat)] ++ z 3 ++
    bytesOf 4 (d.reg aSwTgt).toNat ++ bytesOf 4 (d.reg aTxOmf).toNat ++
    [BitVec.ofNat 8 (d.xhAct c false + 2 * (d.xhTxArmed c).toNat)] ++ z 3 ++
    bytesOf 4 (d.reg (aTxt c)).toNat ++ z 4 ++
    d.ofsLast.flatMap (fun v => bytesOf 2 v.toNat) ++ [d.ofsSeq] ++ z 3 ++
    (List.range 48).map d.rxsByte ++ z 312

/-- The block whole. -/
def Dev.blockBytes (d : Dev) (c : Nat) : List Byte :=
  let b := d.blockBody c
  b ++ bytesOf 4 (crc32 b).toNat

/-- At slice 0 the block is assembled, and the carrier's band multiframe count advances but for the first one (R134). -/
def Dev.blockAssemble (d : Dev) (c : Nat) : Dev :=
  let d1 := if (d.carrier c).block = [] then d else d.setReg (aXhCbmf c) (d.reg (aXhCbmf c) + 1)
  let d2 := d1.ofsReport
  d2.onCarrier c fun k => { k with block := d2.blockBytes c }

/-- Four bytes with the CRC-8 of the first three (R123, R130). -/
def withCrc8 (bs : List Byte) : List Byte := bs ++ [crc8 bs]

/-- CARR_SYM, CARR_FMT and CARR_TX in force at the modem (R208, R209). -/
def Dev.txMode (d : Dev) (c : Nat) : Word × Word × Word :=
  match (d.carrier c).prev with
  | some (sym, fmt, tx, _) => (sym, fmt, tx)
  | none => (d.actReg (aCarrSym c), d.actReg (aCarrFmt c), d.actReg (aCarrTx c))

/-- The accumulator of R125: OTUCn-M bytes of the next frame, and the accumulator behind it. -/
def nextCn (acc rate m : Nat) : Nat × Nat :=
  let (num, den) := bytesPerFrame rate m
  let a := acc % den + num
  (a / den, a % den)

/-- The bytes of frame data (R123): the slice, Cn, and `cn` OTUCn-M bytes. -/
def frameBytes (slice : List Byte) (cn : Nat) (otu : List Byte) : List Byte :=
  withCrc8 slice ++ withCrc8 (bytesOf 3 cn) ++ (otu ++ List.replicate (cn - otu.length) 0).take cn

/-- The data bits of a frame of `size` bits: bytes most significant bit first, then fill (R123). -/
def frameDataBits (size : Nat) (bytes : List Byte) : List Bool :=
  let bits := bytes.flatMap fun b => (List.range 8).map fun k => b.getLsbD (7 - k)
  (bits ++ List.replicate (size - bits.length) false).take size

/-- The frame as the modem takes it: its format, training pattern and rate, and the Crosshatch bank that corrects it. -/
def Dev.txFrameOf (d : Dev) (c i : Nat) : TxFrame :=
  let (sym, fm, tx) := d.txMode c
  { fmt := Fld.get ⟨0, 3⟩ fm, ent := Fld.get ⟨8, 9⟩ fm, i := i, tpat := Fld.get ⟨0, 3⟩ tx, rate := Fld.get ⟨0, 11⟩ sym,
    bank := if (d.actReg (xhBase c)).getLsbD 0 then some (d.bankHead c false) else none }

/-- CVT_DACG takes effect at the start of a carrier frame (R236). -/
def Dev.dacGain (d : Dev) (c : Nat) : Dev :=
  let g := cvtBase (c / 6) + 0x10 + 4 * (c % 6)
  d.setAct g (d.reg g)

/-- One carrier frame of a native carrier (R123, R125, R130) goes to its modem. -/
def State.frameTx (s : State) (c : Nat) : State :=
  let i := (s.dev.carrier c).bmfas
  let s1 := s.on fun d => let d1 := d.dacGain c; if i = 0 then d1.blockAssemble c else d1
  let fr := s1.dev.txFrameOf c i
  let (cn, acc) := nextCn (s1.dev.carrier c).acc fr.rate (s1.dev.txSlots c)
  let s2 := s1.otuFill c cn (cn + 1)
  let k := s2.dev.carrier c
  let bytes := frameBytes [BitVec.ofNat 8 i, k.block.getD (2 * i) 0, k.block.getD (2 * i + 1) 0] cn k.otuTx
  s2.on fun d => (d.onCarrier c fun k =>
    { k with bmfas := (i + 1) % 256, acc := acc, midCode := false, otuTx := k.otuTx.drop cn }).modemTake c fr
      (frameDataBits (frameBits fr.fmt fr.ent) bytes)

/-- What the lanes of its port bring to an interop carrier (R202): local fault while the port is replaced (R59). -/
def Dev.zrIngress (d : Dev) (p : Nat) (lanes : List (List (BitVec 10))) : List (List Blk) × Dev :=
  let (us, d1) := d.pcsIn p lanes
  if d.bit (aPortStat p) 0 && !(d.port p).replaced then (us, d1)
  else (List.replicate Config.zrBlocks (List.replicate 4 localFault), d1)

/-- One frame of an interop carrier (R174, R201, R202): the client blocks of its port go into 400ZR frames at 59.84375 GBd. -/
def Dev.zrFrameTx (d : Dev) (c : Nat) (lanes : List (List (BitVec 10))) : Dev :=
  let (us, d1) := (d.dacGain c).zrIngress (d.actFld (aCarrZr c) ⟨0, 6⟩) lanes
  let bits := (d1.txModem c).zr ++ us.flatMap enc257
  let (syms, n) := Config.zrSend bits
  let new := syms.map fun q => (⟨⟨q.1.1, q.1.2⟩, ⟨q.2.1, q.2.2⟩⟩ : Pol)
  let d2 := d1.onTxm c fun m =>
    let m := if m.last.isNone then { start := d1.time } else m
    { m with last := some ⟨0, 0, 0, 0, 0, none⟩, zr := bits.drop n, syms := m.syms ++ new, out := m.out ++ new }
  ((d2.onCarrier c fun k => { k with midCode := false }).sendSamples c).onTxm c TxModem.prune

/-- The start of a transmitted carrier frame is the transmit boundary of its carrier (Table 1-3). `lanes` holds what came meanwhile on
the lanes of an interop carrier's port. -/
def execCarrierFrameTx (c : Fin 48) (lanes : List (List (BitVec 10))) (s : State) : Answer :=
  .next (if s.dev.sendsFrames c then
    let s1 := s.onWithSsf fun d => d.boundary (.carrier c) .tx
    if !s1.dev.sendsFrames c then s1
    else if s1.dev.txZr c then s1.onWithSsf fun d => d.zrFrameTx c lanes
    else s1.frameTx c
  else s)

/-! The received band overhead block (R135 to R137). -/

/-- The block that 256 slices carry, when it is accepted. -/
def acceptBlock (slices : List (List Byte)) : Option (List Byte) :=
  let good := decide (slices.length = 256) && slices.all sliceOk &&
    decide (slices.map (fun b => (b.headD 0).toNat) = List.range 256)
  let block := slices.flatMap fun b => (b.drop 1).take 2
  if good && decide (ofBytes (block.drop 508) = (crc32 (block.take 508)).toNat) then some block else none

/-- A field of `n` bytes at byte `i`. -/
def fieldAt (b : List Byte) (i n : Nat) : Nat := ofBytes ((b.drop i).take n)

/-- The fields of an accepted block (Table 5-2). -/
def parseBlock (b : List Byte) : Boh :=
  { band := BitVec.ofNat 16 (fieldAt b 2 2), pkg := BitVec.ofNat 2 (fieldAt b 4 1), set := (fieldAt b 4 1).testBit 2,
    ident := BitVec.ofNat 64 (fieldAt b 8 8), epoch := BitVec.ofNat 32 (fieldAt b 16 4),
    cbmf := BitVec.ofNat 32 (fieldAt b 20 4), page := (fieldAt b 24 1).testBit 0, pend := (fieldAt b 24 1).testBit 1,
    swapAt := BitVec.ofNat 32 (fieldAt b 28 4), omfRef := BitVec.ofNat 32 (fieldAt b 32 4),
    xhBank := (fieldAt b 36 1).testBit 0, xhPend := (fieldAt b 36 1).testBit 1,
    xhAt := BitVec.ofNat 32 (fieldAt b 40 4),
    ofs := (List.range 48).map fun j => BitVec.ofNat 16 (fieldAt b (48 + 2 * j) 2),
    ofsSeq := BitVec.ofNat 8 (fieldAt b 144 1), rxs := (b.drop 148).take 48, bytes := b }

/-- A block is accepted; the page fields count only from the lead carrier (R136). -/
def State.blockAccepted (s : State) (c : Nat) (b : Boh) : State :=
  let s1 := s.on fun d =>
    ((d.onCarrier c fun k => { k with boh := some b, sinceBoh := 0 }).bohUpdate c).xhBlock c b
  if s1.dev.leadCarrier = some c then s1.pageFields c b else s1

/-- A block is discarded and counted. -/
def Dev.blockDiscarded (d : Dev) (c : Nat) : Dev :=
  ((d.count pcFramer 2 c 1).onCarrier c fun k => { k with sinceBoh := min 4 (k.sinceBoh + 1) }).bohUpdate c

/-- The end of a band multiframe of a received native carrier that is LOCKED: the block of the 256 slices that its frames have
delivered. -/
def execBohBlockReceived (c : Fin 48) (s : State) : Answer :=
  if decide (s.dev.rxState c = rxLocked) && !s.dev.cZr c then
    let s1 := s.on fun d => d.onRxm c fun m => { m with ended := [] }
    match acceptBlock (s.dev.rxModem c).ended with
    | some b => .next (s1.blockAccepted c (parseBlock b))
    | none => s1.nextOn fun d => d.blockDiscarded c
  else .next s

/-! Rows of defects (R142, R143). Each holds to its criterion, as far as the state decides it (log entry 2). -/

/-- Received carrier `c` delivers OTUCn-M bytes (R142). -/
def Dev.delivers (d : Dev) (c : Nat) : Bool :=
  d.cEnabled c && !d.cZr c && decide (d.rxState c = rxLocked) && (d.carrier c).delin.isSome

/-- The TIM mode of an overhead object is on. -/
def Dev.timOn (d : Dev) (o : Nat) : Bool := decide ((d.overhead o).timMode ≠ 0)

/-- PM STAT: AIS 0b111, LCK 0b101, OCI 0b110, with the index of its defect from `base` on. -/
def statDefect (base : Nat) (v : BitVec 3) : Option Nat :=
  if v = 7 then some base else if v = 5 then some (base + 1) else if v = 6 then some (base + 2) else none

/-- A maintenance defect enters: its STAT has come in 3 consecutive frames. -/
def Overhead.statIn (o : Overhead) (base i : Nat) : Bool := decide (3 ≤ o.statRun ∧ statDefect base o.stat = some i)

/-- The fields that the TIM mode selects agree: SAPI bytes 0 to 15, DAPI bytes 16 to 31. -/
def ttiAgrees (mode : Nat) (acc exp : List Byte) : Bool :=
  (!mode.testBit 0 || decide (acc.take 16 = exp.take 16)) &&
    (!mode.testBit 1 || decide ((acc.drop 16).take 16 = (exp.drop 16).take 16))

/-- The accepted TTI differs from the expected one in the fields that the TIM mode selects. -/
def Overhead.tim (o : Overhead) : Bool :=
  decide (o.timMode ≠ 0 ∧ o.accTti ≠ []) && !ttiAgrees o.timMode o.accTti o.expTti

/-- The criterion of Table 5-5 for the entry of carrier defect `i` from 3 on. -/
def Dev.carrEntry (d : Dev) (c i : Nat) : Bool :=
  let o := d.overhead (4096 + c)
  match i with
  | 3 => !(d.delivers c && !o.oof)
  | 4 => !(d.delivers c && !o.oom)
  | 8 => o.tim
  | 9 => decide (5 ≤ o.bdiRun) && o.bdiLast
  | 10 => decide (Fld.get ⟨7, 4⟩ (d.actReg 0x100024) ≤ (d.carrier c).degBad)
  | _ => (d.overhead (4160 + c)).statIn 5 i

/-- The criterion for its exit. -/
def Dev.carrExit (d : Dev) (c i : Nat) : Bool :=
  let o := d.overhead (4096 + c)
  match i with
  | 3 => d.delivers c && !o.oof
  | 4 => d.delivers c && !o.oom
  | 8 => !o.tim
  | 9 => decide (5 ≤ o.bdiRun) && !o.bdiLast
  | 10 => decide (Fld.get ⟨7, 4⟩ (d.actReg 0x100024) ≤ (d.carrier c).degGood)
  | _ => decide (3 ≤ (d.overhead (4160 + c)).statOff)

def Dev.carrierDefectEnter (d : Dev) (c : Nat) (i : Nat) : Dev :=
  if !d.cEnabled c then d
  else match i with
  | 0 => d.loliEnter c
  | 1 => if d.rxState c = rxLocked then d else d.carrDefect c 1 true
  | 2 => d.locfEnter c
  | i => if d.carrEntry c i then d.carrDefect c i true else d

def Dev.carrierDefectExit (d : Dev) (c : Nat) (i : Nat) : Dev :=
  if !d.cEnabled c then d
  else match i with
  | 0 => d.loliExit c
  | 1 => if d.rxState c = rxLocked then d.carrDefect c 1 false else d
  | 2 => d.locfExit c
  | i => if d.carrExit c i then d.carrDefect c i false else d

def execCarrierDefectEnter (c : Fin 48) (d : Fin 11) (s : State) : Answer :=
  .next (s.onWithSsf fun v => v.carrierDefectEnter c d)

def execCarrierDefectExit (c : Fin 48) (d : Fin 11) (s : State) : Answer :=
  .next (s.onWithSsf fun v => v.carrierDefectExit c d)

/-- The criterion of Table 5-6 for the entry of a flow defect: SSF and SKEW follow their causes, KEY and AUTH the last received
crypto block (R102, R103). -/
def State.flowEntry (s : State) (f i : Nat) : Bool :=
  let w := s.dev.flow f
  let o := s.dev.overhead f
  match i with
  | 0 => s.ssfCause f
  | 1 => decide (s.dev.depth < s.flowSpread f)
  | 5 => o.tim
  | 6 => decide (w.rxEnd = .empty)
  | 7 => decide (w.rxEnd = .bad)
  | 8 => decide (5 ≤ o.bdiRun) && o.bdiLast
  | 9 => decide (Fld.get ⟨18, 4⟩ (s.dev.actReg 0x100024) ≤ w.degBad)
  | _ => o.statIn 2 i

/-- The criterion for its exit. -/
def State.flowExit (s : State) (f i : Nat) : Bool :=
  let w := s.dev.flow f
  let o := s.dev.overhead f
  match i with
  | 0 => !s.ssfCause f
  | 1 => decide (s.flowSpread f + 20 ≤ s.dev.depth)
  | 5 => !o.tim
  | 6 => decide (w.rxEnd = .good)
  | 7 => decide (8 ≤ w.good)
  | 8 => decide (5 ≤ o.bdiRun) && !o.bdiLast
  | 9 => decide (Fld.get ⟨18, 4⟩ (s.dev.actReg 0x100024) ≤ w.degGood)
  | _ => decide (3 ≤ o.statOff)

def execFlowDefectEnter (f : Fin 4096) (d : Fin 10) (s : State) : Answer :=
  .next (if s.flowEntry f d then s.on fun v => v.flowDefect f d true else s)

def execFlowDefectExit (f : Fin 4096) (d : Fin 10) (s : State) : Answer :=
  .next (if s.flowExit f d then s.on fun v => v.flowDefect f d false else s)

/-! DEG (R145). -/

/-- The second is bad: its errored blocks reach the threshold in percent. A second without blocks is good (DESIGN CHOICE, log
entry 105: R145 does not say). -/
def secondBad (thr errored blocks : Nat) : Bool := decide (0 < blocks ∧ thr * blocks ≤ 100 * errored)

/-- Consecutive bad and good seconds after one more, up to `m`. -/
def degRuns (m bad good : Nat) (isBad : Bool) : Nat × Nat :=
  if isBad then (min m (bad + 1), 0) else (0, min m (good + 1))

/-- DEG enters after `m` bad seconds and exits after `m` good ones. The blocks of the second are the frames received in it, one for
each OTUC instance of a carrier. -/
def Dev.degSecond (d : Dev) (o : DegRef) : Dev :=
  let cfg := d.actReg 0x100024
  match o with
  | .carrier c =>
    if !d.cEnabled c then d
    else
      let m := Fld.get ⟨7, 4⟩ cfg
      let r := degRuns m (d.carrier c).degBad (d.carrier c).degGood
        (secondBad (Fld.get ⟨0, 7⟩ cfg) (d.carrier c).secErrored (d.carrier c).secFrames)
      let d1 := d.onCarrier c fun k => { k with degBad := r.1, degGood := r.2, secFrames := 0, secErrored := 0 }
      if m ≤ r.1 then d1.carrDefect c 10 true else if m ≤ r.2 then d1.carrDefect c 10 false else d1
  | .flow f =>
    if !(d.flow f).alive then d
    else
      let m := Fld.get ⟨18, 4⟩ cfg
      let r := degRuns m (d.flow f).degBad (d.flow f).degGood
        (secondBad (Fld.get ⟨11, 7⟩ cfg) (d.flow f).secErrored (d.flow f).secFrames)
      let d1 := d.onFlow f fun k => { k with degBad := r.1, degGood := r.2, secFrames := 0, secErrored := 0 }
      if m ≤ r.1 then d1.flowDefect f 9 true else if m ≤ r.2 then d1.flowDefect f 9 false else d1

def execDegSecond (o : DegRef) (s : State) : Answer :=
  .next (s.onWithSsf fun d => d.degSecond o)

end Sys2Proof.Machine
end

