-- ==== Sys2Proof/Machine/Overhead.lean ====
section
/-!
DEFINITION. Overhead access (R152 to R155, R406, R407): sending through the overhead rings, receive descriptors and what
fills them, and the overhead of a received OTU or ODU frame (R142, R143, R149).
-/
namespace Sys2Proof.Machine
open RegMap

/-! The overhead ring. -/

/-- The head of a tenant's overhead ring, if its operation is `op`. -/
def Dev.ohHead (d : Dev) (t op : Nat) : Option (BitVec 16 × Desc) :=
  match (d.ring t .overhead).fetched with
  | [] => none
  | e :: _ => if e.2.op.toNat = op then some e else none

/-- A SEND operation of the head runs and completes. -/
def Dev.ohSend (d : Dev) (t op : Nat) (run : Desc → Dev → Dev × Nat) : Dev :=
  match d.ohHead t op with
  | none => d
  | some (_, ds) => let r := run ds d; r.1.headDone t .overhead r.2

/-- TX_TTI: in force from the next multiframe. -/
def execTxTti (t : Fin 4096) (buf : List Byte) (s : State) : Answer :=
  s.nextOn fun d => d.ohSend t 0x0200 fun ds d =>
    if buf.length = 64 then (d.onOverhead ds.ohKey fun o => { o with txTtiNext := some buf }, stDone) else (d, stRefused)

/-- EXP_TTI: the expected TTI and the TIM mode, in force from the next multiframe. -/
def execExpTti (t : Fin 4096) (buf : List Byte) (s : State) : Answer :=
  s.nextOn fun d => d.ohSend t 0x0201 fun ds d =>
    if buf.length = 64 then (d.onOverhead ds.ohKey fun o => { o with expTtiNext := some (buf, ds.p8 28) }, stDone)
    else (d, stRefused)

/-- TX_FIELD: a value from the buffer, or from par when there is no buffer, for a field and level. -/
def execTxField (t : Fin 4096) (buf : List Byte) (s : State) : Answer :=
  s.nextOn fun d => d.ohSend t 0x0202 fun ds d =>
    let v := if ds.len = 0 then ds.par.drop 4 else buf
    (d.onOverhead ds.ohKey fun o =>
      { o with txFields := (ds.p8 28, ds.p8 29, v) :: o.txFields.filter fun e => !decide (e.1 = ds.p8 28 ∧ e.2.1 = ds.p8 29) },
     stDone)

/-- TX_GCC: the bytes are queued in order behind those of the channel. -/
def execTxGcc (t : Fin 4096) (buf : List Byte) (s : State) : Answer :=
  s.nextOn fun d => d.ohSend t 0x0203 fun ds d => (d.gccPut ds.ohKey (ds.p8 28) buf, stDone)

/-- RECV: the head is posted, and the descriptors behind it go on. -/
def execRecv (t : Fin 4096) (s : State) : Answer :=
  s.nextOn fun d => match d.ohHead t 0x0210 with
    | none => d
    | some (i, ds) =>
      ((d.unfetch t .overhead i).onRing t .overhead fun r => { r with recvs := r.recvs ++ [(i, ds, [], false)] }).settle t
        .overhead

/-- A posted receive descriptor completes with its bytes; a gap before the first byte is marked (R407). -/
def Dev.recvDone (d : Dev) (t : Nat) (e : BitVec 16 × Desc × List Byte × Bool) : Dev :=
  let d1 := (d.onRing t .overhead fun r => { r with recvs := r.recvs.filter fun x => x.1 ≠ e.1 }).emit (.buffer t e.2.2.1)
  d1.complete t .overhead ⟨e.1, e.2.1, false, false⟩ stDone
    (BitVec.ofNat 32 (e.2.2.1.length + if e.2.2.2 then 2 ^ 31 else 0))

/-- The tenant whose ring reaches an overhead object (Table 5-12). -/
def Dev.ohTenant (d : Dev) (key : Nat) : Nat := if key < 4096 then d.flowTenant key else 0

/-- The first posted descriptor of an object and kind. -/
def Dev.recvFor (d : Dev) (key kind : Nat) : Option (BitVec 16 × Desc × List Byte × Bool) :=
  (d.ring (d.ohTenant key) .overhead).recvs.find? fun e => decide (e.2.1.ohKey = key ∧ e.2.1.p8 28 = kind)

/-- An accepted change goes to the next descriptor of its kind. -/
def Dev.recvChange (d : Dev) (key kind : Nat) (bytes : List Byte) : Dev :=
  match d.recvFor key kind with
  | none => d
  | some (i, ds, _, g) => d.recvDone (d.ohTenant key) (i, ds, bytes.take ds.len.toNat, g)

/-- Bytes of a GCC channel fill the descriptors in the order posted; bytes without one are dropped and counted, and the next
descriptor written is marked (R154). -/
def Dev.gccDeliver (d : Dev) (key chan : Nat) : Nat → List Byte → Dev
  | 0, _ => d
  | _, [] => d
  | n + 1, bytes =>
    match d.recvFor key (chan + 2) with
    | none =>
      (d.onOverhead key fun o => { o with gap := chan :: o.gap.filter (· ≠ chan) }).count pcFramer 3 0 bytes.length
    | some (i, ds, have_, g) =>
      let room := ds.len.toNat - have_.length
      let got := have_ ++ bytes.take room
      let gap := g || (have_.isEmpty && (d.overhead key).gap.contains chan)
      let d1 := d.onOverhead key fun o => { o with gap := o.gap.filter (· ≠ chan) }
      let e := (i, ds, got, gap)
      if ds.len.toNat ≤ got.length then (d1.recvDone (d.ohTenant key) e).gccDeliver key chan n (bytes.drop room)
      else d1.onRing (d.ohTenant key) .overhead fun r =>
        { r with recvs := r.recvs.map fun x => if x.1 = i then e else x }

/-- 100 µs have passed since the last byte of a GCC descriptor that holds bytes (R407). -/
def execGccRecvTimeout (t : Fin 4096) (idx : BitVec 16) (s : State) : Answer :=
  s.nextOn fun d =>
    match (d.ring t .overhead).recvs.find? fun e => decide (e.1 = idx) with
    | none => d
    | some e => if e.2.2.1.isEmpty || decide (e.2.1.p8 28 < 2 ∨ 4 < e.2.1.p8 28) then d else d.recvDone t e

/-! A received frame. -/

/-- The index of a defect in the list of its object: AIS, LCK and OCI begin at 5 for carriers and at 2 for flows. -/
def Dev.ohDefect (d : Dev) (key i : Nat) (b : Bool) : Dev :=
  if key < 4096 then d.flowDefect key i b else d.carrDefect ((key - 4096) % 64) i b

def Dev.ohRaw (d : Dev) (key i : Nat) : Bool :=
  if key < 4096 then (d.flow key).raw.getLsbD i else (d.carrier ((key - 4096) % 64)).raw.getLsbD i

/-- A maintenance defect enters after 3 consecutive frames with its STAT and exits after 3 with any other (R142, R143). -/
def Dev.rxStatField (d : Dev) (key base : Nat) (v : BitVec 3) : Dev :=
  let o := d.overhead key
  let run := if o.stat = v then min 3 (o.statRun + 1) else 1
  let present := (List.range 3).find? fun i => d.ohRaw key (base + i)
  let off := match present with
    | some i => if statDefect base v = some (base + i) then 0 else min 3 (o.statOff + 1)
    | none => 0
  let d1 := d.onOverhead key fun o => { o with stat := v, statRun := run, statOff := off }
  let d2 := match present with
    | some i => if 3 ≤ off then d1.ohDefect key (base + i) false else d1
    | none => d1
  match statDefect base v with
  | some i => if 3 ≤ run then d2.ohDefect key i true else d2
  | none => d2

/-- BDI enters and exits after 5 consecutive frames. -/
def Dev.rxBdi (d : Dev) (key i : Nat) (v : Bool) : Dev :=
  let o := d.overhead key
  let run := if o.bdiLast = v then min 5 (o.bdiRun + 1) else 1
  let d1 := d.onOverhead key fun o => { o with bdiLast := v, bdiRun := run }
  if 5 ≤ run then d1.ohDefect key i v else d1

/-- TIM follows the accepted and expected TTI. -/
def Dev.timUpdate (d : Dev) (key i : Nat) : Dev :=
  d.ohDefect key i (d.overhead key).tim

/-- The end of a received 64-frame multiframe with its TTI (R153); `tim` is the TIM defect, where the TTI is checked. -/
def Dev.rxTti (d : Dev) (key : Nat) (tim : Option Nat) (tti : List Byte) : Dev :=
  let o := d.overhead key
  let run := if o.candTti = tti then min 3 (o.candRun + 1) else 1
  let d1 := d.onOverhead key fun o =>
    match o.expTtiNext with
    | some (e, m) => { o with candTti := tti, candRun := run, expTti := e, timMode := m, expTtiNext := none }
    | none => { o with candTti := tti, candRun := run }
  let d2 := if 3 ≤ run ∧ o.accTti ≠ tti then
      (d1.onOverhead key fun o => { o with accTti := tti }).recvChange key 0 tti
    else d1
  match tim with | some i => d2.timUpdate key i | none => d2

/-- A received APS/PCC value of a level: accepted when received identical 3 consecutive times (R155). -/
def Dev.rxAps (d : Dev) (key lvl : Nat) (v : BitVec 32) : Dev :=
  let o := d.overhead key
  let run := match o.candAps.find? fun e => decide (e.1 = lvl) with
    | some (_, w, n) => if w = v then min 3 (n + 1) else 1
    | none => 1
  let d1 := d.onOverhead key fun o =>
    { o with candAps := (lvl, v, run) :: o.candAps.filter fun e => e.1 ≠ lvl }
  if 3 ≤ run ∧ o.accAps.lookup lvl ≠ some v then
    (d1.onOverhead key fun o => { o with accAps := (lvl, v) :: o.accAps.filter fun e => e.1 ≠ lvl }).recvChange key 1
      (BitVec.ofNat 8 lvl :: bytesOf 4 v.toNat)
  else d1

/-- Frame and multiframe alignment (R142): lost after 5 consecutive frames without FAS or MFAS, found with the first one
(log entry 28). -/
def Dev.rxAlign (d : Dev) (key : Nat) (fas mfas : Bool) : Dev :=
  d.onOverhead key fun o =>
    let r := if fas then 0 else min 5 (o.oofRun + 1)
    let m := if fas && mfas then 0 else min 5 (o.oomRun + 1)
    { o with oofRun := r, oof := !fas && (o.oof || decide (5 ≤ r)),
             oomRun := m, oom := !(fas && mfas) && (o.oom || decide (5 ≤ m)) }

/-- Errored blocks of BIP-8 and BEI are counted (Table 17-3), and the violations kept for the BEI sent back (R149). -/
def Pm.errors (p : Pm) (bip bei : Nat) : Pm :=
  { p with bip := min (2 ^ 32 - 1) (p.bip + bip), bei := min (2 ^ 32 - 1) (p.bei + bei) }

/-- Snapshot descriptors waiting for a field of the object take it (R407). -/
def Dev.rxFields (d : Dev) (key : Nat) (fields : List (Nat × List Byte)) : Dev :=
  each fields (fun f d =>
    match (d.ring (d.ohTenant key) .overhead).recvs.find? fun e =>
        decide (e.2.1.ohKey = key ∧ e.2.1.p8 28 = 5 ∧ e.2.1.p8 29 = f.1) with
    | none => d
    | some (i, ds, _, g) => d.recvDone (d.ohTenant key) (i, ds, f.2.take ds.len.toNat, g)) d

/-- The TTI byte of a received frame; the 64th of a multiframe completes it. -/
def Dev.rxTtiByte (d : Dev) (key : Nat) (tim : Option Nat) (mfas : Nat) (v : Byte) : Dev :=
  let i := mfas % 64
  let got := if i = 0 then [v] else if (d.overhead key).ttiIn.length = i then (d.overhead key).ttiIn ++ [v] else []
  if got.length = 64 then (d.onOverhead key fun o => { o with ttiIn := [] }).rxTti key tim got
  else d.onOverhead key fun o => { o with ttiIn := got }

/-- APS/PCC of a frame and the fields of it that a tenant may ask for (Table 14-8); `at_` reads bytes at a row and column. -/
def Dev.rxOpen (d : Dev) (key mfas : Nat) (at_ : Nat → Nat → Nat → List Byte) : Dev :=
  (d.rxAps key (mfas % 8) (BitVec.ofNat 32 (ofBytes (at_ 4 5 4)))).rxFields key
    (ohFields.map fun e => (e.1, e.2.flatMap fun p => at_ p.1 p.2.1 p.2.2))

/-! The OTUCn-M frames of a carrier (R142, R149, R153, R154). -/

/-- Bytes of the longest frame. -/
def otuMax (m : Nat) : Nat := (List.range 20).foldl (fun a o => max a (otuLen m o)) 0

/-- The next frame among the bytes that a carrier has delivered, with its place in the OPUCn multiframe: where the last one ended, or
found by its FAS while the carrier is out of frame. None until it has come whole. -/
def Dev.nextOtu (d : Dev) (c m : Nat) : Option (List Byte × Nat × List Byte) :=
  let k := d.rxModem c
  let take (bs : List Byte) (o : Nat) := (bs.take (otuLen m o), o, bs.drop (otuLen m o))
  if (d.overhead (4096 + c)).oof then (otuFind m k.otu).map fun p => take p.1 p.2
  else if k.otu.length < otuLen m k.omfi then none else some (take k.otu k.omfi)

/-- Errored instances of a frame: violations of BIP-8 of each. -/
def smViolations (bips : List Bip) (p : OtuFrame) : List Nat :=
  p.oh.zipIdx.map fun o => (bips.getD o.2 {}).violations (o.1.getD (ohPos 1 9) 0)

/-- SM overhead of an aligned frame: errored blocks, BEI to send back, BDI, TTI, GCC0. -/
def Dev.rxSm (d : Dev) (c mfas : Nat) (p : OtuFrame) : Dev :=
  let key := 4096 + c
  let vs := smViolations (d.carrier c).bipRx p
  let bad := (vs.filter (0 < ·)).length
  let bei := (p.oh.filter fun o => decide (0 < beiCount ((o.getD (ohPos 1 10) 0).toNat / 16))).length
  let d1 := d.onCarrier c fun k =>
    { k with bipRx := p.bip.zipIdx.map fun b => (k.bipRx.getD b.2 {}).push b.1, pm := k.pm.errors bad bei,
             secFrames := k.secFrames + p.oh.length, secErrored := k.secErrored + bad,
             beiDue := vs.zipIdx.map fun v => k.beiDue.getD v.2 [] ++ [v.1] }
  let oh := p.oh.headD []
  let d2 := (d1.rxTtiByte key (some 8) mfas (oh.getD (ohPos 1 8) 0)).rxBdi key 9 ((oh.getD (ohPos 1 10) 0).getLsbD 3)
  let gcc := p.oh.flatMap fun o => ohAt o 1 11 2
  d2.gccDeliver key 0 (gcc.length + 1) gcc

/-- One OTUCn-M frame of a received carrier: aligned by FAS and MFAS (log entry 28), its SM overhead taken, and passed on. -/
def Dev.otuRx (d : Dev) (c : Nat) : Dev :=
  let m := d.cSlots c
  let key := 4096 + c
  match d.nextOtu c m with
  | none => if (d.overhead key).oof then d.onRxm c fun k => { k with otu := k.otu.drop (k.otu.length - otuMax m) } else d
  | some (bytes, omfi, rest) =>
    let found := decide (bytes.take 6 = fas)
    let v := (bytes.getD 6 0).toNat
    let seen := match (d.rxModem c).mfas with | none => true | some e => decide (e = v)
    let d1 := (d.onRxm c fun k => { k with otu := rest, omfi := (omfi + 1) % 20 }).rxAlign key found seen
    let o := d1.overhead key
    let mfas := if seen then v else ((d.rxModem c).mfas).getD v
    let d2 := d1.onRxm c fun k => { k with mfas := if o.oof || o.oom then none else some ((mfas + 1) % 256) }
    if o.oof || o.oom then d2
    else (d2.rxSm c mfas (parseOtu m omfi bytes)).onRxm c fun k => { k with otuFrames := k.otuFrames ++ [(bytes, mfas, omfi)] }

/-! The ODUCn inside, and its tributary slots (R65, R70, R128, R152 to R155). -/

/-- The justification bytes of an instance: JC1 to JC3 in column 16, JC4 to JC6 in column 15. -/
def jcBytesOf (oh : List Byte) : List Byte :=
  [oh.getD (ohPos 1 16) 0, oh.getD (ohPos 2 16) 0, oh.getD (ohPos 3 16) 0, oh.getD (ohPos 1 15) 0, oh.getD (ohPos 2 15) 0, oh.getD (ohPos 3 15) 0]

/-- The flow and slot index of tributary slot `i` of a received carrier under the active receive page. -/
def State.rxSlot (s : State) (c i : Nat) : Option (Nat × Nat) :=
  let p := s.dev.actPage true
  let e := s.conn.entry p true (s.conn.base p true c + i)
  if !e.getLsbD 0 || !(s.dev.flow (entryFlow e)).alive then none else some (entryFlow e, entryIdx e)

/-- The OPUCn multiframe behind the one that frame `omfi` with this MFAS belongs to. -/
def nextMulti (mfas omfi : Nat) : Nat := (mfas + 256 - omfi + 20) % 256

/-- Every slot's bytes go to the flow that holds it, and the justification bytes tell how many words the next multiframe holds. -/
def State.gather (s : State) (c mfas omfi : Nat) (p : OtuFrame) : State :=
  let s1 := each p.slots (fun q s => match s.rxSlot c q.1 with
    | none => s
    | some (f, j) => s.on fun d => d.onFlow f fun w =>
        let n := wordNo mfas omfi q.2.1
        { w with rxWords := SMap.put w.rxWords n [] (SMap.put (SMap.get w.rxWords n []) j [] q.2.2) }) s
  each p.oh.zipIdx (fun o s => match s.rxSlot c (20 * o.2 + omfi), Config.jcRead (jcBytesOf o.1) with
    | some (f, _), some n => s.on fun d => d.onFlow f fun w => { w with rxCm := SMap.insert (SMap.erase w.rxCm (nextMulti mfas omfi)) (nextMulti mfas omfi) n }
    | _, _ => s) s1

/-- The ODUCn frame of a received carrier: its PM overhead, and the slots of its flows. The frame with MFAS 0 starts an ODU multiframe,
whose arrival is measured in 10 ns (R66, R69, R80). -/
def State.oduRx (s : State) (c : Nat) : State :=
  match (s.dev.rxModem c).otuFrames with
  | [] => s
  | (bytes, mfas, omfi) :: rest =>
    let p := parseOtu (s.dev.cSlots c) omfi bytes
    let oh := p.oh.headD []
    let key := 4160 + c
    let s1 := s.on fun d =>
      let d1 := d.onRxm c fun k => { k with otuFrames := rest }
      let d2 := if mfas = 0 then d1.onCarrier c fun k => { k with arrival := some (d.time / 10), mfRx := k.mfRx + 1 } else d1
      let d3 := (d2.rxTtiByte key none mfas (oh.getD (ohPos 3 10) 0)).rxOpen key mfas (ohAt oh)
      ((d3.rxStatField key 5 ((oh.getD (ohPos 3 12) 0).setWidth 3)).gccDeliver key 1 3 (ohAt oh 4 1 2)).gccDeliver key 2 3 (ohAt oh 4 3 2)
    s1.gather c mfas omfi p

/-! The ODUflex frames of a flow. -/

/-- Bytes of an ODUflex frame, and those at a row and column of it. -/
def flexLen : Nat := 15296
def flexAt (bytes : List Byte) (row col n : Nat) : List Byte := (bytes.drop (3824 * (row - 1) + (col - 1))).take n

/-- The OPU bytes of a frame: columns 15 to 3,824. -/
def flexOpu (bytes : List Byte) : List Byte := (List.range 4).flatMap fun r => flexAt bytes (r + 1) 15 3810

/-- One GMP word of a flow, in the order of time, once every slot has brought its part: its bytes where it is a data word. Where a word
never came whole while the multiframe after next is already here, the stream goes on behind it. -/
def Flow.takeWord (w : Flow) : Option Flow :=
  match w.rxNext with
  | none => (w.rxWords.find? fun e => decide (e.1 % 952 = 0 ∧ e.2.length = w.slots)).map fun e => { w with rxNext := some e.1 }
  | some n =>
    let ps := SMap.get w.rxWords n []
    let mine (k : Nat) : Bool := decide (k / 952 = n / 952)
    if ps.length = w.slots ∧ 0 < w.slots then
      let data := (w.rxCm.find? fun e => decide (e.1 = n / 952)).any fun e => gmpData e.2 (n % 952)
      some { w with rxWords := SMap.erase w.rxWords n, rxNext := some (nextWord n),
                    rxCm := if n % 952 = 951 then SMap.erase w.rxCm (n / 952) else w.rxCm,
                    rxBytes := if data then w.rxBytes ++ ps.flatMap fun e => e.2 else w.rxBytes }
    else if w.rxWords.any fun e => decide (e.1 / 952 = (n / 952 + 40) % 256) then
      some { w with rxWords := w.rxWords.filter fun e => !mine e.1, rxCm := SMap.erase w.rxCm (n / 952),
                    rxNext := some ((n / 952 + 20) % 256 * 952) }
    else none

/-- Words are taken as far as they have come. -/
def Flow.takeWords (w : Flow) : Nat → Flow
  | 0 => w
  | n + 1 => match w.takeWord with | none => w | some v => v.takeWords n

/-- The bytes from the first FAS on. -/
def fromFas : List Byte → List Byte
  | [] => []
  | b :: bs => if (b :: bs).take 6 = fas.take (b :: bs).length then b :: bs else fromFas bs

/-- The next ODUflex frame of a flow, once it has come whole. -/
def Flow.nextFrame (w : Flow) : Option (List Byte) × Flow :=
  let v := w.takeWords (w.rxWords.length + 64)
  let bs := fromFas v.rxBytes
  if bs.length < flexLen then (none, { v with rxBytes := bs }) else (some (bs.take flexLen), { v with rxBytes := bs.drop flexLen })

/-- The overhead of an ODUflex frame. Its GCC2 belongs to the trust core (Table 5-12); under LCK and KEY, too, GCC and APS/PCC are taken
(R151). The frame waits for the cipher. -/
def Dev.flexRx (d : Dev) (f : Nat) : Dev :=
  let (frame, w) := (d.flow f).nextFrame
  let d0 := d.onFlow f fun _ => w
  match frame with
  | none => d0
  | some bytes =>
    let at_ := flexAt bytes
    let mfas := ((at_ 1 7 1).headD 0).toNat
    let v := w.bipRx.violations ((at_ 3 11 1).headD 0)
    let bad := decide (0 < v)
    let pm := (at_ 3 12 1).headD 0
    let d1 := d0.onFlow f fun w =>
      { w with bipRx := w.bipRx.push (bip8 (flexOpu bytes)), beiDue := w.beiDue ++ [v], secFrames := w.secFrames + 1,
               secErrored := w.secErrored + bad.toNat, pm := w.pm.errors bad.toNat (decide (0 < beiCount (pm.toNat / 16))).toNat,
               rxFrames := (w.rxFrames ++ [bytes]).drop (w.rxFrames.length - 159) }
    (((((d1.rxTtiByte f (some 5) mfas ((at_ 3 10 1).headD 0)).rxOpen f mfas at_).rxStatField f 2 (pm.setWidth 3)).rxBdi f 8
      (pm.getLsbD 3)).gccDeliver f 1 3 (at_ 4 1 2))

/-- A received OTU or ODU frame of a carrier, or ODUflex frame of a flow. -/
def State.oduFrameRx (s : State) (o : OhRef) : State :=
  match o with
  | .otuc c => if s.dev.delivers c then s.on fun d => d.otuRx c else s
  | .oduc c => if s.dev.delivers c then s.oduRx c else s
  | .flow f => if (s.dev.flow f).alive then s.on fun d => d.flexRx f else s

def execOduFrameRx (o : OhRef) (s : State) : Answer := .next (s.oduFrameRx o).ssfUpdate

end Sys2Proof.Machine
end

