-- ==== Sys2Proof/Machine/Context.lean ====
section
/-!
DEFINITION. Key slots of a flow, and the context records by which a protection pair shares them (R100, R111 to R113, R380).
-/
namespace Sys2Proof.Machine

/-! Key slots. -/

def Flow.tx (w : Flow) (ki : Bool) : KeySlot := if ki then w.tx1 else w.tx0
def Flow.rx (w : Flow) (ki : Bool) : KeySlot := if ki then w.rx1 else w.rx0
def Flow.setTx (w : Flow) (ki : Bool) (k : KeySlot) : Flow := if ki then { w with tx1 := k } else { w with tx0 := k }

/-- A receive slot is loaded or zeroized, which clears its counter record (R100). -/
def Flow.setRx (w : Flow) (ki : Bool) (k : KeySlot) : Flow :=
  if ki then { w with rx1 := k, last1 := none } else { w with rx0 := k, last0 := none }

def Flow.last (w : Flow) (ki : Bool) : Option (BitVec 64) := if ki then w.last1 else w.last0
def Flow.setLast (w : Flow) (ki : Bool) (c : BitVec 64) : Flow :=
  if ki then { w with last1 := some c } else { w with last0 := some c }

/-- The flow belongs to a pair in force and is not the active one (R381). -/
def Flow.isStandby (w : Flow) : Bool := w.pairInForce.isSome && !w.act

/-! Context records (Table 4-4). -/

/-- Key and salt of a slot. Table 4-4 gives zeros for the key of an empty slot and does not speak of its salt: zeros too
(DESIGN CHOICE, log entry 106). -/
def KeySlot.keyBytes (k : KeySlot) : List Byte := if k.loaded then bytesOf 32 k.key.toNat else List.replicate 32 0
def KeySlot.saltBytes (k : KeySlot) : List Byte := if k.loaded then bytesOf 4 k.salt.toNat else List.replicate 4 0

/-- The record of one direction of a flow, for flow number `g` at the importing package. Fields of several bytes stand most significant
byte first (DESIGN CHOICE, log entry 106: Table 4-4 does not say). -/
def Flow.contextRecord (w : Flow) (dir : Dir) (g : Nat) : List Byte :=
  let tx := decide (dir = .tx)
  let s0 := if tx then w.tx0 else w.rx0
  let s1 := if tx then w.tx1 else w.rx1
  let ki := if tx then w.txKi else w.rxKi
  let ctr : BitVec 64 := if tx then w.txCtr + 0x10000000000#64 else (w.last ki).getD 0
  s0.keyBytes ++ s1.keyBytes ++ s0.saltBytes ++ s1.saltBytes ++ bytesOf 8 ctr.toNat ++ bytesOf 2 g ++
    [BitVec.ofNat 8 (tx.toNat + 2 * ki.toNat + 4 * s0.loaded.toNat + 8 * s1.loaded.toNat + 16 * w.hold.toNat)] ++
    List.replicate 5 0

/-- Exports one direction of a working flow to the package of its peer flow, wrapped under the device wrapping key (R111, R112). -/
def Dev.exportDir (d : Dev) (f : Nat) (dir : Dir) : Dev :=
  match (d.flow f).pairInForce, d.tc.dwk with
  | some (k, g, false), some key =>
    let bytes := Config.aesKwWrap key ((d.flow f).contextRecord dir g)
    ((d.emit (.context f dir bytes)).sendPkg (Fin.ofNat 4 k) (.ctx bytes)).onFlow f fun w =>
      match dir with
      | .tx => { w with ctxWaitTx := true, exportAt := some w.txCtr }
      | .rx => { w with ctxWaitRx := true }
  | _, _ => d

/-- Exports both directions of a working flow. -/
def Dev.exportBoth (d : Dev) (f : Nat) : Dev := (d.exportDir f .tx).exportDir f .rx

/-- R112: a transmit counter has advanced 2^39 since the last export. -/
def execContextExport (f : Fin 4096) (s : State) : Answer :=
  s.nextOn fun d => match (d.flow f).exportAt with
    | some a => if 2 ^ 39 ≤ ((d.flow f).txCtr - a).toNat then d.exportDir f .tx else d
    | none => d

/-- Bytes `i` to `i + n − 1` as a number. -/
def bytesAt (b : List Byte) (i n : Nat) : Nat := ofBytes ((b.drop i).take n)

/-- An unwrapped record replaces one direction of flow `f`. With both receive slots loaded, the one that is not in use waits to be
zeroized (R99); a flow that transmits already rotates soon (R112). -/
def Flow.importRecord (w : Flow) (b : List Byte) : Flow :=
  let fl := b.getD 82 0
  let ki := fl.getLsbD 1
  let slot (i : Nat) : KeySlot :=
    if fl.getLsbD (2 + i) then ⟨true, BitVec.ofNat 256 (bytesAt b (32 * i) 32), BitVec.ofNat 32 (bytesAt b (64 + 4 * i) 4)⟩
    else {}
  let ctr := BitVec.ofNat 64 (bytesAt b 72 8)
  if fl.getLsbD 0 then
    { w with tx0 := slot 0, tx1 := slot 1, txKi := ki, txCtr := ctr, impTx := true, started := false, rotDue := !w.isStandby }
  else
    { ((w.setRx false (slot 0)).setRx true (slot 1)).setLast ki ctr with
      rxKi := ki, runKi := ki, run := 0, retireDue := (slot 0).loaded && (slot 1).loaded, impRx := true, hold := fl.getLsbD 4 }

/-- An import (R113): the flow and direction of the record, `none` when its integrity check fails, and the device after
the import, `none` when it is refused. -/
def Dev.importCtx (d : Dev) (wrapped : List Byte) : Option (Nat × Dir × Option Dev) :=
  match d.tc.dwk with
  | none => none
  | some key => match Config.aesKwUnwrap key wrapped with
    | none => none
    | some b =>
      let f := bytesAt b 80 2
      some (f, if (b.getD 82 0).getLsbD 0 then .tx else .rx,
        if decide (b.length = 88) && (d.flow f).alive && d.keysServed then some (d.onFlow f fun w => w.importRecord b)
        else none)

end Sys2Proof.Machine
end

