-- ==== Sys2Proof/Machine/Gcm.lean ====
section
/-!
DEFINITION. AES-256-GCM (R89, R90, R92): counter mode and GHASH as NIST SP 800-38D lays them down, over the block cipher of
FIPS 197, which is a constant without a body (log entry 5). A block is a number of 128 bits whose most significant bit is the
first one.
-/
namespace Sys2Proof.Machine

/-- The product in GF(2^128) with the polynomial x^128 + x^7 + x^2 + x + 1, the most significant bit being the coefficient of 1. -/
def ghashMul (x y : BitVec 128) : BitVec 128 :=
  ((List.range 128).foldl (fun (st : BitVec 128 × BitVec 128) i =>
    (if x.getLsbD (127 - i) then st.1 ^^^ st.2 else st.1,
     if st.2.getLsbD 0 then (st.2 >>> 1) ^^^ 0xE1000000000000000000000000000000#128 else st.2 >>> 1)) (0#128, y)).1

/-- The 16-byte blocks of a byte string, the last one filled with zeros. -/
def blocks16 (bs : List Byte) : List (BitVec 128) :=
  ((pieces 16 (bs.length / 16 + 1) (bs ++ List.replicate ((16 - bs.length % 16) % 16) 0)).1).map fun b => BitVec.ofNat 128 (ofBytes b)

/-- GHASH of additional data and ciphertext, with the block of their lengths in bits. -/
def ghash (h : BitVec 128) (aad ct : List Byte) : BitVec 128 :=
  let lens := BitVec.ofNat 128 (8 * aad.length * 2 ^ 64 + 8 * ct.length)
  (blocks16 aad ++ blocks16 ct ++ [lens]).foldl (fun y x => ghashMul (y ^^^ x) h) 0#128

/-- Counter block `n` of an IV of 96 bits; block 1 masks the tag. -/
def ctrBlock (iv : BitVec 96) (n : Nat) : BitVec 128 := iv ++ BitVec.ofNat 32 n

/-- Byte `i` of the key stream, which starts with counter block 2. -/
def keyByte (key : BitVec 256) (iv : BitVec 96) (i : Nat) : Byte :=
  (Config.aes256 key (ctrBlock iv (i / 16 + 2))).extractLsb' (8 * (15 - i % 16)) 8

/-- The text XOR the key stream, byte for byte: encryption and decryption alike (R90). -/
def gcmText (key : BitVec 256) (iv : BitVec 96) (text : List Byte) : List Byte :=
  text.zipIdx.map fun p => p.1 ^^^ keyByte key iv p.2

/-- The tag over additional data and ciphertext. -/
def gcmTag (key : BitVec 256) (iv : BitVec 96) (aad ct : List Byte) : BitVec 128 :=
  ghash (Config.aes256 key 0#128) aad ct ^^^ Config.aes256 key (ctrBlock iv 1)

end Sys2Proof.Machine
end

