-- ==== Sys2Proof/Machine/Cipher.lean ====
section
/-!
DEFINITION. Flows and the tenant cipher (chapter 4, R58): creating and deleting a flow, crypto blocks in both directions,
rotations, the flow key agreement of the trust core (R452 to R456), the spot verifier and fenced lanes.
-/
namespace Sys2Proof.Machine
open RegMap

/-! Cipher clusters (R105, R106). -/

/-- The cluster a flow is in, or is moving to. -/
def Flow.place (w : Flow) : Nat := w.moveTo.getD w.cl

/-- Slots of the flows of cluster `x`, those being created among them. -/
def Dev.clusterLoad (d : Dev) (x : Nat) : Nat :=
  d.flows.foldl (fun t e => t + if (e.2.alive || e.2.coming) && decide (e.2.place = x) then e.2.slots else 0) 0

/-- Flows of cluster `x` of `n` slots. -/
def Dev.movable (d : Dev) (x n : Nat) : List Nat :=
  d.flows.filterMap fun e => if e.2.alive && decide (e.2.place = x ∧ e.2.slots = n) then some e.1 else none

/-- Flows of 80, then of 160 slots move out of cluster `x` until it has room for `n` more slots. -/
def Dev.makeRoom (d : Dev) (x n : Nat) : Nat → Dev
  | 0 => d
  | k + 1 =>
    if d.clusterLoad x + n ≤ 2560 then d
    else match (d.movable x 80 ++ d.movable x 160).head? with
      | none => d
      | some f => (d.onFlow f fun w => { w with moveTo := if w.cl = 1 - x then none else some (1 - x) }).makeRoom x n k

/-- The cluster for a new flow of `n` slots, with the moves that make room for it; `none` when there is none. -/
def Dev.placeFlow (d : Dev) (n : Nat) : Option (Nat × Dev) :=
  let l0 := d.clusterLoad 0
  let l1 := d.clusterLoad 1
  let x := if l1 < l0 then 1 else 0
  if min l0 l1 + n ≤ 2560 then some (x, d)
  else if l0 + l1 + n ≤ 5120 then some (x, d.makeRoom x n 64)
  else none

/-- A move takes effect at a crypto-block boundary of the flow, and loses no data. -/
def execFlowClusterMove (f : Fin 4096) (s : State) : Answer :=
  s.nextOn fun d => d.onFlow f fun w => match w.moveTo with | some x => { w with cl := x, moveTo := none } | none => w

/-! FLOW_CREATE and FLOW_DELETE (R58, R72, R95, R404). -/

/-- A flow command needs the standby page, which is held (R72, R84). -/
def Dev.swapBusy (d : Dev) : Bool :=
  d.bit aSwCtrl 2 || d.bit aSwCtrl 0 || d.bit aSwCtrl 1 || d.bit aSwStat 6 || (d.cluster 57).locked

/-- A port is bound: to a flow, or to an interop carrier (R58, R202). -/
def Dev.portBound (d : Dev) (p : Nat) : Bool :=
  d.flows.any (fun e => (e.2.alive || e.2.coming) && decide (e.2.port = p)) ||
    (List.range 48).any fun c => d.cEnabled c && d.cZr c && decide (d.actFld (aCarrZr c) ⟨0, 6⟩ = p)

/-- Line slots a tenant has been granted, and ports. -/
def Dev.slotGranted (d : Dev) (t s : Nat) : Bool := (d.tenant t).grants.any fun g => g.2.2.contains s
def Dev.portGranted (d : Dev) (t p : Nat) : Bool := (d.tenant t).grants.any fun g => decide (g.2.1 = p)

/-- The line slots named for a direction can take the flow: granted, distinct, and idle in the active page. -/
def State.slotsFree (s : State) (t : Nat) (rx : Bool) (ss : List Nat) : Bool :=
  decide ss.Nodup && ss.all fun x =>
    decide (x < 5120) && s.dev.slotGranted t x && !(s.conn.entry (s.dev.actPage rx) rx x).getLsbD 0

/-- FLOW_CREATE is refused (R58, R404). -/
def State.createBad (s : State) (t f p n : Nat) (tx rx : List Nat) : Bool :=
  let d := s.dev
  decide (tx.length ≠ n ∨ rx.length ≠ n) || !s.slotsFree t false tx || !s.slotsFree t true rx || !d.portGranted t p ||
    !d.bit (aPortMap p) 0 || d.portBound p || decide (n ≠ 40 * widthLanes (d.fld (aPortMap p) ⟨1, 2⟩)) ||
    (d.flow f).alive || (d.flow f).coming

/-- Entries of a flow in a page. -/
def Conn.addFlow (m : Conn) (page : Nat) (rx : Bool) (f : Nat) (ss : List Nat) : Conn :=
  (ss.foldl (fun (a : Conn × Nat) x => (a.1.setEntry page rx x (entryOf f a.2), a.2 + 1)) (m, 0)).1

/-- A page without the entries of a flow. -/
def Conn.dropFlow (m : Conn) (page : Nat) (rx : Bool) (f : Nat) : Conn :=
  ((m.listed page rx).filter fun e => entryFlow e.2 = f).foldl (fun m e => m.setEntry page rx e.1 0) m

/-- Firmware arms the swap of a flow command 20 ODU multiframes ahead; a refused arm refuses the command. -/
def State.flowArm (s : State) (t : Nat) (undo : Dev → Dev) : State :=
  let s1 := (s.on fun d => d.setReg aSwTgt (d.reg aTxOmf + 20)).swapArm
  if s1.dev.bit aSwCtrl 0 then s1 else s1.on fun d => (undo d).completeCommand t stRefused

/-- FLOW_CREATE. -/
def State.flowCreate (s : State) (t : Nat) (ds : Desc) (tx rx : List Nat) : State :=
  let f := ds.obj.toNat
  let n := ds.p16 30
  if s.createBad t f (ds.p8 28) n tx rx then s.on fun d => d.completeCommand t stRefused
  else if s.dev.swapBusy then s.on fun d => d.completeCommand t stBusy
  else match s.dev.placeFlow n with
    | none => s.on fun d => d.completeCommand t stRefused
    | some (x, d1) =>
      let w : Flow := { coming := true, owner := t, port := ds.p8 28, slots := n, hold := decide (ds.p8 29 = 1),
                        standby := decide (ds.p8 32 = 1), cl := x }
      let s1 := ({ s with dev := d1.onFlow f fun _ => w }).copyActive true true
      let m := (s1.conn.addFlow (d1.standby false) false f tx).addFlow (d1.standby true) true f rx
      { s1 with conn := m }.flowArm t fun d => d.onFlow f fun _ => {}

def execFlowCreate (t : Fin 4096) (tx rx : List Nat) (s : State) : Answer :=
  .next (match s.dev.granted t 0x0010 with
    | none => s
    | some ds => if (s.dev.flow ds.obj.toNat).coming then s else s.flowCreate t ds tx rx)

/-- FLOW_DELETE: the flow's entries go by a page swap. A flow that PROT_SET names is refused (R379). -/
def State.flowDelete (s : State) (t : Nat) (f : Nat) : State :=
  if s.dev.bs.shared.pairs.any fun p => decide (p.pkg.val = s.dev.fld 0x1C00000 ⟨0, 2⟩ ∧ p.flow.val = f) then
    s.on fun d => d.completeCommand t stRefused
  else if s.dev.swapBusy then s.on fun d => d.completeCommand t stBusy
  else
    let s1 := (s.on fun d => d.onFlow f fun w => { w with deleting := true }).copyActive true true
    let m := (s1.conn.dropFlow (s.dev.standby false) false f).dropFlow (s.dev.standby true) true f
    { s1 with conn := m }.flowArm t fun d => d.onFlow f fun w => { w with deleting := false }

def execFlowDelete (t : Fin 4096) (s : State) : Answer :=
  .next (match s.dev.granted t 0x0011 with
    | none => s
    | some ds => if (s.dev.flow ds.obj.toNat).deleting then s else s.flowDelete t ds.obj.toNat)

/-! Agreements that end without success. -/

/-- The slots that an agreement loaded, or a rotation that restarted its confirmation wait, are emptied. -/
def Flow.unload (w : Flow) : Flow :=
  match w.ka with
  | none => match w.rot with
    | some { stage := .confirm, tx := tx, rx := rx, .. } =>
      let w1 := if tx then w.setTx (!w.txKi) {} else w
      if rx then w1.setRx (!w.rxKi) {} else w1
    | _ => w
  | some a =>
    let w1 := match a.loadedTx with | some i => w.setTx i {} | none => w
    match a.loadedRx with | some i => w1.setRx i {} | none => w1

/-- An agreement or rotation ends without success: its slots are emptied, and a KEY_ROTATE that waits is refused. -/
def Dev.kaFail (d : Dev) (f : Nat) : Dev :=
  let w := d.flow f
  let d1 := d.onFlow f fun w => { w.unload with ka := none, kaLast := none, rot := none }
  match w.rot with
  | some r => if r.command && d1.grantedOp w.owner 0x0020 then d1.completeCommand w.owner stRefused else d1
  | none => d1

/-- The same with KA_ABORT to the far end, where an agreement runs. -/
def Dev.kaAbortSend (d : Dev) (f : Nat) : Dev :=
  match (d.flow f).ka with
  | none => d.kaFail f
  | some a => (d.gcc2Send f (.abort a.id)).kaFail f

/-- Both slots of both directions are zeroized (R118, R459). -/
def Dev.zeroizeFlow (d : Dev) (f : Nat) : Dev :=
  (d.kaAbortSend f).onFlow f fun w =>
    { ((((w.setTx false {}).setTx true {}).setRx false {}).setRx true {}) with retireDue := false, run := 0 }

/-! Crypto blocks (R89 to R104). -/

/-- The IV of a block (R92). -/
def blockIv (k : KeySlot) (ctr : BitVec 64) : BitVec 96 := k.salt ++ ctr

/-- Crypto overhead of frame `i` of a block (Table 4-2): status byte, counter byte, and a byte of the previous block's tag. -/
def cryptoParts (ki : Bool) (ctr : BitVec 64) (prev : BitVec 128) (i : Nat) : List (Nat × List Byte) :=
  [(ohPos 1 15, [BitVec.ofNat 8 (128 * ki.toNat + i), if i < 8 then (bytesOf 8 ctr.toNat).getD i 0 else 0]),
   (ohPos 4 16, [if i < 16 then (bytesOf 16 prev.toNat).getD i 0 else 0])]

/-- The authenticated bytes of the frames of a block, 20 from each in the order of Table 4-1. -/
def aadOf (frames : List (List Byte)) : List Byte :=
  frames.flatMap fun fr => flexAt fr 3 10 3 ++ flexAt fr 3 13 2 ++ flexAt fr 4 1 8 ++ flexAt fr 4 15 1 ++ flexAt fr 1 15 2 ++
    flexAt fr 2 15 2 ++ flexAt fr 3 15 2

/-- The OPU payload of the frames of a block: columns 17 to 3,824 of every row (R90). -/
def payloadOf (frames : List (List Byte)) : List Byte :=
  frames.flatMap fun fr => (List.range 4).flatMap fun r => flexAt fr (r + 1) 17 3808

/-- Bytes of the payload of a frame and of a block. -/
def framePayload : Nat := 15232
def blockPayload : Nat := 974848

/-- A frame of overhead and payload. -/
def flexFrame (oh payload : List Byte) : List Byte :=
  (List.range 4).flatMap fun r => (oh.drop (16 * r)).take 16 ++ (payload.drop (3808 * r)).take 3808

/-- The overhead of a frame of ODU-LCK: its pattern but for frame alignment, GCC1, GCC2 and APS/PCC (R101, R151). -/
def lckOh (mfas : Nat) (gcc1 gcc2 aps : List Byte) : List Byte :=
  layOut 64 [(0, fas ++ [BitVec.ofNat 8 mfas]), (ohPos 1 8, List.replicate 7 0), (ohPos 4 1, gcc1 ++ gcc2 ++ aps),
    (ohPos 1 15, List.replicate 50 0x55)]

/-- Frame `i` of block `b` of a flow goes out: `crypto` is its crypto overhead, none of ODU-LCK. -/
def Dev.flexTx (d : Dev) (f b i : Nat) (crypto : Option (List (Nat × List Byte))) (payload : List Byte) : List Byte × Dev :=
  let mfas := 64 * (b % 4) + i
  let (g1, d1) := (d.ttiTake f mfas).takeGcc f 1 2
  let (g2, d2) := d1.takeGcc f 2 2
  let w := d2.flow f
  let oh := match crypto with
    | none => lckOh mfas g1 g2 ((d2.overhead f).txField 0 (mfas % 8) mfas 4)
    | some cr => layOut 64 ((0, fas ++ [BitVec.ofNat 8 mfas]) :: cr ++ [(ohPos 4 15, [Config.psiFlex mfas])] ++
        d2.oduOh f mfas w.bipTx.code (pmByte (w.beiDue.headD 0) (d2.pmBdi f) 1) g1 g2)
  let fr := flexFrame oh payload
  (fr, d2.onFlow f fun w => { w with bipTx := w.bipTx.push (bip8 (flexOpu fr)), beiDue := w.beiDue.drop 1 })

/-- The first `n` frames of block `b`. -/
def Dev.flexBlock (d : Dev) (f b : Nat) (crypto : Nat → Option (List (Nat × List Byte))) (payload : List Byte) :
    Nat → List (List Byte) × Dev
  | 0 => ([], d)
  | n + 1 =>
    let (fs, d1) := d.flexBlock f b crypto payload n
    let (fr, d2) := d1.flexTx f b n (crypto n) ((payload.drop (framePayload * n)).take framePayload)
    (fs ++ [fr], d2)

/-- The direction is keyed: its slot in use is loaded, by a confirmed agreement or an import, the trust core is not in its error
state, and the flow is not a standby one (R101, R381, R449, R455). -/
def Dev.txKeyed (d : Dev) (f : Nat) : Bool :=
  let w := d.flow f
  (w.tx w.txKi).loaded && (w.kaDone || w.impTx) && !d.bit aTcStat 4 && !w.isStandby

/-- At the start of block b of a rotation ki toggles, the counter restarts and the old slot is zeroized; a KEY_ROTATE that
waits completes as its first block goes out (R98, R99). -/
def Dev.kiChange (d : Dev) (f : Nat) : Dev :=
  let w := d.flow f
  match w.rot with
  | some { stage := .switchAt b, command := cmd, .. } =>
    if b ≤ w.blocks then
      let d1 := (d.onFlow f fun w =>
        { w.setTx w.txKi {} with txKi := !w.txKi, txCtr := 0, rot := none, kaLast := none, rotDue := false }).exportBoth f
      if cmd && d1.grantedOp w.owner 0x0020 then d1.completeCommand w.owner stDone else d1
    else d
  | _ => d

/-- A flow that transmits from an imported record starts its rotation as soon as none runs (R112). -/
def Dev.resumeRotation (d : Dev) (f : Nat) : Dev :=
  let w := d.flow f
  if w.rotDue && w.rot.isNone && w.ka.isNone && d.keysServed && !w.isStandby then
    (d.onFlow f fun w => { w with rotDue := false, rot := some ⟨true, true, .agree, false⟩ }).kaStart f 3 false
  else d

/-- A block joins the window of its direction (R116): at the start of a window one of
its blocks is chosen, and the check of that one is due. -/
def SpotWin.step (v : SpotWin) (size pick : Nat) (b : LaneBlock) : SpotWin :=
  let n := if size ≤ v.n then 1 else v.n + 1
  let p := if n = 1 then pick % size + 1 else v.pick
  { n := n, pick := p, due := v.due || decide (n = p), last := some b }

/-- Blocks of a window. -/
def Dev.spotSize (d : Dev) (f : Nat) : Nat := Fld.get ⟨0, 16⟩ (d.flowSpot f) + 1

/-- Bits as bytes, most significant bit first. -/
def packBytes (bits : List Bool) : List Byte :=
  ((pieces 8 bits.length bits).1).map fun l => BitVec.ofNat 8 (l.foldl (fun a b => 2 * a + b.toNat) 0)
def unpackBytes (bs : List Byte) : List Bool := bs.flatMap fun b => (List.range 8).map fun k => b.getLsbD (7 - k)

/-- The plaintext of a block (R56, R90): bits that wait and the 257B blocks of the port, in stream order; none of the client's in the
further block of a flow that is being deleted (R95, log entry 107). -/
def Dev.takeText (d : Dev) (f : Nat) (lanes : List (List (BitVec 10))) : List Byte × Dev :=
  let w := d.flow f
  let n := (8 * blockPayload + 256 - w.fill.length) / 257
  let (us, d1) := if w.deleting then (List.replicate n idleUnit, d) else d.ingress w.port n lanes w.inPacket
  let bits := w.fill ++ us.flatMap enc257
  (packBytes (bits.take (8 * blockPayload)), d1.onFlow f fun w =>
    { w with fill := bits.drop (8 * blockPayload), inPacket := us.foldl (fun o u => u.foldl openAfter o) w.inPacket })

/-- A block of ODU-LCK (R101): what the port brings is lost. -/
def Dev.txLck (d : Dev) (f : Nat) (lanes : List (List (BitVec 10))) : Dev :=
  let w := d.flow f
  let (_, d1) := d.pcsIn w.port lanes
  let (fs, d2) := d1.flexBlock f w.blocks.toNat (fun _ => none) (List.replicate blockPayload 0x55) 64
  d2.onFlow f fun w => { w with txBytes := w.txBytes ++ fs.flatten, fill := [], inPacket := false }

/-- An encrypted block (R89 to R93, R96): its frames carry its status and counter and the tag of the block before, which is a free
value where none was sent since the flow or its cluster started. -/
def Dev.txSeal (d : Dev) (f : Nat) (lanes : List (List (BitVec 10))) : Dev :=
  let w := d.flow f
  let k := w.tx w.txKi
  let iv := blockIv k w.txCtr
  let (text, d1) := d.takeText f lanes
  let (t1, d2) := d1.fresh
  let (t2, d3) := d2.fresh
  let prev : BitVec 128 := if w.started then w.lastTag else t1 ++ t2
  let (fs, d4) := d3.flexBlock f w.blocks.toNat (fun i => some (cryptoParts w.txKi w.txCtr prev i)) (gcmText k.key iv text) 64
  let tag := gcmTag k.key iv (aadOf fs) (payloadOf fs)
  let (v, d5) := d4.fresh
  (d5.onFlow f fun w =>
    { w with txBytes := w.txBytes ++ fs.flatten, lastTag := tag, started := true, txCtr := w.txCtr + 1,
             spotTx := w.spotTx.step (d.spotSize f) v.toNat ⟨k, w.txCtr, aadOf fs, text, tag⟩ }).count (pcCipher w.cl) 1 0 1

/-- One transmitted crypto block. The first one of a flow that is being deleted is its last (R95). -/
def Dev.txBlock (d : Dev) (f : Nat) (lanes : List (List (BitVec 10))) : Dev :=
  let d1 := (d.resumeRotation f).kiChange f
  let d2 := if d1.txKeyed f then d1.txSeal f lanes else d1.txLck f lanes
  d2.onFlow f fun w => { w with blocks := w.blocks + 1, stopped := w.deleting }

/-- A flow whose block starts, in a cipher cluster out of reset. -/
def Dev.blockRuns (d : Dev) (f : Nat) : Bool := (d.flow f).alive && !(d.cluster (58 + (d.flow f).cl)).reset

/-- The cipher cluster of a flow. -/
def Dev.flowCluster (d : Dev) (f : Nat) : Cluster := .cipher (if (d.flow f).cl = 0 then 0 else 1)

/-- The start of a crypto block is the boundary of its flow (Table 1-3). `lanes` holds what came on the lanes of the flow's port since the
block before. -/
def execTxCryptoBlock (f : Fin 4096) (lanes : List (List (BitVec 10))) (s : State) : Answer :=
  s.nextOn fun d =>
    if d.blockRuns f && !(d.flow f).stopped then (d.boundary (d.flowCluster f) (.flow f)).txBlock f lanes else d

/-! Received blocks. -/

/-- What the frames of a received block carry (Tables 4-1, 4-2): status bytes with the MFAS of their frames, counter, additional data and
ciphertext, and the tag that the 16 frames behind them bring. -/
structure RxBlock where
  status : List Byte
  mfas : List Byte
  counter : BitVec 64
  aad : List Byte
  text : List Byte
  tag : BitVec 128
  deriving DecidableEq, Repr

def rxBlockOf (frames next : List (List Byte)) : RxBlock :=
  let at_ (fs : List (List Byte)) (row col : Nat) := fs.flatMap fun fr => flexAt fr row col 1
  { status := at_ frames 1 15, mfas := at_ frames 1 7, counter := BitVec.ofNat 64 (ofBytes (at_ (frames.take 8) 1 16)),
    aad := aadOf frames, text := payloadOf frames, tag := BitVec.ofNat 128 (ofBytes (at_ (next.take 16) 4 16)) }

/-- The MFAS of a frame. -/
def flexMfas (fr : List Byte) : Nat := ((flexAt fr 1 7 1).headD 0).toNat

/-- The next received block with the frames behind it, once it and the tag after it have come; it starts at a multiple of 64 (R89). -/
def Flow.nextBlock (w : Flow) : Option (RxBlock × List (List Byte)) :=
  let fs := w.rxFrames.dropWhile fun fr => decide (flexMfas fr % 64 ≠ 0)
  if fs.length < 80 then none else some (rxBlockOf (fs.take 64) (fs.drop 64), fs.drop 64)

/-- The slot that a received block names. -/
def RxBlock.ki (b : RxBlock) : Bool := (b.status.headD 0).getLsbD 7

/-- The bytes of the block agree on its slot. -/
def RxBlock.agrees (b : RxBlock) : Bool := b.status.all fun x => x.getLsbD 7 == b.ki

/-- The first applicable cause of R94: the first two are in the block itself, the others need the slot that it names. -/
def RxBlock.formCause (b : RxBlock) : Option Nat :=
  if !b.agrees then some 0
  else if (b.status.zip b.mfas).any fun p => decide (p.1.toNat % 64 ≠ p.2.toNat % 64) then some 1 else none

def Flow.authCause (w : Flow) (b : RxBlock) : Option Nat :=
  match b.formCause with
  | some c => some c
  | none =>
    let k := w.rx b.ki
    if (match w.last b.ki with | some c => decide (b.counter ≤ c) | none => false) then some 2
    else if b.tag ≠ gcmTag k.key (blockIv k b.counter) b.aad b.text then some 3 else none

/-- A block authenticates. -/
def Dev.blockGood (d : Dev) (f : Nat) (b : RxBlock) : Dev :=
  let w := d.flow f
  let ki := b.ki
  let newKey := decide (w.runKi ≠ ki) && (w.rx (!ki)).loaded
  let good := min 8 (w.good + 1)
  let d1 := d.onFlow f fun w =>
    { w.setLast ki b.counter with good := good, rxEnd := .good, runKi := ki, retireDue := w.retireDue || newKey,
                                  run := if w.runKi = ki then w.run + 1 else 1 }
  let d2 := d1.flowDefect f 6 false
  let d3 := if 8 ≤ good then d2.flowDefect f 7 false else d2
  match w.rot with
  | some r =>
    if !r.tx && r.rx && newKey then
      let d4 := (d3.onFlow f fun w => { w with rot := none }).exportBoth f
      if r.command && d4.grantedOp w.owner 0x0020 then d4.completeCommand w.owner stDone else d4
    else d3
  | none => d3

/-- A block fails authentication. -/
def Dev.blockBad (d : Dev) (f cause : Nat) : Dev :=
  let d1 := d.onFlow f fun w =>
    { w with good := 0, run := 0, rxEnd := .bad, pm := { w.pm with authFail := min (2 ^ 32 - 1) (w.pm.authFail + 1) } }
  (d1.count (pcCipher (d.flow f).cl) 2 cause 1).flowDefect f 7 true

/-- A block names an empty slot, or comes while the trust core is in its error state: the key defect enters (R101, R102, R449). What is
wrong with the block itself counts all the same. -/
def Dev.blockEmpty (d : Dev) (f : Nat) (b : RxBlock) : Dev :=
  let d1 := match b.formCause with | some c => d.blockBad f c | none => d
  (d1.onFlow f fun w => { w with good := 0, run := 0, rxEnd := .empty }).flowDefect f 6 true

/-- The named slot of a received block is empty. -/
def Dev.namesEmpty (d : Dev) (f : Nat) (b : RxBlock) : Bool := !((d.flow f).rx b.ki).loaded || d.bit aTcStat 4

/-- A received block is judged. -/
def Dev.blockJudge (d : Dev) (f : Nat) (b : RxBlock) : Dev :=
  if d.namesEmpty f b then d.blockEmpty f b
  else match (d.flow f).authCause b with | none => d.blockGood f b | some c => d.blockBad f c

/-- Plaintext goes on to the port (R60, R61): the mapped stream in whole 257B blocks, as it continues or begins anew. -/
def Dev.deliverText (d : Dev) (f : Nat) (e : Egress) (text : List Byte) : Dev :=
  let w := d.flow f
  let new := unpackBytes text
  let bits := match w.drain with | some r => r ++ new | none => new.drop (Config.blockAlign new)
  let (us, rest) := pieces 257 bits.length bits
  (d.onFlow f fun w => { w with drain := if e = .mapped then some rest else none }).egressSend w.port e (us.map dec257)

/-- One received crypto block (R94, R97, R99 to R104). In release mode its plaintext goes out as the port stood before the block was
judged; in hold mode as it stands then, and a failing block never goes out. -/
def Dev.rxBlock (d : Dev) (f : Nat) (b : RxBlock) : Dev :=
  let w := d.flow f
  let k := w.rx b.ki
  let (v, d0) := (d.count (pcCipher w.cl) 1 0 1).fresh
  let seen : LaneBlock := ⟨k, b.counter, b.aad, b.text, gcmTag k.key (blockIv k b.counter) b.aad b.text⟩
  let d1 := d0.onFlow f fun w =>
    { w with rxKi := if b.agrees then b.ki else w.rxKi, spotRx := w.spotRx.step (d.spotSize f) v.toNat seen }
  let empty := d1.namesEmpty f b
  let d2 := d1.blockJudge f b
  let e := if empty then d2.egressHeld w.port
    else if !w.hold then d.egress w.port
    else if (w.authCause b).isNone then d2.egress w.port else d2.egressHeld w.port
  d2.deliverText f e (gcmText k.key (blockIv k b.counter) b.text)

def execRxCryptoBlock (f : Fin 4096) (s : State) : Answer :=
  s.nextOn fun d =>
    if d.blockRuns f then
      match (d.flow f).nextBlock with
      | none => d
      | some (b, rest) =>
        ((d.onFlow f fun w => { w with rxFrames := rest }).boundary (d.flowCluster f) (.flow f)).rxBlock f b
    else d

/-- R99: enough blocks have authenticated under a newer key, and the slot of the earlier one is zeroized. -/
def execReceiveSlotRetire (f : Fin 4096) (s : State) : Answer :=
  s.nextOn fun d =>
    let w := d.flow f
    if w.retireDue && decide (2 ^ Fld.get ⟨6, 5⟩ (d.flowCtl f) ≤ w.run) then
      (d.onFlow f fun w => { w.setRx (!w.runKi) {} with retireDue := false }).flowEvent .rotation f
    else d

/-! Rotation and agreement (R98, R452 to R456). -/

/-- The flow has never been keyed, by an agreement or by an import: its first agreement loads slot 0. -/
def Flow.unkeyed (w : Flow) : Bool := !w.kaDone && !w.impTx && !w.impRx

/-- KEY_ROTATE. -/
def Dev.keyRotate (d : Dev) (t : Nat) (ds : Desc) : Dev :=
  let f := ds.obj.toNat
  let w := d.flow f
  let dirs := ds.p8 28
  if dirs = 0 ∨ w.isStandby ∨ !d.keysServed then d.completeCommand t stRefused
  else if w.rot.isSome ∨ w.ka.isSome then d.completeCommand t stBusy
  else (d.onFlow f fun w => { w with rot := some ⟨dirs.testBit 0, dirs.testBit 1, .agree, true⟩ }).kaStart f
    (BitVec.ofNat 8 dirs) w.unkeyed

def execKeyRotate (t : Fin 4096) (s : State) : Answer :=
  s.nextOn fun d => match d.granted t 0x0020 with
    | none => d
    | some ds =>
      if (match (d.flow ds.obj.toNat).rot with | some r => r.command | none => false) then d else d.keyRotate t ds

/-- A GCC2 message is discarded and counted (R452). -/
def Dev.gcc2Discard (d : Dev) : Dev := d.count pcTrust 1 0 1

/-- The sender of a message is a verified peer (R453). -/
def Dev.verified (d : Dev) (p : Signed) : Bool := p.sig && p.chain && d.tc.peers.contains p.ident

/-- A key slot from 32 bytes of key and 4 of salt of the agreed material (R454). -/
def okmSlot (okm : BitVec 576) (second : Bool) : KeySlot :=
  if second then ⟨true, okm.extractLsb' 32 256, okm.extractLsb' 0 32⟩
  else ⟨true, okm.extractLsb' 320 256, okm.extractLsb' 288 32⟩

/-- An end loads the slots of the named directions: slot 0 for a new flow, else the next ones (R455), and sends KA_READY. -/
def Dev.kaLoad (d : Dev) (f : Nat) (a : Ka) : Dev :=
  let w := d.flow f
  let okm := Config.kaOkm a.salt a.secret f a.id
  let tx := a.dirs.getLsbD (if a.initiator then 0 else 1)
  let rx := a.dirs.getLsbD (if a.initiator then 1 else 0)
  let ti := if a.newFlow then false else !w.txKi
  let ri := if a.newFlow then false else !w.rxKi
  let d1 := if tx then d.onFlow f fun w => w.setTx ti (okmSlot okm !a.initiator) else d
  let d2 := if rx then d1.onFlow f fun w => w.setRx ri (okmSlot okm a.initiator) else d1
  let a1 : Ka := { a with loaded := true, loadedTx := if tx then some ti else none,
                          loadedRx := if rx then some ri else none }
  let role := if a.initiator then 0 else 1
  (d2.onFlow f fun w => { w with ka := some a1, rot := w.rot.map fun r => { r with stage := .confirm } }).gcc2Send f
    (.ready a.id role (Config.kaConfirm a.salt a.secret role))

/-- KA_INIT is answered with KA_ABORT. -/
def Dev.kaRefuse (d : Dev) (f : Nat) (m : KaMsg) : Dev := d.gcc2Send f (.abort m.id)

/-- The responder accepts KA_INIT: KA_RESP, its slots, KA_READY. -/
def Dev.kaAccept (d : Dev) (f : Nat) (m : KaMsg) : Dev :=
  let d0 := match (d.flow f).ka with | some _ => d.kaFail f | none => d
  let (nr, d1) := d0.randomBytes 4
  let newFlow := (d1.flow f).unkeyed
  let a : Ka := { initiator := false, id := m.id, dirs := m.dirs, newFlow := newFlow, nonce := nr, secret := m.secret,
                  salt := m.initNonce ++ nr, init := m.content.getD [], answered := true, loaded := false, loadedTx := none,
                  loadedRx := none }
  let d2 := d1.gcc2Send f (.resp m.id nr) a.init
  let rot : Option Rot := if newFlow then none else some ⟨m.dirs.getLsbD 1, m.dirs.getLsbD 0, .confirm, false⟩
  (d2.onFlow f fun w => { w with rot := rot }).kaLoad f a

/-- A received KA_INIT. -/
def Dev.kaInit (d : Dev) (f : Nat) (m : KaMsg) : Dev :=
  let w := d.flow f
  if !m.good 1 f || !w.alive then d.gcc2Discard
  else if !d.keysServed || decide (m.dirs = 0 ∨ 4 ≤ m.dirs.toNat) then d.kaRefuse f m
  else if !d.verified m.from_ then (d.kaRefuse f m).event .agreementFailed 12 f
  else match w.ka with
    | none => if w.rot.isSome then d.kaRefuse f m else d.kaAccept f m
    | some a =>
      if a.initiator && !a.answered then
        (if Config.identity < m.from_.ident then d else d.kaAccept f m)
      else if !a.initiator && decide (a.id = m.id) then d.gcc2Send f (.resp a.id a.nonce) a.init
      else d.kaRefuse f m

/-- A received KA_RESP. -/
def Dev.kaResp (d : Dev) (f : Nat) (m : KaMsg) : Dev :=
  match (d.flow f).ka with
  | none => d.gcc2Discard
  | some a =>
    if !m.good 2 f || !(d.flow f).alive || !a.initiator || a.answered || decide (a.id ≠ m.id) then d.gcc2Discard
    else if !d.keysServed then d.kaAbortSend f
    else if !d.verified m.from_ then (d.kaAbortSend f).event .agreementFailed 12 f
    else d.kaLoad f { a with answered := true, secret := m.secret, salt := a.nonce ++ m.respNonce }

/-- A confirmed agreement: a new flow may transmit, and a KEY_ROTATE of a flow never keyed completes; a rotation with a
transmit direction chooses block b, the current block plus 64 (R98), and one without waits for the far transmitter. -/
def Dev.kaConfirmed (d : Dev) (f : Nat) (a : Ka) : Dev :=
  let w := d.flow f
  let d1 := (d.onFlow f fun w =>
    { w with ka := none, kaDone := true, kaLast := if a.newFlow then none else some a,
             rot := if a.newFlow then none
               else w.rot.map fun r => { r with stage := if r.tx then .switchAt (w.blocks + 63) else .confirmed } }).count pcTrust 2 0 1
  if a.newFlow && w.rot.isSome && d1.grantedOp w.owner 0x0020 then d1.completeCommand w.owner stDone else d1

/-- The agreement whose confirmation is awaited: the one that runs, or the one behind a rotation that a cluster reset has put back
to its confirmation wait (Table 4-3). -/
def Flow.kaAwaited (w : Flow) : Option Ka :=
  match w.ka, w.rot with
  | some a, _ => if a.loaded then some a else none
  | none, some r => if r.stage = .confirm then w.kaLast else none
  | none, none => none

/-- A received KA_READY. -/
def Dev.kaReady (d : Dev) (f : Nat) (m : KaMsg) : Dev :=
  match (d.flow f).kaAwaited with
  | none => d.gcc2Discard
  | some a =>
    let role := if a.initiator then 1 else 0
    if !m.good 3 f || decide (a.id ≠ m.id) || decide (m.role ≠ role) || decide (m.confirm ≠ Config.kaConfirm a.salt a.secret role) then
      d.gcc2Discard
    else d.kaConfirmed f a

def execKaInit (f : Fin 4096) (msg : KaMsg) (s : State) : Answer := s.nextOn fun d => d.kaInit f msg
def execKaResp (f : Fin 4096) (msg : KaMsg) (s : State) : Answer := s.nextOn fun d => d.kaResp f msg
def execKaReady (f : Fin 4096) (msg : KaMsg) (s : State) : Answer := s.nextOn fun d => d.kaReady f msg

def execKaAbort (f : Fin 4096) (msg : KaMsg) (s : State) : Answer :=
  s.nextOn fun d => match (d.flow f).ka with
    | none => d.gcc2Discard
    | some a => if !msg.good 4 f || decide (a.id ≠ msg.id) then d.gcc2Discard else (d.kaFail f).flowEvent .keyEvent f

def execKaInitRepeat (f : Fin 4096) (s : State) : Answer :=
  s.nextOn fun d => match (d.flow f).ka with
    | none => d
    | some a => if a.initiator && !a.answered then d.gcc2Send f (.init a.id a.dirs a.nonce) else d

def execKaTimeout (f : Fin 4096) (s : State) : Answer :=
  s.nextOn fun d => match (d.flow f).ka with
    | none => d
    | some a => if a.initiator then (d.kaAbortSend f).flowEvent .keyEvent f else d

/-- R98: no confirmation within rot_to seconds of loading. -/
def execRotationConfirmTimeout (f : Fin 4096) (s : State) : Answer :=
  s.nextOn fun d =>
    let waits : Bool := match (d.flow f).ka, (d.flow f).rot with
      | some a, _ => a.loaded
      | none, some r => decide (r.stage = .confirm)
      | none, none => false
    if waits then d.kaFail f else d

/-! Fenced lanes and the spot verifier (R13, R14, R108, R116 to R118). -/

/-- Fenced lanes of the device. -/
def Dev.fencedLanes (d : Dev) : Nat := ones 32 (d.reg 0x180030).toNat + ones 32 (d.reg 0x180034).toNat

/-- A lane is fenced; beyond two fenced lanes the cipher capacity source of the hub die is raised. -/
def State.fenceLane (s : State) (l : Nat) : State :=
  let a := 0x180030 + 4 * (l / 32)
  if s.dev.bit a (l % 32) then s
  else
    let s1 := s.on fun d => d.setBit a (l % 32)
    if 2 < s1.dev.fencedLanes then s1.fault 12 17 else s1

/-- A mismatch: the flow's keys are zeroized, the verify source of its cluster raised, and the lane fenced. -/
def State.spotMismatch (s : State) (f l : Nat) : State :=
  let x := (s.dev.flow f).cl
  let s1 := s.on fun d =>
    ((d.setBit (0x180020 + 4 * x) 0).setFld (0x180020 + 4 * x) ⟨16, 12⟩ f).zeroizeFlow f
  (s1.fault 12 (11 + x)).fenceLane (32 * x + l % 32)

/-- The tag of a block as the verifier computes it (R116): on transmit from the plaintext, on receive from the ciphertext. -/
def LaneBlock.ownTag (b : LaneBlock) (dir : Dir) : BitVec 128 :=
  let iv := blockIv b.slot b.counter
  gcmTag b.slot.key iv b.aad (match dir with | .tx => gcmText b.slot.key iv b.text | .rx => b.text)

/-- Nanoseconds that the verifier takes for a block at 512 Gbit/s (R117). -/
def spotTime : Nat := 15232

def Flow.spotWin (w : Flow) : Dir → SpotWin
  | .tx => w.spotTx
  | .rx => w.spotRx
def Flow.onSpot (w : Flow) (g : SpotWin → SpotWin) : Dir → Flow
  | .tx => { w with spotTx := g w.spotTx }
  | .rx => { w with spotRx := g w.spotRx }

/-- The block chosen in a flow's window is there to be checked against `laneTag`, the tag that the lane produced. A busy verifier takes
the flow's next block instead (R117). -/
def execSpotCheck (f : Fin 4096) (dir : Dir) (lane : Fin 64) (laneTag : BitVec 128) (s : State) : Answer :=
  let w := s.dev.flow f
  let x := w.cl
  match (w.spotWin dir).last with
  | none => .next s
  | some b =>
    if !w.alive || !(w.spotWin dir).due then .next s
    else if s.dev.time < SMap.get s.dev.spotFree x 0 then
      s.nextOn fun d => (d.setBit (0x180020 + 4 * x) 1).count (pcCipher x) 4 0 1
    else
      let s1 := s.on fun d => { (d.count (pcCipher x) 3 0 1).onFlow f fun w => w.onSpot (fun v => { v with due := false }) dir with
        spotFree := SMap.put d.spotFree x 0 (d.time + spotTime) }
      .next (if laneTag = b.ownTag dir then s1 else s1.spotMismatch f lane)

end Sys2Proof.Machine
end

