-- ==== Sys2Proof/Machine/Pools.lean ====
section
/-!
DEFINITION. The decoder pools (chapter 6): arrivals, the unit slot of R181 with its slot accounting (R184), emission to the
outer decoder (R164, R179, R183), memory errors and fences (R13, R182).
-/
namespace Sys2Proof.Machine
open RegMap

/-! Configuration in force. -/

def poolSize : Nat := 448
def outSize : Nat := 16384

/-- Iteration floor and ceiling of carrier index x of pool m. -/
def Dev.floorOf (d : Dev) (m x : Nat) : Nat := d.actFld (poolBase m + 0x40 + 4 * x) ⟨0, 6⟩
def Dev.ceilOf (d : Dev) (m x : Nat) : Nat := d.actFld (poolBase m + 0x40 + 4 * x) ⟨8, 6⟩

/-- POOL_FENCE: unit u is fenced. -/
def Dev.unitFenced (d : Dev) (m u : Nat) : Bool := d.bit (poolBase m + 0x80 + 4 * (u / 32)) (u % 32)

/-- Number of fenced units. -/
def Dev.fencedUnits (d : Dev) (m : Nat) : Nat :=
  (List.range 14).foldl (fun t w => t + ones 32 (d.reg (poolBase m + 0x80 + 4 * w)).toNat) 0

/-- What a slot needs to know: now, floors and ceilings, and the units that may take work. -/
structure SlotCtx where
  now : Nat
  floor : Nat → Nat
  ceil : Nat → Nat
  free : Nat → Bool

/-- What a slot counted: retired, wasted, front-starved and back-starved units, a missed floor. -/
structure SlotCount where
  retired : Nat := 0
  wasted : Nat := 0
  front : Nat := 0
  back : Nat := 0
  flr : Bool := false
  deriving DecidableEq, Repr

/-! Arrival (R177, R580). -/

/-- A codeword of carrier index x arrives: its times follow from the window in the active register, which during a pool reset is its
reset value (DESIGN CHOICE, log entry 108: R580 names no window). -/
def Dev.newCw (d : Dev) (m x now seq : Nat) (word : Nat × List Int) : Cw :=
  let win := 100 * d.actFld (poolBase m) ⟨0, 8⟩
  { x := x, arr := now, deadline := now + win - 150, emit := now + win, iter := 0, marked := false, seq := seq,
    gen := (d.rxModem (12 * m + x)).gen, w := word.1, llr := word.2 }

/-- The modem die of pool `m` is lost, and its pool with it (Table 1-2). -/
def Dev.poolLost (d : Dev) (m : Nat) : Bool := (d.die (8 + m)).lost

/-- The next codeword that a native carrier's demapper has filled up goes into the pool. While the pool is in reset it is released
marked at once. -/
def execCodewordArrival (m : Fin 4) (x : Fin 12) (s : State) : Answer :=
  let c := 12 * m.val + x.val
  match (s.dev.rxModem c).ready with
  | [] => .next s
  | r :: rs =>
    if !s.dev.cEnabled c || s.dev.cZr c || s.dev.poolLost m then .next s
    else
      let s1 := s.on fun d => d.onRxm c fun k => { k with ready := rs }
      let rst := (s.dev.cluster (48 + m)).reset
      .next (s1.onPool m fun p =>
        let w := s.dev.newCw m x p.now p.count r
        let q := { p with count := p.count + 1 }
        if rst then q.emitAll [w.mark] else { q with ready := q.ready ++ [w] })

/-! The unit slot (R181, R184). Whether an iteration was retired or wasted is known, and counted, when its codeword is released. -/

/-- A released codeword of unit u enters the output buffer, or stays in its unit while the buffer is full (R179). -/
def Pool.release (p : Pool) (u : Nat) (w : Cw) : Pool :=
  let q := { p with units := SMap.erase p.units u }
  if p.out.length < outSize then q.emitAll [w] else { q with held := SMap.insert (SMap.erase q.held u) u w }

/-- Units that hold a released codeword unload it while the buffer has room: at the start of a slot, lowest unit first (DESIGN CHOICE,
log entry 109). -/
def Pool.unload (p : Pool) : Pool :=
  p.held.foldl (fun q e =>
    if q.out.length < outSize then { q.emitAll [e.2] with held := SMap.erase q.held e.1 } else q) p

/-- Step 1 of R181 for one busy unit. -/
def slotRelease (cx : SlotCtx) (st : Pool × SlotCount) (e : Nat × Cw) : Pool × SlotCount :=
  let w := e.2
  if 2 ≤ w.iter ∧ unsatisfied w.before = 0 then
    (st.1.release e.1 { w with now := w.before }, { st.2 with retired := st.2.retired + (w.iter - 1), wasted := st.2.wasted + 1 })
  else if cx.ceil w.x ≤ w.iter ∨ w.deadline < cx.now + 48 then
    (st.1.release e.1 w.mark, { st.2 with wasted := st.2.wasted + w.iter })
  else st

/-- Step 2: ready codewords past their deadline are released marked. They enter the output buffer even while it is full (DESIGN CHOICE,
log entry 109: R181 names no other place). -/
def slotExpire (cx : SlotCtx) (p : Pool) : Pool :=
  let late (w : Cw) : Bool := decide (w.arr + 150 ≤ cx.now) && decide (w.deadline < cx.now + 48)
  { p.emitAll ((p.ready.filter late).map Cw.mark) with
    ready := p.ready.filter fun w => !late w }

/-- Earlier of two ready codewords: deadline, then carrier, then arrival. -/
def cwBefore (a b : Cw) : Bool :=
  decide (a.deadline < b.deadline ∨ (a.deadline = b.deadline ∧ (a.x < b.x ∨ (a.x = b.x ∧ a.arr < b.arr))))

/-- The first codeword in an order. -/
def cwFirst (lt : Cw → Cw → Bool) : List Cw → Option Cw
  | [] => none
  | w :: ws => match cwFirst lt ws with
    | none => some w
    | some v => if lt v w then some v else some w

/-- Codewords that can be loaded now. -/
def Pool.loadable (p : Pool) (now : Nat) : List Cw := p.ready.filter fun w => decide (w.arr + 150 ≤ now)

/-- Units free to take a codeword; a ready one goes to the lowest (DESIGN CHOICE, log entry 109). -/
def Pool.freeUnits (p : Pool) (cx : SlotCtx) : List Nat :=
  (List.range poolSize).filter fun u => cx.free u && !(p.units.any fun e => e.1 = u) && !(p.held.any fun e => e.1 = u)

/-- A ready codeword goes into a unit. -/
def Pool.load (p : Pool) (u : Nat) (w : Cw) : Pool :=
  { p with ready := p.ready.erase w, units := SMap.insert (SMap.erase p.units u) u w }

/-- Step 3: free units load ready codewords. -/
def slotLoad (cx : SlotCtx) : List Nat → Pool → Pool
  | [], p => p
  | u :: us, p => match cwFirst cwBefore (p.loadable cx.now) with
    | none => p
    | some w => slotLoad cx us (p.load u w)

/-- The busy codeword to pre-empt: the most iterations above its floor, then the later deadline, then the higher unit. -/
def slotVictim (cx : SlotCtx) (p : Pool) : Option (Nat × Cw) :=
  p.units.foldl (fun best e =>
    if e.2.iter < cx.floor e.2.x then best
    else match best with
      | none => some e
      | some b =>
        let me := e.2.iter - cx.floor e.2.x
        let it := b.2.iter - cx.floor b.2.x
        if it < me ∨ (it = me ∧ b.2.deadline ≤ e.2.deadline) then some e else best) none

/-- Step 4: pre-emption for codewords that would miss their floor. -/
def slotPreempt (cx : SlotCtx) : Nat → Pool × SlotCount → Pool × SlotCount
  | 0, st => st
  | n + 1, (p, k) =>
    let urgent := (p.loadable cx.now).filter fun w => decide (w.deadline < cx.now + (cx.floor w.x + 1) * 48)
    match cwFirst cwBefore urgent with
    | none => (p, k)
    | some y =>
      if outSize ≤ p.out.length then (p, k)
      else match slotVictim cx p with
        | none => (p, { k with flr := true })
        | some (u, v) =>
          slotPreempt cx n
            (((p.release u v.mark).load u y), { k with wasted := k.wasted + v.iter })

/-- One iteration of unit `u` with the hard decisions that it comes to. -/
def Cw.iterate (w : Cw) (decided : List Nat) : Cw := { w with iter := w.iter + 1, before := w.latest, now := decided }

/-- A whole unit slot, behind the unloading: `decided` holds the hard decisions of its iteration in each busy unit. -/
def Pool.slot (p : Pool) (cx : SlotCtx) (decided : List (Nat × List Nat)) : Pool × SlotCount :=
  let (p1, k1) := p.units.foldl (slotRelease cx) (p, {})
  let p2 := slotExpire cx p1
  let p3 := slotLoad cx (p2.freeUnits cx) p2
  let (p4, k4) := slotPreempt cx p3.ready.length (p3, k1)
  ({ p4 with units := p4.units.map fun e => (e.1, e.2.iterate ((decided.lookup e.1).getD e.2.latest)), now := p4.now + 48 },
   { k4 with front := (p4.freeUnits cx).length, back := p4.held.length })

/-- A unit's fence is recorded, with POOL_STAT and, beyond 8 units, the pool capacity source (R13, R14). -/
def State.fenceUnit (s : State) (m u : Nat) : State :=
  if s.dev.unitFenced m u then s
  else
    let s1 := s.on fun d =>
      let d1 := d.setBit (poolBase m + 0x80 + 4 * (u / 32)) (u % 32)
      let n := d1.fencedUnits m
      (d1.setFld (poolBase m + 8) ⟨16, 9⟩ n).setBit (poolBase m + 8) 0 (decide (8 < n))
    if 8 < s1.dev.fencedUnits m then s1.fault (8 + m) 20 else s1

/-- Fences that waited for a held codeword apply once it has left its unit (R182). -/
def State.dueFences (s : State) (m : Nat) : State :=
  let p := s.pool m
  let due := p.fenceAfter.filter fun u => !(p.held.any fun e => e.1 = u)
  each due (fun u s => s.fenceUnit m u)
    (s.onPool m fun p => { p with fenceAfter := p.fenceAfter.filter fun u => !due.contains u })

/-- UNIT_SLOT: the pool's boundary (Table 1-3), then its slot; in reset only time goes on. A unit that has unloaded and waits for its
fence is fenced from this slot on (R182). -/
def State.unitSlot (s : State) (m : Fin 4) (decided : List (Nat × List Nat)) : State :=
  let s0 := s.on fun d => d.boundary (.pool m) .both
  if (s0.dev.cluster (48 + m)).reset then s0.onPool m fun p => { p with now := p.now + 48 }
  else
    let s1 := (s0.onPool m Pool.unload).dueFences m
    let p := s1.pool m
    let cx : SlotCtx := ⟨p.now, s1.dev.floorOf m, s1.dev.ceilOf m,
      fun u => !s1.dev.unitFenced m u && !p.fenceAfter.contains u⟩
    let (p1, k) := p.slot cx decided
    let s2 := (s1.onPool m fun _ => p1).on fun d =>
      let b := 48 + m.val
      let d1 := (((d.count b 1 0 k.retired true).count b 2 0 k.wasted true).count b 3 0 k.front true).count b 4 0 k.back true
      let d2 := if k.flr then d1.setBit (poolBase m + 8) 1 else d1
      if 0 < k.back then d2.setBit (poolBase m + 8) 2 else d2
    if k.flr then s2.fault (8 + m) 21 else s2

def execUnitSlot (m : Fin 4) (decided : List (Fin 448 × List Nat)) (s : State) : Answer :=
  .next (if s.dev.poolLost m then s else s.unitSlot m (decided.map fun e => (e.1.val, e.2)))

/-! Emission (R164, R179, R183). -/

/-- The information bits of a codeword, by outer codeword. -/
def Cw.info (w : Cw) : List (List Bool) := outerWords 8 ((w.now.take 40).flatMap blockBits)

/-- One inner codeword is decoded by the outer decoder, and counted; the receive modem takes its words, if they belong to the
delineation in force, and judges the frames that they complete. -/
def Dev.outerDecode (d : Dev) (m : Nat) (w : Cw) : Dev :=
  let res := w.info.map bchDecode
  let bad := (res.filter fun r => r.2.2).length
  let fixed := res.foldl (fun t r => t + r.2.1) 0
  let b := 48 + m
  let c := 12 * m + w.x
  let d1 := d.count b 0x10 w.x 1
  let d2 := if w.marked then d1.count b 0x11 w.x 1 else d1
  let d3 := if w.marked && decide (bad = 0) then d2.count b 0x12 w.x 1 else d2
  let d4 := ((d3.count b 0x13 w.x bad).count b 0x14 w.x fixed true).pmCorrected c fixed bad
  let words := res.map fun r => r.1
  let d5 := d4.emit (.codeword m w.x words)
  if (d5.rxModem c).gen = w.gen then
    (d5.onRxm c fun k => { k with words := SMap.insert (SMap.erase k.words w.w) w.w words }).rxJudge c (d5.rxModem c).frames.length
  else d5

/-- The codeword that leaves next: the first of the output buffer, or one of a unit that cannot unload if it goes before (R179). -/
def Pool.nextOut (p : Pool) : Option (Option Nat × Cw) :=
  let start : Option (Option Nat × Cw) := p.out.head?.map fun w => (none, w)
  p.held.foldl (fun best e => match best with
    | none => some (some e.1, e.2)
    | some b => if b.2.leavesFirst e.2 then some b else some (some e.1, e.2)) start

/-- It leaves once its emission time has come. -/
def State.emission (s : State) (m : Nat) : State :=
  match (s.pool m).nextOut with
  | none => s
  | some (u, w) =>
    if w.emit ≤ (s.pool m).now ∧ !s.dev.poolLost m then
      (s.onPool m fun p => match u with
        | none => { p with out := p.out.drop 1 }
        | some u => { p with held := SMap.erase p.held u }).onWithSsf fun d => d.outerDecode m w
    else s

def execCodewordEmission (m : Fin 4) (s : State) : Answer := .next (s.emission m)

/-- After a stall the buffered codewords leave in the order of their emission times: up to `n` of them. -/
def execOutputBufferDrain (m : Fin 4) (n : Nat) (s : State) : Answer :=
  .next (each (List.range n) (fun _ s => s.emission m) s)

/-! Memory errors and fences (R13, R182). -/

/-- A unit releases the codeword it holds, marked, and is fenced once that codeword has left it. -/
def State.unitRetire (s : State) (m u : Nat) : State :=
  let s1 := match (s.pool m).units.find? fun e => e.1 = u with
    | some e =>
      (s.onPool m fun p => p.release u e.2.mark).on fun d => d.count (48 + m) 2 0 e.2.iter true
    | none => s
  if (s1.pool m).held.any fun e => e.1 = u then s1.onPool m fun p => { p with fenceAfter := u :: p.fenceAfter.filter (· ≠ u) }
  else s1.fenceUnit m u

/-- The memory of a unit is corrected to nothing: it is counted, source 3 of the modem die (Table 19-1), and the fence. -/
def execUnitMemoryError (m : Fin 4) (u : Fin 448) (s : State) : Answer :=
  .next (((s.on fun d => d.satFld (0x3400 + 4 * (8 + m)) ⟨16, 16⟩).fault (8 + m) 3).unitRetire m u)

/-- Firmware fences a unit. A frequency-bin engine has no register; its fence is kept beside. -/
def State.fence (s : State) (u : UnitRef) : State :=
  match u with
  | .decoder m u => s.unitRetire m u
  | .lane l => s.fenceLane l
  | .bin c b => s.on fun d => { d with binFence := (c.val, b.val) :: d.binFence.filter fun e => e ≠ (c.val, b.val) }

def execUnitFence (u : UnitRef) (s : State) : Answer := .next (s.fence u)

end Sys2Proof.Machine
end

