-- ==== Sys2Proof/Machine/Change.lean ====
section
/-!
DEFINITION. The change procedure (R84 to R88): prepare, its acknowledgements, the decision to commit or abort, and what
happens at band multiframe b; within a formed band set one change at a time (R376).
-/
namespace Sys2Proof.Machine
open RegMap

/-! The band set as the change procedure needs it (R372, R378). -/

/-- The other members of the set. -/
def Dev.otherMembers (d : Dev) : List (Fin 4) :=
  (List.finRange 4).filter fun k => d.isMember k && decide (k.val ≠ d.ownPkg)

/-- Takes the set for package `k` at the leader, unless another package's change holds it. -/
def Dev.holdSet (d : Dev) (k : Nat) : Option Dev :=
  match d.bs.holder with
  | none => some { d with bs := { d.bs with holder := some k } }
  | some h => if h = k then some { d with bs := { d.bs with holder := some k } } else none

/-! Decision (R86, R87). -/

/-- The last acknowledgement arrives early enough before b. Band multiframe b − need starts now at the latest. -/
def Dev.leadHolds (d : Dev) (g : Change) : Bool :=
  let need := if g.swap then 24 else 2
  let n := (g.boundary - d.reg aBmfCnt).toNat
  decide (n < 2 ^ 31) && (decide (need < n) || (decide (n = need) && decide (d.bmfAt = d.time)))

/-- The ODU multiframe T of R87: the first one after the start of band multiframe b. Where within their multiframes the two
counts stand is not state, so T is one of the values that they allow, a free one (log entry 3). -/
def Dev.swapTarget (d : Dev) (b : Word) : Word :=
  let n := (b - d.reg aBmfCnt).toNat
  d.reg aTxOmf + BitVec.ofNat 32 (1 + (n - 1) * 262144 / 297613 + (Config.freeValue d.free).toNat % 3)

/-- Firmware commits: an included swap is armed at T. -/
def State.changeCommitted (s : State) (g : Change) : State :=
  let s1 := s.on fun d => { d with chg := some { g with prepared := true } }
  if g.swap then
    (s1.on fun d => { d.setReg aSwTgt (d.swapTarget g.boundary) with free := d.free + 1 }).swapArm g.clusters
  else s1

/-- Firmware decides once every affected cluster has answered. -/
def State.changeDecide (s : State) : State :=
  match s.dev.chg with
  | none => s
  | some g =>
    if !g.granted || g.prepared || g.waiting ≠ [] || g.missing ≠ [] then s
    else if g.refused || !s.dev.leadHolds g then s.on fun d => d.changeAbort
    else s.changeCommitted g

/-! Start (R84, R376). -/

/-- A change starts. In a formed set it first asks the leader, which may be this package. -/
def State.changeStart (s : State) (clusters : List Cluster) (b : Word) (swap : Bool) (shared : Option (List Pair)) : State :=
  let cmd := match (s.dev.ring 0 .command).granted with | none => 0 | some c => c.idx
  let ks := (if swap then clusters ++ [Cluster.switch] else clusters).eraseDups
  let g : Change := ⟨ks, ks, [], false, b, swap, true, false, cmd, shared⟩
  let run (d : Dev) (g : Change) : Dev := { d.setBit aSwStat 6 with chg := some g }
  if !s.dev.formed then (s.on fun d => run d g).changeDecide
  else if s.dev.leaderPkg = s.dev.ownPkg then
    (match s.dev.holdSet s.dev.ownPkg with
     | none => s.on fun d => d.completeCommand 0 stBusy
     | some d1 => ({ s with dev := run d1 g }).changeDecide)
  else s.on fun d =>
    (run d { g with granted := false }).sendPkg (Fin.ofNat 4 d.leaderPkg) (.epochReq (Fin.ofNat 4 d.ownPkg))

/-- CHANGE: another change running answers BUSY; the timing cluster has no cluster index (log entry 54). -/
def execChange (clusters : List Cluster) (s : State) : Answer :=
  .next (match s.dev.granted 0 0x0110, s.dev.chg with
    | none, _ => s
    | some _, some g => if s.dev.changeOwns g then s else s.on fun d => d.completeCommand 0 stBusy
    | some ds, none =>
      if clusters.contains .timing then s.on fun d => d.completeCommand 0 stRefused
      else s.changeStart clusters (BitVec.ofNat 32 (ds.p32 28)) (ds.p8 32 = 1) none)

/-! Prepare (R85). -/

/-- The prepare check of a cluster: R19, and R74 for the switch, with the slot counts that the affected clusters bring. A carrier
that tunes or ramps refuses (R205). A switch whose standby page is held, by a swap that is armed already or by a copy, can take no
further swap and refuses (R76, R78; log entry 55). -/
def State.prepareOk (s : State) (g : Change) (k : Cluster) : Bool :=
  let st (c : Nat) := s.dev.cState c
  match k with
  | .carrier c =>
    !(decide (st c = csTune) || decide (st c = csRampUp) || decide (st c = csRampDown)) &&
      s.dev.check g.clusters k true
  | .switch => !(g.swap && (s.dev.bit aSwCtrl 0 || s.dev.bit aSwCtrl 1)) && s.pageCheck (s.dev.standby false) false g.clusters
  | _ => s.dev.check g.clusters k true

/-- CLUS_CMT.refused and the event of R19. -/
def Dev.prepareRefused (d : Dev) (k : Cluster) : Dev :=
  (d.setBit (cmtAddr k) 2).event .commitRefused (clusterDie k) (clusterCode k)

/-- A cluster checks and locks its shadow and acknowledges. -/
def State.prepare (s : State) (g : Change) (k : Cluster) : State :=
  let ok := s.prepareOk g k
  let g1 := { g with waiting := g.waiting.filter (· ≠ k), refused := g.refused || !ok }
  let s1 := s.on fun d =>
    let d1 := if ok then d.onCluster (clusterCode k) fun c => { c with locked := true }
      else d.prepareRefused k
    { d1 with chg := some g1 }
  s1.changeDecide

/-- An acknowledgement that arrives after the abort is discarded and counted. -/
def Dev.lateAck (d : Dev) (k : Cluster) : Dev :=
  if d.sw.lateAcks.contains k then
    { d with sw := { d.sw with lateAcks := d.sw.lateAcks.erase k } }.count pcSwitch 1 0 1
  else d

def execPrepareAck (k : Cluster) (s : State) : Answer :=
  .next (match s.dev.chg with
    | none => s.on fun d => d.lateAck k
    | some g =>
      if g.granted && g.waiting.contains k && !(s.dev.cluster (clusterCode k)).reset then s.prepare g k
      else s.on fun d => d.lateAck k)

def execPrepareTimeout (s : State) : Answer :=
  s.nextOn fun d => match d.chg with
    | none => d
    | some g => if g.granted && !g.prepared then d.changeAbort else d

/-! Commit (R87). -/

/-- The shared configuration as it stands: this package's own requests as its carriers name them (R328, R374). -/
def Dev.sharedNow (d : Dev) : List SumReq :=
  let own : Fin 4 := Fin.ofNat 4 d.ownPkg
  (d.bs.shared.reqs.filter fun r => r.pkg ≠ own) ++ (List.finRange 4).filterMap fun (k : Fin 4) =>
    let cs := (d.remoteNamed [] k).filterMap fun c => if h : c < 48 then some (⟨c, h⟩ : Fin 48) else none
    if cs = [] then none else some ⟨own, k, cs, cs⟩

/-- The shared configuration after a change, whose sequence number advances when it differs. -/
def Dev.sharedTake (d : Dev) (pairs : List Pair) : Dev :=
  let reqs := d.sharedNow
  if reqs = d.bs.shared.reqs ∧ pairs = d.bs.shared.pairs then d
  else { d with bs := { d.bs with shared := ⟨reqs, pairs, d.bs.shared.seq + 1⟩ } }

/-- At band multiframe b every affected cluster's locked shadow becomes due at its next boundary, the epoch advances, the members are
told, and the command completes. -/
def Dev.changeCommit (d : Dev) (g : Change) : Dev :=
  let d1 := each g.clusters (fun k d => d.procedureTake k) d
  let d2 := (d1.setReg aEpoch (d1.reg aEpoch + 1)).sharedTake (g.shared.getD d1.bs.shared.pairs)
  let d3 := each d2.otherMembers (fun k d => d.sendPkg k (.epochSet (d.reg aEpoch) d.bs.shared)) d2
  (d3.changeEnd g).changeDone g stDone

end Sys2Proof.Machine
end

