-- ==== Sys2Proof/Machine/Converters.lean ====
section
/-!
DEFINITION. The converters and Burnish (R215 to R236, R528 to R534): swing, captures, background runs, full
self-calibrations and the calibration store.
-/
namespace Sys2Proof.Machine
open RegMap

/-! Settings of the converters (R227, R236). -/

/-- CARR_STAT.state of every carrier of a region is OFF. -/
def Dev.regionOff (d : Dev) (g : Nat) : Bool := (regionCarriers g).all fun c => decide (d.cState c = csOff)

/-- A CVT_MODE write is rejected: it changes half while a carrier of the region is not OFF. -/
def Dev.cvtModeBad (d : Dev) (g : Nat) (w : Word) : Bool :=
  decide (w.getLsbD 0 ≠ d.bit (cvtBase g) 0) && !d.regionOff g

/-- A CVT_DSK_j write is rejected: carrier 6g + floor(j/8) is not OFF. -/
def Dev.cvtDskBad (d : Dev) (g j : Nat) : Bool := decide (d.cState (6 * g + j / 8) ≠ csOff)

/-- The swing in force approaches CVT_TXLVL by one step per ms. -/
def execSwingStep (g : Fin 8) (s : State) : Answer :=
  s.nextOn fun d =>
    let t := d.fld (cvtBase g + 4) ⟨0, 5⟩
    d.onRegion g fun r =>
      { r with swing := if r.swing < t then r.swing + 1 else if t < r.swing then r.swing - 1 else r.swing }

/-! Captures (R224 to R226). -/

def aCapCtrl (g : Nat) : Nat := cvtBase g + 0x104
def aCapStat (g : Nat) : Nat := cvtBase g + 0x10C
def aCvtCal (g : Nat) : Nat := cvtBase g + 0x200

/-- CAP_CTRL.arm: a capture is armed or running. -/
def Dev.capArmed (d : Dev) (g : Nat) : Bool := d.bit (aCapCtrl g) 31

/-- CAP_CTRL after a write with arm at 1: a bad lead is late and captures nothing (R224). -/
def Dev.capCtrlWritten (d : Dev) (g : Nat) (w : Word) : Dev :=
  if w.getLsbD 31 && !leadOk 2 (w.setWidth 16) d.capTick then
    (d.setBit (aCapCtrl g) 31 false).setBit (aCapStat g) 1
  else d

/-- The armed tick: every selected converter starts at one sample index. -/
def execCaptureStart (g : Fin 8) (s : State) : Answer :=
  s.nextOn fun d =>
    if d.capArmed g && decide ((d.reg (aCapCtrl g)).setWidth 16 = d.capTick) then
      d.onRegion g fun r => { r with capRun := true, capCodes := [] }
    else d

/-- The last sample is stored; once every armed region has ended the capture goes to the capture ring (R408). -/
def Dev.captureDone (d : Dev) (g : Nat) : Dev :=
  if (d.region g).capRun then
    let d1 := ((d.setBit (aCapCtrl g) 31 false).setBit (aCapStat g) 0).incFld (aCapStat g) ⟨8, 8⟩
    (d1.onRegion g fun r => { r with capRun := false, capDone := true }).captureFlush
  else d

def execCaptureDone (g : Fin 8) (s : State) : Answer := s.nextOn fun d => d.captureDone g

/-! The calibration store (R533, R534). -/

def aBnStat : Nat := 0x3808
def aBnSlot : Nat := 0x3830
def aBnTref (g : Nat) : Nat := 0x3810 + 4 * g
def aStStat : Nat := 0x1D00000

/-! Calibration factors (R220, R532). -/

/-- The limits of a set of factors: least and greatest value and greatest change (Table 19-5). Offsets and linearity are in
0.001 LSB, gains in 10⁻⁵, bandwidth in 0.001 %, times in fs. -/
def factorLimits (set : Nat) : List (Int × Int × Int) :=
  if set < 1560 then [(-8000, 8000, 1000), (90000, 110000, 500), (-2000, 2000, 100), (-5000, 5000, 1000)]
  else List.replicate 4 (90000, 110000, 1000) ++ List.replicate 4 (-2000, 2000, 200) ++ List.replicate 256 (-1000, 1000, 250)

/-- The factory record's set of a region. -/
def factorySet (g set : Nat) : List Factor :=
  (List.range (factorLimits set).length).map fun i => ⟨Config.factoryFactor g set i, (Config.factoryTref g).setWidth 16⟩

/-- The set of factors in force: what the running run has accepted, else the region's, else the factory record's. -/
def Dev.factorSet (d : Dev) (g set : Nat) : List Factor :=
  let r := d.region g
  let found := (r.run.bind fun q => q.found.lookup set).getD (SMap.get r.factors set [])
  if found = [] then factorySet g set else found

/-- The slice that fills position `p` of ADC `a` of carrier `c` (R219): the spare for a slice replaced for good (R538), and while a
background run calibrates the slice (Table 8-3). -/
def Dev.sliceAt (d : Dev) (c a p : Nat) : Nat :=
  let moved := match (d.region (c / 6)).run with
    | some r => r.carriers.contains c && r.spare && decide (r.position = p + 1)
    | none => false
  if (d.carrier c).badSlices.contains (a, p) || moved then 64 else p

/-- The factors with which a slice of a carrier's ADC feeds the output (R220). -/
def Dev.sliceFactors (d : Dev) (c a p : Nat) : List Factor := d.factorSet (c / 6) (65 * (4 * (c % 6) + a) + d.sliceAt c a p)

/-- The distance of two temperatures in 0.01 °C. -/
def tempDist (a b : BitVec 16) : Nat := (signedOf 16 a.toNat - signedOf 16 b.toNat).natAbs

/-- A new factor passes its limits; the change permitted grows beyond 3 °C (R532). -/
def factorOk (limit : Int × Int × Int) (old : Factor) (new : Int) (temp : BitVec 16) : Bool :=
  decide (limit.1 ≤ new ∧ new ≤ limit.2.1) &&
    decide ((300 * (new - old.value).natAbs : Int) ≤ limit.2.2 * (max 300 (tempDist temp old.temp) : Nat))

/-- A measured set against the one in use: what is in force afterwards, and whether every factor passed. A slice keeps all of its
previous factors when one fails (R232), a DAC those that fail. -/
def factorsTaken (set : Nat) (old : List Factor) (new : List Int) (temp : BitVec 16) : List Factor × Bool :=
  let judged := (factorLimits set).zipIdx.map fun l =>
    let o := old.getD l.2 ⟨0, 0⟩
    match new[l.2]? with
    | some v => if factorOk l.1 o v temp then ((⟨v, temp⟩ : Factor), true) else (o, false)
    | none => (o, false)
  let ok := judged.all fun j => j.2
  (if set < 1560 && !ok then old else judged.map fun j => j.1, ok)

/-- Measured sets of a region judged one after the other: those in force afterwards, and whether every factor passed. -/
def Dev.factorsJudged (d : Dev) (g : Nat) (temp : BitVec 16) (measured : List (Nat × List Int)) :
    List (Nat × List Factor) × Bool :=
  let js := measured.map fun m => (m.1, factorsTaken m.1 (d.factorSet g m.1) m.2 temp)
  (js.map fun j => (j.1, j.2.1), js.all fun j => j.2.2)

def putAll (m : SMap (List Factor)) (l : List (Nat × List Factor)) : SMap (List Factor) :=
  l.foldl (fun m e => SMap.put m e.1 [] e.2) m

/-- The sets of a region. -/
def setCount : Nat := 1584

/-- The bytes of a record before its CRC-32: sequence number, then region by region the factors set by set and BN_TREF_g, four
bytes each (R533, log entry 111). -/
def calBytes (seq : Word) (factors : List (SMap (List Int))) (tref : List Word) : List Byte :=
  bytesOf 4 seq.toNat ++ (List.range 8).flatMap fun g =>
    ((List.range setCount).flatMap fun k =>
      (SMap.get (factors.getD g []) k ((factorySet g k).map fun f => f.value)).flatMap fun v => bytesOf 4 (BitVec.ofInt 32 v).toNat) ++
      bytesOf 4 (tref.getD g 0).toNat

/-- A record passes its CRC-32 (R534, R576). -/
def CalRec.passes (r : CalRec) : Bool := decide (r.crc = crc32 (calBytes r.seq r.factors r.tref))

/-- The newest valid slot (true is B) and its record. -/
def Burnish.newest (b : Burnish) : Option (Bool × CalRec) :=
  match b.slotA, b.slotB with
  | none, none => none
  | some x, none => some (false, x)
  | none, some y => some (true, y)
  | some x, some y => if newer y.seq x.seq then some (true, y) else some (false, x)

/-- BN_SLOT shows the slots. -/
def Dev.bnSlotUpdate (d : Dev) : Dev :=
  let b := d.bn
  let n := b.newest
  d.setReg aBnSlot (BitVec.ofNat 32
    ((n.map fun x => x.1.toNat).getD 0 + 2 * b.slotA.isSome.toNat + 4 * b.slotB.isSome.toNat +
      2 ^ 16 * ((n.map fun x => x.2.seq.toNat % 2 ^ 16).getD 0)))

/-- ST_STAT follows what the store die does (Table 21-2). -/
def Dev.stStatUpdate (d : Dev) : Dev :=
  let op := if d.bn.storing.isSome then 2 else if d.tc.writing.isSome then 1 else 0
  (d.setFld aStStat ⟨0, 1⟩ (if op = 0 then 0 else 1)).setFld aStStat ⟨1, 2⟩ op

/-- A store begins: the older or an invalid slot is erased. The sequence number of the first record of all is open (log
entry 3). -/
def Dev.storeBegin (d : Dev) : Dev :=
  let b := d.bn
  let (seq, d1) := match b.newest with
    | some x => (x.2.seq + 1, d)
    | none => let r := d.fresh; (r.1.setWidth 32, r.2)
  let slot := match b.newest with | some x => !x.1 | none => false
  let factors := (List.range 8).map fun g => (d.region g).factors.map fun e => (e.1, e.2.map fun f => f.value)
  let tref := (List.range 8).map fun g => d.reg (aBnTref g)
  let r : CalRec := ⟨seq, factors, tref, d.fld aBnStat ⟨8, 8⟩, crc32 (calBytes seq factors tref)⟩
  let d2 := { d1 with bn := { b with storing := some (slot, r), queued := false,
                                     slotA := if slot then b.slotA else none,
                                     slotB := if slot then none else b.slotB } }
  d2.bnSlotUpdate.stStatUpdate

/-- A store is due; it queues behind a running store and behind IMAGE_WRITE. -/
def Dev.storeRequest (d : Dev) : Dev :=
  if d.bn.storing.isSome || d.tc.writing.isSome then { d with bn := { d.bn with queued := true } } else d.storeBegin

/-- A queued store begins when the store die is free. -/
def Dev.storeNext (d : Dev) : Dev :=
  let d1 := d.stStatUpdate
  if d1.bn.queued && d1.bn.storing.isNone && d1.tc.writing.isNone then d1.storeBegin else d1

/-- The end of a store: read back well it is the newest record; else BN_STAT.serr, and source 8 of the store die. -/
def State.storeDone (s : State) (ok : Bool) : State :=
  match s.dev.bn.storing with
  | none => s
  | some (slot, r) =>
    let b0 := { s.dev.bn with storing := none }
    if ok then s.on fun d =>
      let b := { b0 with lastStore := some d.time, slotA := if slot then b0.slotA else some r,
                         slotB := if slot then some r else b0.slotB }
      (({ d with bn := b }.bnSlotUpdate).incFld aBnStat ⟨16, 16⟩).storeNext
    else ((s.on fun d => ({ d with bn := b0 }.setBit aBnStat 2)).fault 15 8).on Dev.storeNext

def execCalStoreDone (readBack : Bool) (s : State) : Answer := .next (s.storeDone readBack)

/-! Refused references and factors (R528, R532). -/

/-- BN_STAT bit `bit` and source 6 of converter die `g`. -/
def State.calRefused (s : State) (g bit : Nat) : State := (s.on fun d => d.setBit aBnStat bit).fault g 6

/-! Background runs (R232 to R234, R530, R531). -/

/-- A carrier whose ADCs take part in a run: it is not OFF, its converters are ready (R230), and some ADC of it has no slice replaced for good (R538). -/
def Dev.runsAdc (d : Dev) (c : Nat) : Bool :=
  decide (d.cState c ≠ csOff) && (d.carrier c).convReady && (List.range 4).any fun a => !(d.carrier c).badSlices.any fun b => decide (b.1 = a)

/-- CVT_CAL.slice: 64 means step 1. -/
def Dev.sliceShow (d : Dev) (g : Nat) : Dev :=
  match (d.region g).run with
  | none => d
  | some r => d.setFld (aCvtCal g) ⟨8, 7⟩ (if r.position = 0 then 64 else min (r.position - 1) 63)

/-- A run moves on: step 1 ends; the spare takes a position; or the slice takes it back and the next one is up. -/
def Dev.runMove (d : Dev) (g : Nat) : Dev :=
  (d.onRegion g fun r => { r with run := r.run.map fun q =>
    if q.position = 0 ∨ q.spare then { q with position := q.position + 1, spare := false }
    else { q with spare := true } }).sliceShow g

/-- The slice that a step of a run has calibrated or matched: the spare before it takes a position, else the slice that takes its
position back (Table 8-3). -/
def CalRun.slice (r : CalRun) : Nat := if r.position = 0 ∨ !r.spare then 64 else r.position - 1

/-- The sets that a step of a run concerns: that slice of each ADC that takes part. -/
def Dev.stepSets (d : Dev) (g : Nat) (r : CalRun) : List Nat :=
  r.carriers.flatMap fun c => ((List.range 4).filter fun a => !(d.carrier c).badSlices.any fun b => decide (b.1 = a)).map fun a =>
    65 * (4 * (c - 6 * g) + a) + r.slice

/-- A step ends with measured factors: those that fail are refused, the others in force. While a capture is armed or running the
hand-over is deferred (R233). -/
def State.sliceHandover (s : State) (g : Nat) (measured : List (Nat × List Int)) : State :=
  match (s.dev.region g).run with
  | none => s
  | some r =>
    if 65 ≤ r.position || s.dev.bit (aCvtCal g) 15 then s
    else
      let sets := s.dev.stepSets g r
      let j := s.dev.factorsJudged g r.startTemp (measured.filter fun m => sets.contains m.1)
      let s1 := if j.2 then s else s.calRefused g 1
      s1.on fun d0 =>
        let d := d0.onRegion g fun q => { q with run := q.run.map fun r => { r with found := putAll r.found j.1 } }
        if 0 < r.position ∧ d.capArmed g then d.setBit (aCvtCal g) 15 else d.runMove g

def execSliceHandover (g : Fin 8) (measured : List (Nat × List Int)) (s : State) : Answer :=
  .next (s.sliceHandover g measured)

def execDeferredHandover (g : Fin 8) (s : State) : Answer :=
  s.nextOn fun d =>
    if d.bit (aCvtCal g) 15 && !d.capArmed g && (d.region g).run.isSome then (d.setBit (aCvtCal g) 15 false).runMove g
    else d

/-- A run that has passed its last position completes, and the region takes what it found; a store follows when the last one is an hour old (R533). -/
def Dev.runEnd (d : Dev) (g : Nat) : Dev :=
  match (d.region g).run with
  | none => d
  | some r =>
    if r.position < 65 then d
    else
      let d1 := ((d.onRegion g fun q => { q with run := none, factors := putAll q.factors r.found }).setReg (aCvtCal g) 0).setFld (aBnTref g) ⟨0, 16⟩ r.startTemp.toNat
      let old := match d1.bn.lastStore with | none => true | some t => decide (t + 3600000000000 ≤ d1.time)
      if old then d1.storeRequest else d1

def execBackgroundRunEnd (g : Fin 8) (s : State) : Answer := s.nextOn fun d => d.runEnd g

/-- Reference temperatures of a region. -/
def Dev.trefRun (d : Dev) (g : Nat) : BitVec 16 := (d.reg (aBnTref g)).setWidth 16
def Dev.trefFull (d : Dev) (g : Nat) : BitVec 16 := BitVec.ofNat 16 (d.fld (aBnTref g) ⟨16, 16⟩)

/-- A background run is due. -/
def Dev.runDue (d : Dev) (g : Nat) (temp : BitVec 16) : Bool :=
  d.bit 0x3800 8 && (d.region g).run.isNone && !(d.region g).full &&
    decide (d.fld aPwrRstat ⟨2 * g, 2⟩ = 0) && decide (SMap.get d.bn.holdRun g 0 ≤ d.time) &&
    (regionCarriers g).any (fun (c : Fin 48) => d.runsAdc c) && decide (10 * d.fld 0x3804 ⟨0, 8⟩ < tempDist temp (d.trefRun g))

/-- A background run begins. -/
def Dev.runBegin (d : Dev) (g : Nat) (temp : BitVec 16) : Dev :=
  let cs := ((regionCarriers g).filter fun (c : Fin 48) => d.runsAdc c).map fun c => c.val
  ((d.onRegion g fun r => { r with run := some ⟨temp, 0, false, cs, []⟩ }).setFld (aCvtCal g) ⟨0, 2⟩ 1).sliceShow g

/-- The 100 ms sample of a converter die. -/
def State.burnishSample (s : State) (g : Nat) (temp : BitVec 16) (refsOk : Bool) : State :=
  let s1 := if 2000 < tempDist temp (s.dev.trefFull g) then s.fault g 7 else s
  if s1.dev.runDue g temp then
    (if refsOk then s1.on fun d => d.runBegin g temp else s1.calRefused g 0)
  else s1

def execBurnishSample (g : Fin 8) (temp : BitVec 16) (refsOk : Bool) (s : State) : Answer :=
  .next (s.burnishSample g temp refsOk)

/-! Full self-calibration (R229 to R231, R529). -/

/-- A request for region `g`: refused unless every carrier is OFF and the references pass. -/
def State.fullBegin (s : State) (g : Nat) (refsOk : Bool) : State :=
  if !s.dev.regionOff g || (s.dev.region g).full then s
  else if refsOk then s.on fun d =>
    (((d.runAbandon g).onRegion g fun r => { r with full := true }).setFld (aCvtCal g) ⟨0, 2⟩ 2).setBit 0x3800 g
  else s.calRefused g 0

/-- BN_CTRL.full written with a mask. A region already running keeps its bit. -/
def State.fullRequest (s : State) (mask : Nat) (refsOk : Bool) : State :=
  each ((List.range 8).filter fun g => mask.testBit g) (fun g s => s.fullBegin g refsOk) s

/-- A full self-calibration ends: both reference temperatures are taken (log entry 58), factory factors are replaced, and a
store follows. Refused factors keep the previous ones. -/
def State.fullEnd (s : State) (g : Nat) (measured : List (Nat × List Int)) (temp : BitVec 16) : State :=
  if !(s.dev.region g).full then s
  else
    let j := s.dev.factorsJudged g temp (measured.filter fun m => m.1 < setCount)
    let s1 := if j.2 then s else s.calRefused g 1
    s1.on fun d =>
      let d1 := ((d.onRegion g fun r => { r with full := false, factors := putAll r.factors j.1 }).setReg (aCvtCal g) 0).setBit 0x3800 g false
      let d2 := (d1.setReg (aBnTref g) (BitVec.ofNat 32 (temp.toNat + 2 ^ 16 * temp.toNat))).setBit aBnStat (8 + g) false
      d2.storeRequest

def execFullCalibrationEnd (g : Fin 8) (measured : List (Nat × List Int)) (temp : BitVec 16) (s : State) : Answer :=
  .next (s.fullEnd g measured temp)

end Sys2Proof.Machine
end

