-- ==== Sys2Proof/Machine/Link.lean ====
section
/-!
DEFINITION. The Registration link and band sets (chapter 13): training, alignment, cells, registration, forming and leaving a
set, the shared configuration and the epoch, band-set time, flow protection, summaries and context records.
-/
namespace Sys2Proof.Machine
open RegMap

/-! Links (R357 to R370). -/

def aRlCtrl (j : Nat) : Nat := 0x1C00020 + 4 * j
def aRlTap (j i : Nat) : Nat := 0x1C00100 + 4 * (8 * j + i)

def Dev.setLState (d : Dev) (j st : Nat) : Dev := d.setFld (aRlLink j) ⟨0, 3⟩ st
def Dev.linkEn (d : Dev) (j : Nat) : Bool := d.bit aRlCfg (3 + j)
def Dev.registered (d : Dev) (j : Nat) : Bool := d.bit (aRlLink j) 5

/-- Eye scans of a link's lanes are abandoned (R368). -/
def Dev.linkScansOff (d : Dev) (j : Nat) : Dev :=
  each (List.range 8) (fun i d => if h : 8 * j + i < 24 then d.eyeAbort (.link ⟨8 * j + i, h⟩) else d) d

/-! Protection pairs (R379 to R384). -/

/-- A member's own entries of the shared configuration. -/
def Dev.ownPairs (d : Dev) : List Pair := d.bs.shared.pairs.filter fun p => decide (p.pkg.val = d.ownPkg)

/-- The pair that PROT_SET names for flow `f` is in force (R379). -/
def Dev.pairForce (d : Dev) (f : Nat) : Option (Nat × Nat × Bool) :=
  match d.ownPairs.find? fun p => decide (p.flow.val = f) with
  | none => none
  | some p =>
    let far := d.bs.shared.pairs.any fun q => decide (q.pkg = p.peerPkg ∧ q.flow = p.peerFlow ∧ q.peerPkg = p.pkg ∧
      q.peerFlow = p.flow ∧ q.role ≠ p.role ∧ q.slots = p.slots)
    if (d.flow f).alive && d.isMember d.ownPkg && d.isMember p.peerPkg && far then
      some (p.peerPkg.val, p.peerFlow.val, p.role) else none

/-- R380: ready. -/
def Flow.isReady (w : Flow) (protection : Bool) : Bool := if protection then w.impTx && w.impRx else w.kaDone

/-- None of SSF, SKEW, KEY and AUTH is reported (R382). -/
def Flow.isClear (w : Flow) : Bool :=
  let r := w.rep
  !decide (r = some 0 ∨ r = some 1 ∨ r = some 6 ∨ r = some 7)

/-- Whether the flow may take activity. -/
def Flow.canTake (w : Flow) : Bool :=
  match w.pairInForce with | none => false | some p => w.isReady p.2.2 && w.isClear

/-- The entry of flow `f` in the STATE messages to its peer (Table 13-7). -/
def Dev.stateEntry (d : Dev) (p : Pair) : StateEntry :=
  let w := d.flow p.flow
  { flow := p.flow, peer := p.peerFlow, role := p.role, act := w.pairInForce.isSome && w.act, req := w.askTakeover,
    nak := w.nak, ready := w.isReady p.role, inForce := w.pairInForce.isSome,
    defect := match w.rep with | none => 0 | some i => BitVec.ofNat 8 (i + 1) }

/-- STATE to package `k` (R385). -/
def Dev.sendState (d : Dev) (k : Fin 4) : Dev :=
  d.sendPkg k (.state ⟨d.reg aEpoch, (List.range 48).map d.rxsByte,
    (d.ownPairs.filter fun p => decide (p.peerPkg = k)).map d.stateEntry⟩)

/-- Activity of a flow changes: an event on the owner's ring and on that of the tenant that owns the flow (R384). -/
def Dev.activityEvent (d : Dev) (f : Nat) : Dev :=
  let d1 := d.event .protection 12 f [(d.flow f).act.toNat]
  if d.flowTenant f = 0 then d1 else d1.flowEvent .protection f [(d.flow f).act.toNat]

/-- The flow takes activity: a rotation starts when its record was imported, now or as soon as none runs (R112), and the peer is told. -/
def Dev.takeActivity (d : Dev) (f : Nat) : Dev :=
  let d1 := (d.onFlow f fun w => { w with act := true, askTakeover := false, nak := false, rotDue := w.impTx }).activityEvent f
  let d2 := d1.resumeRotation f
  match (d1.flow f).pairInForce with | none => d2 | some p => d2.sendState (Fin.ofNat 4 p.1)

/-- The flow becomes standby. -/
def Dev.becomeStandby (d : Dev) (f : Nat) : Dev :=
  (d.onFlow f fun w => { w with act := false, askTakeover := false }).activityEvent f

/-- Flow `f` follows the pairs in force: the working flow starts active and exports its context; a standby flow whose peer's
package has left takes activity when it may (R380, R381, R383). -/
def Dev.pairUpdate (d : Dev) (f : Nat) : Dev :=
  let was := (d.flow f).pairInForce
  let now := d.pairForce f
  if was = now then d
  else
    let left := match was with | some p => !d.isMember p.1 | none => false
    let d1 := if left && (d.flow f).isStandby && (d.flow f).canTake then d.takeActivity f else d
    match now with
    | none => d1.onFlow f fun w =>
        { w with pairInForce := none, askTakeover := false, nak := false, rotDue := w.rotDue || (w.impTx && w.isStandby) }
    | some p => (d1.onFlow f fun w => { w with pairInForce := some p, act := !p.2.2 }).exportBoth f

def Dev.pairsUpdate (d : Dev) : Dev := each (d.flows.map fun e => e.1) (fun f d => d.pairUpdate f) d

/-! Forming and leaving a set (R371 to R373, R377). -/

/-- The mask of a list of package numbers. -/
def pkgMask (ks : List Nat) : BitVec 4 := ks.foldl (fun m k => m ||| BitVec.ofNat 4 (2 ^ k)) 0

/-- The links that are registered, with the last HELLO of each. -/
def Dev.present (d : Dev) : List (Nat × Hello) :=
  (List.range 3).filterMap fun j =>
    if d.registered j then (d.link j).hello.map fun h => (j, h) else none

/-- The package's view (R372). -/
def Dev.view (d : Dev) : BitVec 4 := pkgMask (d.ownPkg :: d.present.map fun p => p.2.k.val)

/-- RL_SET.why while no set is formed. -/
def Dev.whyNot (d : Dev) : Nat :=
  let ps := d.present
  if !d.bit aRlCfg 2 then 4
  else if ps.any fun p => decide (p.2.ver ≠ (d.reg 0x1C00004).setWidth 16) then 1
  else if ps.any fun p => decide (p.2.view ≠ d.view) then 2
  else if (List.range 3).any fun j => d.bit (aRlLink j) 6 then 3 else 0

def Dev.whyUpdate (d : Dev) : Dev := if d.formed then d else d.setFld aRlSet ⟨8, 3⟩ d.whyNot

/-- CFG_SYNC asks package `k` for its configuration (R374). -/
def Dev.askSync (d : Dev) (k : Fin 4) : Dev :=
  if d.bs.syncAsk.isSome || d.bs.sync.isSome then d
  else onBs (fun b => { b with syncAsk := some k.val, syncTries := 0 }) (d.sendPkg k .cfgSyncReq)

/-- Epoch `e` of package `k` stands over the package's own (R373). -/
def Dev.epochStands (d : Dev) (k : Nat) (e : Word) : Bool :=
  newer e (d.reg aEpoch) || (decide ((e - d.reg aEpoch).toNat = 2 ^ 31) && decide (d.leaderPkg = k) && decide (k ≠ d.ownPkg))

/-- A member hears epoch `e` from package `k`; a holder whose epoch has advanced holds the set no longer. -/
def Dev.heardEpoch (d : Dev) (k : Fin 4) (e : Word) : Dev :=
  if d.isMember k && d.epochStands k e then (d.freeSet k).askSync k else d

/-- The set no longer stands: RL_SET, its holds and the remote streams go with it, and its pairs are out of force. -/
def Dev.leaveSet (d : Dev) : Dev :=
  if !d.formed then d.whyUpdate
  else
    let d1 := ((d.setFld aRlSet ⟨0, 1⟩ 0).setFld aRlSet ⟨4, 4⟩ 0).setBit aRlSet 11
    let d2 := onBs (fun b => { b with agree := 0, heard := [], holder := none, syncAsk := none, streams := [],
                                      sumWait := [], sumServe := [], sumNext := [] }) d1
    d2.whyUpdate.pairsUpdate

/-- A set forms: leader and members, a step of time for followers, requests for summaries, the newest epoch, STATE. -/
def Dev.formSet (d : Dev) : Dev :=
  let v := d.view
  let leader := ((List.range 4).find? fun k => v.getLsbD k).getD 0
  let d1 := d.setReg aRlSet (BitVec.ofNat 32 (1 + 2 * leader + 16 * v.toNat + 2 ^ 11))
  let d2 := onBs (fun b => { b with stepDue := decide (leader ≠ d.ownPkg) }) d1
  let d3 := each (List.finRange 4) (fun k d => if d.remoteNamed [] k = [] then d else d.sumRequest k) d2
  let d4 := each d3.present (fun p d => d.heardEpoch p.2.k p.2.epoch) d3
  let d5 := d4.pairsUpdate
  each d5.otherMembers (fun k d => d.sendState k) d5

/-- What a change of the present packages or of their HELLOs does to the set: one that no longer matches the view ends. -/
def Dev.setUpdate (d : Dev) : Dev :=
  if d.formed && (d.whyNot ≠ 0 && d.whyNot ≠ 3 || decide (d.fld aRlSet ⟨4, 4⟩ ≠ d.view.toNat)) then d.leaveSet
  else d.whyUpdate

/-- A link is no longer registered. -/
def Dev.unregister (d : Dev) (j : Nat) : Dev :=
  if d.registered j then
    ((d.setBit (aRlLink j) 5 false).onLink j fun l => { l with hello := none }).setUpdate
  else d

/-- A link goes down (R360, R369): counted, unregistered, its scans abandoned. -/
def Dev.linkDown (d : Dev) (j : Nat) : Dev :=
  if d.lState j = lsDown then d
  else
    let d1 := ((d.setLState j lsDown).incFld (aRlLink j) ⟨16, 16⟩).onLink j fun l =>
      { l with misses := [], readyNear := [], readyFar := [], message := [], messageType := 0, burst := false, cells := [] }
    (d1.linkScansOff j).unregister j

/-! Training (R365 to R367). -/

/-- Training of a link starts on all lanes. -/
def Dev.startTraining (d : Dev) (j : Nat) : Dev :=
  ((d.setLState j lsTraining).setBit (aRlCtrl j) 1 false).onLink j fun l =>
    { l with readyNear := [], readyFar := [], misses := [], burst := false }

/-- One tap request: the new tap and its status code. -/
def tapMove (req tap max : Nat) : Nat × Nat :=
  if req = 1 then (if tap < max then (tap + 1, 1) else (tap, 2))
  else if req = 2 then (if 0 < tap then (tap - 1, 1) else (tap, 2))
  else (tap, 0)

/-- A training frame of one lane: its requests are obeyed and reported; `own` is what this end's receiver asks for, bit 5 that it is
ready. -/
def Dev.trainingFrame (d : Dev) (j lane : Nat) (request own : Byte) : Dev :=
  let d0 := if d.lState j = lsDown then d.startTraining j else d
  if !d.linkEn j || decide (d0.lState j ≠ lsTraining) then d
  else
    let a := aRlTap j lane
    let r := request.toNat
    let pre := if r.testBit 4 then (2, 1) else tapMove (r % 4) (d0.fld a ⟨0, 3⟩) 7
    let post := if r.testBit 4 then (4, 1) else tapMove (r / 4 % 4) (d0.fld a ⟨4, 4⟩) 15
    let d1 := ((d0.setFld a ⟨0, 3⟩ pre.1).setFld a ⟨4, 4⟩ post.1).sendLane j lane
      (trainingSyms own (BitVec.ofNat 8 (pre.2 + 4 * post.2)))
    let d2 := d1.onLink j fun l =>
      { l with readyFar := if r.testBit 5 then lane :: l.readyFar.filter (· ≠ lane) else l.readyFar,
               readyNear := if own.getLsbD 5 then lane :: l.readyNear.filter (· ≠ lane) else l.readyNear }
    if (d2.link j).readyFar.length = 8 ∧ (d2.link j).readyNear.length = 8 then d2.setLState j lsAligning else d2

def execRlTrainingFrame (j : Fin 3) (lane : Fin 8) (request own : Byte) (s : State) : Answer :=
  s.nextOn fun d => d.trainingFrame j lane request own

/-- 500 ms of training have not ended it. -/
def execRlTrainingTimeout (j : Fin 3) (s : State) : Answer :=
  s.nextOn fun d =>
    if d.lState j = lsTraining then (d.setBit (aRlLink j) 7).event .linkEvent 12 j else d

def execRlTrainingRestart (j : Fin 3) (s : State) : Answer :=
  s.nextOn fun d => if d.lState j = lsTraining then d.startTraining j else d

/-! Alignment and cells (R359 to R364). -/

/-- The link carries cells from now on; a burst that left idle has succeeded. -/
def Dev.linkUp (d : Dev) (j : Nat) : Dev :=
  (d.setLState j lsUp).onLink j fun l => { l with burst := false, message := [], messageType := 0, lastSeq := [] }

/-- A skip set: per lane whether it was found in place, and the filler inserted (1), deleted (−1) or neither (0); `violations` of the
8B/10B code have come since the last one (Table 17-5). -/
def Dev.skipSet (d : Dev) (j : Nat) (found : List Bool) (fill : List Int) (violations : Nat) : Dev :=
  if d.lState j ≠ lsUp ∧ d.lState j ≠ lsAligning then d
  else
    let d1 := ((d.count pcLink 3 j violations).count pcLink 1 j (fill.filter fun i => decide (0 < i)).length).count pcLink 2 j
      (fill.filter fun i => decide (i < 0)).length
    let ms := (List.range 8).map fun i => if found.getD i false then 0 else ((d.link j).misses.getD i 0) + 1
    let d2 := d1.onLink j fun l => { l with misses := ms }
    if ms.any fun m => decide (4 ≤ m) then d2.linkDown j
    else if decide (d.lState j = lsAligning) && ms.all fun m => decide (m = 0) then d2.linkUp j else d2

def execSkipSet (j : Fin 3) (found : List Bool) (fill : List Int) (violations : Nat) (s : State) : Answer :=
  s.nextOn fun d => d.skipSet j found fill violations

/-- A message that lacks a cell is discarded whole. -/
def Dev.messageLost (d : Dev) (j : Nat) : Dev :=
  if (d.link j).message = [] then d
  else (d.count pcLink 5 j 1).onLink j fun l => { l with message := [] }

/-- A cell that passed its check: message cells are put together, and a whole message is handed to its own row. -/
def Dev.cellGood (d : Dev) (j : Nat) (cell : List Byte) : Dev :=
  let ty := bytesAt cell 0 1
  let fl := bytesAt cell 1 1
  let seq := bytesAt cell 2 2
  let payload := (cell.drop 4).take 80
  let inSeq := match (d.link j).lastSeq.find? fun e => decide (e.1 = ty) with
    | none => true
    | some e => decide (seq = (e.2 + 1) % 65536)
  let d1 := d.onLink j fun l => { l with lastSeq := SMap.insert (SMap.erase l.lastSeq ty) ty seq }
  if ty = 0 ∨ ty = 0x10 then d1
  else if 12 < ty then d1
  else
    let l := d1.link j
    let whole (d : Dev) : Dev := if fl.testBit 1 then d.onLink j fun l => { l with message := [] } else d
    if fl.testBit 0 then
      whole ((d1.messageLost j).onLink j fun l => { l with message := [payload], messageType := ty })
    else if decide (l.message ≠ [] ∧ l.messageType = ty) && inSeq then
      whole (d1.onLink j fun l => { l with message := l.message ++ [payload] })
    else if l.message = [] then d1.count pcLink 5 j 1 else d1.messageLost j

/-- A received cell (Table 13-1). -/
def Dev.cellReceived (d : Dev) (j : Nat) (cell : List Byte) : Dev :=
  if decide (d.lState j ≠ lsUp) || decide (cell.length ≠ 88) then d
  else if crc32 (cell.take 84) = BitVec.ofNat 32 (bytesAt cell 84 4) then d.cellGood j cell
  else (d.setBit (aRlLink j) 8).count pcLink 4 j 1

def execCellReceived (j : Fin 3) (cell : List Byte) (s : State) : Answer := s.nextOn fun d => d.cellReceived j cell

/-! Registration and the set (R371, R372). -/

/-- A HELLO on link `j`. -/
def Dev.helloReceived (d : Dev) (j : Nat) (h : Hello) : Dev :=
  if d.lState j ≠ lsUp then d
  else
    let d0 := d.setFld (aRlLink j) ⟨3, 2⟩ h.k
    let wired := decide (h.k.val = (d.ownPkg + j + 1) % 4) && decide (h.k.val ≠ d.ownPkg)
    let d1 := if wired then d0 else d0.setBit (aRlLink j) 6
    if !wired || decide (h.ident = Config.identity) || !h.en then (d1.unregister j).whyUpdate
    else
      let d2 := ((d1.setBit (aRlLink j) 5).onLink j fun l => { l with hello := some h }).setUpdate
      let d3 := d2.heardEpoch h.k h.epoch
      if d3.formed then d3
      else if d3.whyNot = 0 ∨ d3.whyNot = 3 then
        let heard := j :: d3.bs.heard.filter (· ≠ j)
        if d3.present.all fun p => heard.contains p.1 then
          let d4 := onBs (fun b => { b with heard := [], agree := b.agree + 1 }) d3
          if 3 ≤ d4.bs.agree then (onBs (fun b => { b with agree := 0 }) d4).formSet else d4
        else onBs (fun b => { b with heard := heard }) d3
      else onBs (fun b => { b with heard := [], agree := 0 }) d3

def execHello (j : Fin 3) (h : Hello) (s : State) : Answer := s.nextOn fun d => d.helloReceived j h

/-- The HELLO that the package sends. -/
def Dev.ownHello (d : Dev) : Hello :=
  { k := Fin.ofNat 4 d.ownPkg, ver := (d.reg 0x1C00004).setWidth 16, en := d.bit aRlCfg 2, ident := Config.identity,
    epoch := d.reg aEpoch, view := d.view, seq := d.bs.shared.seq }

/-- A message on every link that carries cells. -/
def Dev.onLinks (d : Dev) (m : LinkMsg) : Dev :=
  each (List.range 3) (fun j d => if d.lState j = lsUp then d.sendLink j m else d) d

def execHelloSend (s : State) : Answer := s.nextOn fun d => d.onLinks (.hello d.ownHello)

/-- 4 ms without a HELLO; the timeout is suspended while the link is idle (R370). -/
def execHelloTimeout (j : Fin 3) (s : State) : Answer :=
  s.nextOn fun d => if d.lState j = lsIdle then d else d.unregister j

/-! The epoch and the shared configuration (R374, R376). -/

def execEpochReq (k : Fin 4) (s : State) : Answer :=
  s.nextOn fun d =>
    if d.isMember k && decide (d.leaderPkg = d.ownPkg) && decide (k.val ≠ d.ownPkg) then
      (match d.holdSet k with
       | some d1 => d1.sendPkg k .grant
       | none => d.sendPkg k .busy)
    else d

/-- This package's change waits for the leader. -/
def Dev.asking (d : Dev) : Bool := match d.chg with | none => false | some g => !g.granted

def execEpochGrant (s : State) : Answer :=
  .next (if s.dev.asking then
    (s.on fun d => { d with chg := d.chg.map fun g => { g with granted := true } }).changeDecide
  else s)

def execEpochBusy (s : State) : Answer := s.nextOn fun d => if d.asking then d.changeAbort stBusy else d

def execEpochReqTimeout (s : State) : Answer := s.nextOn fun d => if d.asking then d.changeAbort else d

/-- EPOCH_SET of a member that has committed: it holds the set no longer, and an older package asks for the configuration. -/
def execEpochSet (k : Fin 4) (epoch : Word) (_cfg : Shared) (s : State) : Answer :=
  s.nextOn fun d => if d.isMember k then (d.freeSet k).heardEpoch k epoch else d

/-- The shared configuration as CFG_SYNC carries it. -/
def Dev.sharedOut (d : Dev) : Shared := { d.bs.shared with reqs := d.sharedNow }

def execCfgSyncRequest (k : Fin 4) (s : State) : Answer :=
  s.nextOn fun d => if d.isMember k then d.sendPkg k (.cfgSync (d.reg aEpoch) d.sharedOut) else d

def execCfgSyncResponse (k : Fin 4) (epoch : Word) (cfg : Shared) (s : State) : Answer :=
  s.nextOn fun d =>
    if d.bs.syncAsk = some k.val ∧ d.epochStands k epoch then
      onBs (fun b => { b with syncAsk := none, sync := some (epoch, cfg) }) d
    else d

/-- The request is repeated 3 times; after that an event is raised. -/
def execCfgSyncTimeout (s : State) : Answer :=
  s.nextOn fun d => match d.bs.syncAsk with
    | none => d
    | some k =>
      if d.bs.syncTries < 3 then
        onBs (fun b => { b with syncTries := b.syncTries + 1 }) (d.sendPkg (Fin.ofNat 4 k) .cfgSyncReq)
      else (onBs (fun b => { b with syncAsk := none }) d).event .bandSet 12 k

def execEpochAdopt (s : State) : Answer :=
  s.nextOn fun d => match d.bs.sync with
    | none => d
    | some (e, cfg) => ((onBs (fun b => { b with sync := none, shared := cfg }) d).setReg aEpoch e).pairsUpdate

/-- CHANGE_COMMIT, after which the pairs follow the shared configuration. -/
def execChangeCommit (s : State) : Answer :=
  .next (s.onWithSsf fun d => match d.chg with
    | none => d
    | some g => if g.prepared && decide (d.reg aBmfCnt = g.boundary) then (d.changeCommit g).pairsUpdate else d)

/-! Band-set time (R375). -/

/-- The offset from the leader, measured in 10 ps, as RL_TOFS shows it; above 100 ns or at formation time steps, else it slews. -/
def Dev.timeReceived (d : Dev) (k : Nat) (offset : Int) : Dev :=
  if !d.formed || decide (k ≠ d.leaderPkg) || decide (k = d.ownPkg) then d
  else
    let d1 := d.setReg 0x1C0000C (BitVec.ofInt 32 (clampInt (-(2 : Int) ^ 31) ((2 : Int) ^ 31 - 1) offset))
    if d.bs.stepDue || decide (10000 < offset.natAbs) then
      let ps : Int := d.bs.time.toNat * 250 + d.bs.frac - offset * 10
      let restart := (List.range 3).foldl (fun m j => SMap.startAt m j (ps / 250).toNat) []
      onBs (fun b => { b with time := BitVec.ofInt 64 (ps / 250), frac := (ps % 250).toNat, slew := 0, stepDue := false,
                              sumNext := restart }) d1
    else onBs (fun b => { b with slew := -(offset * 10) }) d1

def execTime (k : Fin 4) (offset : Int) (s : State) : Answer :=
  s.nextOn fun d => (if d.linkTo k < 3 then d.onLink (d.linkTo k) fun l => { l with timeHeard := d.bs.time } else d).timeReceived k offset

def execTimeSend (s : State) : Answer := s.nextOn fun d => d.onLinks .time

/-! STATE and activity (R382 to R385). -/

/-- What one entry of a STATE message of package `k` does; whether it disagrees with the local view. -/
def Dev.stateEntryIn (d : Dev) (k : Nat) (e : StateEntry) : Dev × Bool :=
  let f := e.peer.val
  match (d.flow f).pairInForce with
  | none => (d, e.inForce)
  | some (pk, pf, role) =>
    if pk ≠ k ∨ pf ≠ e.flow.val ∨ e.role = role ∨ !e.inForce then (d, true)
    else if e.act then (if (d.flow f).act then d.becomeStandby f else d, false)
    else if e.req && !(d.flow f).act then
      (if (d.flow f).canTake then d.takeActivity f
       else (d.onFlow f fun w => { w with nak := true }).sendState (Fin.ofNat 4 k), false)
    else (d.onFlow f fun w => { w with nak := false }, false)

def Dev.stateReceived (d : Dev) (k : Fin 4) (m : StateMsg) : Dev :=
  if !d.isMember k || decide (k.val = d.ownPkg) then d
  else
    let d0 := onBs (fun b => { b with peers := SMap.insert (SMap.erase b.peers k) k m }) d
    let (d1, bad) := m.entries.foldl (fun a e => let r := a.1.stateEntryIn k e; (r.1, a.2 || r.2)) (d0, false)
    if bad then (d1.event .bandSet 12 k).sendState k else d1

def execState (k : Fin 4) (msg : StateMsg) (s : State) : Answer := s.nextOn fun d => d.stateReceived k msg

def execStateSend (s : State) : Answer := s.nextOn fun d => each d.otherMembers (fun k d => d.sendState k) d

/-- 300 ms without STATE from package `k`: its peers' standby flows take activity when they may. -/
def execStateTimeout (k : Fin 4) (s : State) : Answer :=
  s.nextOn fun d => each (d.flows.map fun e => e.1) (fun f d =>
    let w := d.flow f
    let mine := match w.pairInForce with | some p => decide (p.1 = k.val) | none => false
    if mine && w.isStandby && w.canTake then d.takeActivity f else d) d

/-- The active flow has had SSF, SKEW, LCK, KEY or AUTH reported for the hold-off: takeover is asked for. -/
def execProtectionHoldoff (f : Fin 4096) (s : State) : Answer :=
  s.nextOn fun d =>
    let w := d.flow f
    let bad := !w.isClear || decide (w.rep = some 3)
    match w.pairInForce with
    | some p =>
      if w.act && bad then (d.onFlow f fun w => { w with askTakeover := true }).sendState (Fin.ofNat 4 p.1) else d
    | none => d

/-! Summaries (R327, R328, R363, R377). -/

def execSumReq (k : Fin 4) (tx rx : List (Fin 48)) (s : State) : Answer :=
  s.nextOn fun d =>
    if d.isMember k then
      let r : SumReq := ⟨k, Fin.ofNat 4 d.ownPkg, tx.take 2, rx.take 2⟩
      (onBs (fun b => { b with sumServe := r :: (b.sumServe.filter fun q => q.pkg ≠ k),
                               sumNext := SMap.startAt b.sumNext (d.linkTo k) b.time.toNat }) d).sendPkg k .sumAck
    else d

def execSumAck (k : Fin 4) (s : State) : Answer :=
  s.nextOn fun d => onBs (fun b => { b with sumWait := b.sumWait.filter (· ≠ k.val) }) d

def execSumReqRepeat (k : Fin 4) (s : State) : Answer :=
  s.nextOn fun d => if d.formed && d.bs.sumWait.contains k.val then d.sumRequest k else d

/-- A remote stream is present or absent from now on. -/
def Dev.setStream (d : Dev) (k u : Nat) (rx present : Bool) : Dev :=
  onBs (fun b =>
    let others := b.streams.filter (· ≠ (k, rx, u))
    { b with streams := if present then (k, rx, u) :: others else others }) d

/-- A sample placed by XH_ROFS after its time has passed is late (R326): rlate of each carrier that names the source. -/
def Dev.lateSamples (d : Dev) (k u : Nat) (rx : Bool) (stamp : BitVec 64) : Dev :=
  each (List.range 48) (fun c d =>
    let names := (d.slotsInForce c rx).any fun n => decide (n = (2, u, k))
    let ofs := Fld.int ⟨if rx then 16 else 0, 16⟩ ((if rx then d.actRxReg else d.actReg) (xhBase c + 0x2C))
    if names && decide ((stamp.toNat : Int) * 250 + ofs * 100 < (d.bs.time.toNat : Int) * 250) then
      (d.setBit (aXhStat c) 10).count c 6 0 36
    else d) d

/-- Samples of a stream arrive, of which the last 65,536, those of 16 µs, are held (R326, log entry 110). -/
def SMap.arrived (m : SMap (List (Nat × Nat))) (key t : Nat) (bs : List Byte) : SMap (List (Nat × Nat)) :=
  SMap.put m key [] (((bs.zipIdx.map fun p => (t + p.2, p.1.toNat)).reverse ++ SMap.get m key []).take 65536)

/-- One summary cell: streams of its valid carriers are present, others are not. -/
def Dev.summary (d : Dev) (k : Nat) (rx : Bool) (index : Nat) (stamp : BitVec 64) (cars : List (Bool × List Byte)) : Dev :=
  if !d.isMember k then d
  else
    let named := d.remoteNamed [] k
    cars.zipIdx.foldl (fun d p => match named[2 * index + p.2]? with
      | none => d
      | some u =>
        let d1 := d.setStream k u rx p.1.1
        if p.1.1 then
          (onBs (fun b => { b with samples := SMap.arrived b.samples (128 * k + 64 * rx.toNat + u) stamp.toNat p.1.2 }) d1).lateSamples
            k u rx stamp
        else d1) d

def execSummary (k : Fin 4) (dir : Dir) (index : Fin 2) (stamp : BitVec 64) (validA validB : Bool)
    (samplesA samplesB : List Byte) (s : State) : Answer :=
  s.nextOn fun d => d.summary k (dir = .rx) index stamp [(validA, samplesA), (validB, samplesB)]

def execSummaryAbsent (k : Fin 4) (dir : Dir) (car : Fin 48) (s : State) : Answer :=
  s.nextOn fun d => d.setStream k car (dir = .rx) false

/-! Context records between packages (R112, R113). -/

/-- An import is answered; a record that does not unwrap names no flow, and its answer's flow and direction are free values. -/
def execCtx (k : Fin 4) (record : List Byte) (s : State) : Answer :=
  s.nextOn fun d => match d.importCtx record with
    | some (f, dir, some d1) => d1.sendPkg k (.ctxAck f dir true)
    | some (f, dir, none) => (d.event .context 12 f).sendPkg k (.ctxAck f dir false)
    | none =>
      let (v, d1) := d.fresh
      (d1.event .context 12 k).sendPkg k (.ctxAck (v.toNat % 4096) (if v.getLsbD 12 then .tx else .rx) false)

/-- The local flow whose record for peer flow `g` waits for its acknowledgement. -/
def Dev.ctxFlow (d : Dev) (g : Nat) (dir : Dir) : Option Nat :=
  (d.flows.find? fun e =>
    (match e.2.pairInForce with | some p => decide (p.2.1 = g) | none => false) &&
      (if dir = .tx then e.2.ctxWaitTx else e.2.ctxWaitRx)).map fun e => e.1

def Dev.ctxAnswered (d : Dev) (f : Nat) (dir : Dir) : Dev :=
  d.onFlow f fun w => if dir = .tx then { w with ctxWaitTx := false } else { w with ctxWaitRx := false }

/-- CTX_ACK names the flow as the record does, by the peer's number; a refusal raises an event. -/
def execCtxAck (f : Fin 4096) (dir : Dir) (accepted : Bool) (s : State) : Answer :=
  s.nextOn fun d => match d.ctxFlow f dir with
    | none => d
    | some g => if accepted then d.ctxAnswered g dir else (d.ctxAnswered g dir).event .context 12 g

def execCtxAckTimeout (f : Fin 4096) (dir : Dir) (s : State) : Answer :=
  s.nextOn fun d =>
    if (if dir = .tx then (d.flow f).ctxWaitTx else (d.flow f).ctxWaitRx) then
      (d.ctxAnswered f dir).event .context 12 f
    else d

/-! PROT_SET (R379, R383). -/

/-- The granted PROT_SET of value `v`, whose change is not running yet. -/
def Dev.protSet (d : Dev) (v : Nat) : Option Desc :=
  match d.granted 0 0x0140 with
  | none => none
  | some ds =>
    let mine := match d.chg with | some g => d.changeOwns g | none => false
    if ds.p8 28 = v && !mine then some ds else none

/-- The pairs after a PROT_SET of value 0 to 2. -/
def Dev.protPairs (d : Dev) (ds : Desc) (v : Nat) : List Pair :=
  let f := ds.obj.toNat
  let rest := d.bs.shared.pairs.filter fun p => !decide (p.pkg.val = d.ownPkg ∧ p.flow.val = f)
  if v = 0 then rest
  else rest ++ [⟨Fin.ofNat 4 d.ownPkg, Fin.ofNat 4096 f, decide (v = 2), Fin.ofNat 4 (ds.p8 29),
    Fin.ofNat 4096 (ds.p16 30), ds.p16 32, (d.flow f).slots⟩]

/-- PROT_SET 0 to 2: a change of the shared configuration, whose band multiframe firmware chooses, a free value (log entry 57). -/
def State.protChange (s : State) (v : Nat) : State :=
  match s.dev.protSet v with
  | none => s
  | some ds =>
    let f := ds.obj.toNat
    if 4096 ≤ f ∨ !(s.dev.flow f).alive ∨ 1000 < ds.p16 32 then s.on fun d => d.completeCommand 0 stRefused
    else if s.dev.chg.isSome then s.on fun d => d.completeCommand 0 stBusy
    else
      let b := s.dev.reg aBmfCnt + 3 + BitVec.ofNat 32 ((Config.freeValue s.dev.free).toNat % 65536)
      (s.on fun d => { d with free := d.free + 1 }).changeStart [] b false (some (s.dev.protPairs ds v))

def execProtSetRemove (s : State) : Answer := .next (s.protChange 0)
def execProtSetWorking (s : State) : Answer := .next (s.protChange 1)
def execProtSetProtection (s : State) : Answer := .next (s.protChange 2)

/-- PROT_SET 3: the local flow becomes active at once. -/
def execProtSetForce (s : State) : Answer :=
  s.nextOn fun d => match d.protSet 3 with
    | none => d
    | some ds =>
      let f := ds.obj.toNat
      match (d.flow f).pairInForce with
      | none => d.completeCommand 0 stRefused
      | some p =>
        if !(d.flow f).isReady p.2.2 then d.completeCommand 0 stRefused
        else (if (d.flow f).act then d else d.takeActivity f).completeCommand 0 stDone

/-! Electrical idle (R369, R370). -/

/-- The transmitter announces idle and holds its common mode; its lanes' scans end. -/
def Dev.enterIdle (d : Dev) (j : Nat) : Dev :=
  if d.lState j = lsUp ∨ d.lState j = lsAligning then
    ((d.sendLanes j (List.replicate 8 (List.replicate 4 .announce))).setLState j lsIdle).linkScansOff j
  else d

def execIdleAnnounce (j : Fin 3) (s : State) : Answer :=
  s.nextOn fun d => if d.lState j = lsUp ∨ d.lState j = lsAligning then (d.setLState j lsIdle).linkScansOff j else d

def execRlSignalLoss (j : Fin 3) (s : State) : Answer :=
  s.nextOn fun d => if d.lState j = lsIdle then d else d.linkDown j

/-- A burst of 16 training frames, which ask for no change and are ready (log entry 110); skip sets follow. -/
def execRlIdleExit (j : Fin 3) (s : State) : Answer :=
  s.nextOn fun d =>
    if d.lState j = lsIdle ∧ !d.bit (aRlCtrl j) 0 ∧ !d.pw.linkIdle then
      ((d.sendLanes j (List.replicate 8 (List.replicate 16 (trainingSyms 0x20 0x00)).flatten)).setLState j lsAligning).onLink j fun l => { l with burst := true, misses := [] }
    else d

def execRlIdleExitTimeout (j : Fin 3) (s : State) : Answer :=
  s.nextOn fun d => if (d.link j).burst then d.startTraining j else d

/-! Register writes (Table 13-4). -/

/-- RL_CFG.k does not change while en is 1. -/
def Dev.rlCfgBad (d : Dev) (w : Word) : Bool := d.bit aRlCfg 2 && decide (Fld.get ⟨0, 2⟩ w ≠ d.ownPkg)

/-- RL_CFG after a write: disabled links go down, and a package not offered leaves the set. -/
def Dev.rlCfgWritten (d : Dev) : Dev :=
  (each (List.range 3) (fun j d => if d.linkEn j then d else d.linkDown j) d).setUpdate

/-- RL_CTRL_j after a write: a retrain restarts training of an enabled link, counted as a down; idle is entered. -/
def Dev.rlCtrlWritten (d : Dev) (j : Nat) : Dev :=
  let d1 := if d.bit (aRlCtrl j) 1 && d.linkEn j then (d.linkDown j).startTraining j else d
  if d1.bit (aRlCtrl j) 0 then d1.enterIdle j else d1

end Sys2Proof.Machine
end

