-- ==== Sys2Proof/Machine/Matrix.lean ====
section
/-!
DEFINITION. The control matrix, the Stylus interrupt controller and the UART console (chapter 15): timeouts and fences, core
and die window resets, sources, deliveries and completions.
-/
namespace Sys2Proof.Machine
open RegMap

/-! The control matrix (R411, R418 to R422). -/

/-- Master numbers (Table 15-1). -/
def masterNo : Master → Nat
  | .pcie => 0 | .core n => 1 + n | .engine e => 5 + e | .trust => 7 | .link => 8

/-- A master is fenced. -/
def Dev.masterFenced (d : Dev) (m : Master) : Bool := d.bit aMxFence (masterNo m)

/-- MX_ERR and MX_ERR_ADR hold the first error since clr. Kinds: 1 timeout, 2 watchdog, 3 fenced request. -/
def Dev.mxErr (d : Dev) (m : Master) (kind : Nat) (adr : Word) : Dev :=
  if d.fld 0x60CC ⟨4, 2⟩ = 0 then (d.setReg 0x60CC (BitVec.ofNat 32 (masterNo m + 16 * kind))).setReg 0x60D0 adr else d

/-- MX_ERR after a write: clr empties both. -/
def Dev.mxErrWritten (d : Dev) (w : Word) : Dev := if w.getLsbD 31 then (d.setReg 0x60CC 0).setReg 0x60D0 0 else d

/-- One more completion timeout. -/
def Dev.mxTo (d : Dev) : Dev := d.satFld 0x60D4 ⟨0, 16⟩

/-- The matrix-error source of a core (Table 21-5). -/
def matrixSource (n : Nat) : Nat := if n = 3 then 448 else 92 + n

/-- The tenant whose command engine `e` granted last. -/
def Dev.engineTenant (d : Dev) (e : Nat) : Nat := if (d.engine e).ownerLast then 0 else (d.engine e).lastTenant

/-- What an error completion does at its master (Table 15-1), apart from the count. -/
def State.masterOutcome (s : State) (m : Master) (read : Bool) : State :=
  match m with
  | .pcie => s.on fun d =>
    let d1 := if read then d.emit (.reply .pcie 0xFFFFFFFF#32) else d
    d1.event .matrixTimeout 12 0
  | .core n => s.on fun d =>
    let d1 := d.count (52 + n) 7 0 1
    if read then d1.event .coreEvent 12 n else d1.line (matrixSource n)
  | .engine e => s.on fun d => (d.completeCommand (d.engineTenant e) stRefused).event .matrixTimeout 12 (5 + e)
  | .trust => s.fault 12 9
  | .link => s.on fun d => d.count pcLink 5 0 1

/-- A master's oldest unanswered access. -/
def Dev.oldestOf (d : Dev) (m : Master) : Option Unanswered := d.mx.unanswered.find? fun u => decide (u.master = m)

/-- Its completion timeout expires. -/
def State.matrixTimeout (s : State) (m : Master) : State :=
  match s.dev.oldestOf m with
  | none => s
  | some u =>
    (s.on fun d => ({ d with mx := { d.mx with unanswered := d.mx.unanswered.erase u } }.mxTo).mxErr m 1 u.adr).masterOutcome
      m u.read

/-- An access that the matrix never answers. -/
def Dev.noAnswer (d : Dev) (m : Master) (adr : Word) (read : Bool) : Dev :=
  { d with mx := { d.mx with unanswered := d.mx.unanswered ++ [⟨m, adr, read⟩] } }

/-- An access of a fenced master: an error completion at once (R422), which for the PCIe port is counted. -/
def State.fencedAccess (s : State) (m : Master) (adr : Word) (read : Bool) : State :=
  (s.on fun d => (if m = .pcie then d.mxTo else d).mxErr m 3 adr).masterOutcome m read

/-- R420. -/
def execLateCompletion (_m : Master) (s : State) : Answer :=
  s.nextOn fun d => (d.satFld 0x60D4 ⟨16, 16⟩).count pcMatrix 1 0 1

/-- R421: the accesses outstanding on the path are answered with errors, the stalled party is fenced, and the matrix fault
source of the hub die is raised. -/
def State.pathWatchdog (s : State) (m : Master) (x : Nat) (addr : Addr) (who : Stalled) : State :=
  let adr := addr.setWidth 32
  let mine := s.dev.mx.unanswered.filter fun u => decide (u.master = m ∧ u.adr = adr)
  let held := (s.dev.mx.windowWait ++ s.dev.mx.regionWait).filter fun u => decide (u.master = m ∧ u.addr = addr)
  let s1 := s.on fun d =>
    let d1 := { d with mx := { d.mx with
      unanswered := d.mx.unanswered.filter fun u => !decide (u.master = m ∧ u.adr = adr),
      windowWait := d.mx.windowWait.filter fun u => !decide (u.master = m ∧ u.addr = addr),
      regionWait := d.mx.regionWait.filter fun u => !decide (u.master = m ∧ u.addr = addr) } }
    let d2 := if who = .target then d1 else d1.setBit aMxFence (masterNo m)
    let d3 := if who = .master then d2 else d2.setBit aMxFence (16 + x)
    d3.mxErr m 2 adr
  let s2 := each mine (fun u s => s.masterOutcome m u.read) s1
  let s3 := each held (fun u s => s.masterOutcome m u.write.isNone) s2
  s3.fault 12 10

/-- The PCIe port's fence ends by itself 1 ms after it began. -/
def execFenceRelease (s : State) : Answer := s.nextOn fun d => d.setBit aMxFence 0 false

/-! The interrupt controller (R425 to R434). -/

def aIcCtrl (n : Nat) : Nat := 0x300 + 0x20 * n
def aIcStat (n : Nat) : Nat := 0x304 + 0x20 * n
def aIcVbase (n : Nat) : Nat := 0x308 + 0x20 * n
def aIcSrc (s : Nat) : Nat := 0x1000 + 4 * s

def Dev.icPrio (d : Dev) (s : Nat) : Nat := Fld.get ⟨0, 8⟩ (d.icReg (aIcSrc s))
def Dev.icEdge (d : Dev) (s : Nat) : Bool := (d.icReg (aIcSrc s)).getLsbD 10
def Dev.icMod (d : Dev) (s : Nat) : Nat := Fld.get ⟨16, 8⟩ (d.icReg (aIcSrc s))
def Dev.icMasked (d : Dev) (s : Nat) : Bool := (d.icReg (0x200 + 4 * (s / 32))).getLsbD (s % 32)
def Dev.icGroup (d : Dev) (s : Nat) : Nat := d.icPrio s / 2 ^ Fld.get ⟨0, 3⟩ (d.icReg 0)
def Dev.icFrozen (d : Dev) (n : Nat) : Bool := (d.icReg (aIcStat n)).getLsbD 5

/-- One bit of IC_STAT_n. -/
def Dev.icStatBit (d : Dev) (n i : Nat) (b : Bool) : Dev :=
  d.setIc (aIcStat n) (Fld.set ⟨i, 1⟩ b.toNat (d.icReg (aIcStat n)))

/-- A core's stack, with the depth and top that IC_STAT_n shows. -/
def Dev.setStack (d : Dev) (n : Nat) (st : List Nat) : Dev :=
  let d1 := d.onCore n fun c => { c with stack := st }
  d1.setIc (aIcStat n) (Fld.set ⟨16, 9⟩ (st.headD 0) (Fld.set ⟨0, 5⟩ st.length (d1.icReg (aIcStat n))))

/-- Eligible for core `n`, which is idle or not (R426, R433). -/
def Dev.icEligible (d : Dev) (n : Nat) (idle : Bool) (s : Nat) : Bool :=
  decide (d.sourceCore s = n) && d.pendBit s && !d.icMasked s && decide (d.icPrio s ≠ 0) &&
    !(d.core n).stack.contains s && (idle || !d.modBusy.contains s)

/-- The eligible source with the highest group, then sub-priority, then lowest number. -/
def Dev.icChoice (d : Dev) (n : Nat) (idle : Bool) : Option Nat :=
  (List.range 512).foldl (fun best s =>
    if d.icEligible n idle s then
      match best with
      | none => some s
      | some b => if d.icPrio b < d.icPrio s then some s else best
    else best) none

/-- The chosen source pre-empts the core. -/
def Dev.icPreempts (d : Dev) (n s : Nat) : Bool :=
  match (d.core n).stack with | [] => true | t :: _ => decide (d.icGroup t < d.icGroup s)

/-- A vector handed to a core, which saves its pc and interrupt enable and goes on with interrupts disabled (R427). -/
def Dev.vectorTo (d : Dev) (n : Nat) (a : Word) : Dev :=
  (d.emit (.vector n a)).onCore n fun c => { c with pc := a, ie := false, saved := (c.pc, c.ie) :: c.saved, clock := true }

/-- A delivery (R427, R429, R486). `wfi`: the core executes WFI; `ie`: its interrupt enable, which its code sets (log entry 10). -/
def Dev.deliver (d : Dev) (n : Nat) (wfi ie : Bool) : Dev :=
  let d := d.onCore n fun c => { c with ie := ie }
  if !(d.core n).running || !ie || d.held n || d.icFrozen n then d
  else match d.icChoice n (wfi && decide ((d.core n).stack = [])) with
    | none => d
    | some s =>
      if !d.icPreempts n s then d
      else if 16 ≤ (d.core n).stack.length then d.icStatBit n 7 true
      else
        let d1 := if d.icEdge s then d.setPendBit s false else d
        let d2 := (d1.setStack n (s :: (d1.core n).stack)).vectorTo n (d1.icReg (aIcVbase n) + BitVec.ofNat 32 (16 * s))
        let d3 := if d2.icMod s = 0 ∨ d2.modBusy.contains s then d2 else { d2 with modBusy := s :: d2.modBusy }
        d3.count (52 + n) 6 0 1

def execInterruptDelivery (n : Fin 4) (wfi ie : Bool) (s : State) : Answer := s.nextOn fun d => d.deliver n wfi ie

/-- A source of which another one is a copy has no line of its own. -/
def isCopy (s : Nat) : Bool := decide (449 ≤ s ∧ s ≤ 506)

/-- The source and its copy. -/
def lineSources (s : Nat) : List Nat := s :: (sourceCopy s).toList

/-- A block's line (R430): a level source pends while it is high, an edge source as it rises. -/
def Dev.sourceLine (d : Dev) (s : Nat) (high : Bool) : Dev :=
  if sourceReserved s || isCopy s then d
  else
    let rising := high && !d.lines.contains s
    let d1 := { d with lines := if high then s :: d.lines.filter (· ≠ s) else d.lines.filter (· ≠ s) }
    each (lineSources s) (fun t d => if rising || (high && !d.icEdge t) then d.pend t true else d) d1

def execInterruptSource (s : Fin 512) (high : Bool) (st : State) : Answer := st.nextOn fun d => d.sourceLine s high

/-- IC_EOI_n (R428). -/
def Dev.eoi (d : Dev) (n s : Nat) : Dev :=
  if d.icFrozen n then d
  else match (d.core n).stack with
    | t :: rest =>
      if t = s then (d.setStack n rest).onCore n fun c =>
        match c.saved with | [] => c | (a, ie) :: more => { c with pc := a, ie := ie, saved := more }
      else ((d.icStatBit n 6 true).icStatBit n 5 true).vectorTo n (d.icReg (aIcVbase n) + 0x2000#32)
    | [] => ((d.icStatBit n 6 true).icStatBit n 5 true).vectorTo n (d.icReg (aIcVbase n) + 0x2000#32)

def execEoi (n : Fin 4) (s : BitVec 9) (st : State) : Answer := st.nextOn fun d => d.eoi n s.toNat

/-- IC_CTRL_n.thaw. -/
def Dev.thaw (d : Dev) (n : Nat) : Dev := (d.setStack n []).icStatBit n 5 false

def execThaw (n : Fin 4) (s : State) : Answer := s.nextOn fun d => d.thaw n

/-- The shadow of a hold is applied; a bit set in it ends set (R432). -/
def Dev.unhold (d : Dev) (n : Nat) : Dev :=
  let hs := (d.core n).held
  let d1 := (d.onCore n fun c => { c with held := [] }).setIc (aIcCtrl n) 0
  each (hs.filter fun h => h.2) (fun h d => d.setPendBit h.1 true)
    (each (hs.filter fun h => !h.2) (fun h d => d.setPendBit h.1 false) d1)

/-- IC_CTRL_n.hold. -/
def Dev.setHold (d : Dev) (n : Nat) (on : Bool) : Dev := if on then d.setIc (aIcCtrl n) 1 else d.unhold n

def execHold (n : Fin 4) (on : Bool) (s : State) : Answer := s.nextOn fun d => d.setHold n on

def execHoldTimeout (n : Fin 4) (s : State) : Answer :=
  s.nextOn fun d => if d.held n then (d.unhold n).icStatBit n 8 true else d

/-- A core reaches a word of the controller (R412): core 3 only words of its own sources, and each core its own block. -/
def icReach (n off : Nat) : Bool :=
  if 0x300 ≤ off ∧ off < 0x400 then decide ((off - 0x300) / 0x20 = n)
  else if n ≠ 3 then true
  else decide (0x138 ≤ off ∧ off < 0x140) || decide (0x238 ≤ off ∧ off < 0x240) || decide (0x1700 ≤ off ∧ off < 0x1800)

/-- A whole IC_PEND_w or IC_MASK_w is replaced; a level source whose line is high pends again at once. -/
def Dev.icPendWritten (d : Dev) (mask : Bool) (w : Nat) (data : Word) : Dev :=
  let d1 := d.setIc ((if mask then 0x200 else 0x100) + 4 * w) data
  if mask then d1
  else each (d1.lines.flatMap lineSources) (fun t d =>
    if decide (t / 32 = w) && !d.icEdge t then d.pend t true else d) d1

/-- The address of a controller word as a core issues it. -/
def icAdr (off : Nat) : Word := 0x40000000#32 + BitVec.ofNat 32 off

def execIcPendWrite (n : Fin 4) (mask : Bool) (w : Fin 16) (data : Word) (s : State) : Answer :=
  let off := (if mask then 0x200 else 0x100) + 4 * w.val
  .next (if s.dev.masterFenced (.core n) then s.fencedAccess (.core n) (icAdr off) false
    else s.on fun d => if icReach n off then d.icPendWritten mask w data else d.noAnswer (.core n) (icAdr off) false)

def execModerationEnd (s : Fin 512) (st : State) : Answer :=
  st.nextOn fun d => { d with modBusy := d.modBusy.filter (· ≠ s.val) }

/-! Resets (R422, R424, R539). -/

/-- A core reset: stack, pending stores and fence go, its interrupt block is reset, and it restarts at 0. -/
def Dev.coreReset (d : Dev) (n : Fin 4) : Dev :=
  let d1 := d.unhold n
  let d2 := (((d1.setStack n []).setIc (aIcStat n) 0).setIc (aIcCtrl n) 0).setIc (aIcVbase n) 0
  let d3 := { d2 with mx := { d2.mx with unanswered := d2.mx.unanswered.filter fun u => u.master ≠ Master.core n } }
  (d3.setBit aMxFence (1 + n) false).onCore n fun _ => { clock := true, running := true }

def execCoreReset (n : Fin 3) (s : State) : Answer := s.nextOn fun d => d.coreReset (n.castLE (by decide))

/-- The Registration link agent is reset: its fence goes, and the links register again (R371). -/
def Dev.linkAgentReset (d : Dev) : Dev :=
  each (List.range 3) (fun j d => d.unregister j) (d.setBit aMxFence 8 false)

def execLinkAgentReset (s : State) : Answer :=
  s.nextOn fun d => if d.bit aMxFence 8 then d.linkAgentReset else d

/-- A register lies in a window of die `x` and is reset with it: not one of an always-on island (R22, R504, R510, R540), nor one
that records fences, which hold until the next device reset (R13). -/
def inDieWindow (x : Nat) (base : Nat) (is : List Nat) (de : RegDesc) : Bool :=
  let off := (de.dims.zip is).foldl (fun t p => t + p.1.1 * p.2) base
  (match windowOf off with | some w => decide (w.die = x) | none => false) &&
    !decide (de.id = .glbEpoch ∨ de.id = .rstStat ∨ de.id = .fcStatLo ∨ de.id = .fcStatHi ∨ de.id = .fcSuppLo ∨
      de.id = .fcSuppHi ∨ de.id = .fcCls ∨ de.id = .tenBind ∨ de.id = .tcStat ∨ de.id = .mxFence ∨ de.id = .carrStat ∨
      de.id = .clusCmt ∨ de.id = .rxStat ∨ de.id = .poolFence ∨ de.id = .poolStat ∨ de.id = .ciphFence ∨ de.id = .pageStbTx ∨ de.id = .baseStbTx) &&
    !decide (0x2000 ≤ de.base ∧ de.base < 0x3000)

/-- The clusters of a die. -/
def dieClusters (x : Nat) : List Cluster := allClusters.filter fun k => decide (clusterDie k = x)

/-- Reset of the register window and blocks of one die; transmit enables and RWS fields are kept. The hub die's switch keeps
its pages as in a hub datapath reset. -/
def State.dieReset (s : State) (x : Nat) : State :=
  let s1 := each (dieClusters x) (fun k s => s.clusterReset k) s
  s1.onWithSsf fun d =>
    let d1 := if x < 8 then
        ((((d.runAbandon x).captureAbort x).onRegion x fun r => { r with full := false }).setFld 0x3800 ⟨x, 1⟩
          0).frontEndReset x
      else if x < 12 then
        each [2 * (x - 8), 2 * (x - 8) + 1] (fun g d => (d.dpClear g).onRegion g fun r => { r with taps := [] }) d
      else if x = 13 ∨ x = 14 then
        each (List.range 64) (fun p d =>
          if d.portEn p && decide (13 + d.fld (aPortMap p) ⟨3, 7⟩ / 64 = x) then d.portRetrain p else d) d
      else d
    (d1.resetWhere fun de is => inDieWindow x de.base is de).onDie x fun q => { q with reset := true }

/-- Firmware resets a fenced target's die window: the fence is released, and accesses wait until the reset ends (R547). -/
def State.dieWindowReset (s : State) (x : Nat) : State :=
  if s.dev.bit aMxFence (16 + x) then (s.dieReset x).on fun d => d.setBit aMxFence (16 + x) false else s

def execDieWindowReset (x : Fin 16) (s : State) : Answer := .next (s.dieWindowReset x)

/-! The UART console (R435 to R438). -/

def aUartCtrl : Nat := 0xC000
def aUartStat : Nat := 0xC008

def onUart (f : Uart → Uart) (d : Dev) : Dev := { d with uart := f d.uart }

/-- UART_STAT.rxn and txn. -/
def Dev.uartShow (d : Dev) : Dev :=
  (d.setFld aUartStat ⟨0, 7⟩ d.uart.rx.length).setFld aUartStat ⟨9, 7⟩ d.uart.tx.length

/-- The divisor lies outside 1 + 3/64 to 27 + 8/64. -/
def uartCtrlBad (w : Word) : Bool :=
  let div := 64 * Fld.get ⟨0, 5⟩ w + Fld.get ⟨5, 6⟩ w
  decide (div < 67 ∨ 1736 < div)

def execUartRxByte (b : Byte) (stop : Bool) (s : State) : Answer :=
  s.nextOn fun d =>
    if !stop then d.setBit aUartStat 7
    else if 64 ≤ d.uart.rx.length then d.satFld aUartStat ⟨16, 16⟩
    else (onUart (fun u => { u with rx := u.rx ++ [b] }) d).uartShow

def execUartBreak (s : State) : Answer := s.nextOn fun d => d.setBit aUartStat 8

/-- A core that does not own the console. -/
def Dev.uartDenied (d : Dev) (m : Master) : Bool :=
  match m with
  | .core n => decide (n.val ≠ if d.bit aUartCtrl 11 then 3 else 0)
  | _ => false

/-- UART_DATA written: a byte to send, or one discarded. -/
def Dev.uartWritten (d : Dev) (w : Word) : Dev :=
  if 64 ≤ d.uart.tx.length then d.satFld aUartStat ⟨16, 16⟩
  else (onUart (fun u => { u with tx := u.tx ++ [w.setWidth 8] }) d).uartShow

/-- UART_DATA read: the next received byte; what an empty FIFO gives beside valid at 0 is a free value (log entry 3). -/
def Dev.uartRead (d : Dev) : Word × Dev :=
  match d.uart.rx with
  | b :: rest => (BitVec.ofNat 32 (b.toNat + 256), (onUart (fun u => { u with rx := rest }) d).uartShow)
  | [] => let r := d.fresh; (BitVec.ofNat 32 (r.1.toNat % 256), r.2)

def execUartByteSent (s : State) : Answer :=
  s.nextOn fun d => match d.uart.tx with
    | b :: rest => ((onUart (fun u => { u with tx := rest }) d).uartShow).emit (.uart b)
    | [] => d

end Sys2Proof.Machine
end

