-- ==== Sys2Proof/Machine/Trust.lean ====
section
/-!
DEFINITION. The trust core (chapter 16) beside key agreement: image slots and secure boot (R442 to R445), owner authorisation
and enrolment (R446, R447), the owner mailbox (R450), its services, the error state (R449), wrapping (R457), and zeroization
(R459 to R461).
-/
namespace Sys2Proof.Machine
open RegMap

def Dev.onTc (d : Dev) (f : Trust → Trust) : Dev := { d with tc := f d.tc }

/-! Image slots (R442, R443). Kinds: 0 T, 1 G, 2 O; slot 2 × kind + s, s being 0 for A and 1 for B. -/

def Trust.slot (t : Trust) (i : Nat) : Slot := SMap.get t.slots i {}
def Trust.setSlot (t : Trust) (i : Nat) (v : Slot) : Trust := { t with slots := SMap.put t.slots i {} v }
def Trust.floor (t : Trust) (k : Nat) : Nat := SMap.get t.floors k 0

/-- The running slot of a kind, `none` when none runs: held as slot + 1. -/
def Trust.runs (t : Trust) (k : Nat) : Option Nat :=
  match SMap.get t.running k 0 with | 0 => none | n + 1 => some n
def Trust.setRuns (t : Trust) (k : Nat) (s : Option Nat) : Trust :=
  { t with running := SMap.put t.running k 0 (match s with | none => 0 | some n => n + 1) }

/-- R442, R443: a slot is bootable. -/
def Trust.bootable (t : Trust) (k s : Nat) : Bool :=
  let v := t.slot (2 * k + s)
  match v.img with
  | none => false
  | some m => m.sigs && m.digestOk && decide (t.floor k ≤ m.version.toNat) && (m.validated || !(Config.isFips || t.approved)) &&
      !(v.trial && v.ran)

def Slot.version (v : Slot) : Nat := match v.img with | some m => m.version.toNat | none => 0

/-- The slot that runs: the bootable one with the higher version, of equals the one confirmed last. -/
def Trust.choose (t : Trust) (k : Nat) : Option Nat :=
  let a := t.slot (2 * k)
  let b := t.slot (2 * k + 1)
  match t.bootable k 0, t.bootable k 1 with
  | false, false => none
  | true, false => some 0
  | false, true => some 1
  | true, true => if a.version < b.version ∨ (a.version = b.version ∧ a.confirmed < b.confirmed) then some 1 else some 0

/-- Kind `k` is started at boot, or at a reset of core 3 for O: a trial slot is used up. -/
def Trust.start (t : Trust) (k : Nat) : Trust :=
  let c := t.choose k
  let t1 := t.setRuns k c
  match c with
  | none => t1
  | some s => t1.setSlot (2 * k + s) { t.slot (2 * k + s) with ran := true }

/-- TC_STAT as the trust core stands (Table 16-7), its W1C bits and count kept. -/
def Dev.tcShow (d : Dev) : Dev :=
  let t := d.tc
  let slot (k : Nat) := (match t.runs k with | some 1 => true | _ => false).toNat
  let d1 := d.setFld aTcStat ⟨0, 4⟩
    (t.approved.toNat + 2 * t.ownerHash.isSome.toNat + 4 * t.provisioned.toNat + 8 * t.provisioned.toNat)
  let d2 := (d1.setFld aTcStat ⟨5, 1⟩ t.zscope.isSome.toNat).setFld aTcStat ⟨7, 1⟩ t.zLow.toNat
  d2.setFld aTcStat ⟨12, 4⟩ (slot 0 + 2 * slot 1 + 4 * slot 2 + 8 * (t.runs 2).isSome.toNat)

/-! The test access port (Table 0-5). -/

/-- Instructions of the test access port: the mandatory ones of IEEE 1149.1, and those of debug and factory test. -/
inductive TapInstr where
  | bypass | extest | sample | preload | debug
  deriving DecidableEq, Repr

/-- The port takes an instruction: boundary scan always, debug until provisioning (TC_STAT.dbg_lock). -/
def Dev.tapTakes (d : Dev) (i : TapInstr) : Bool := decide (i ≠ .debug) || !d.bit aTcStat 3

/-! The error state (R449). -/

/-- The trust core enters its error state: agreements end, and every flow fails closed; source 15 of the hub die. -/
def Dev.trustError (d : Dev) : Dev :=
  (each (d.flows.map fun e => e.1)
    (fun f d => if (d.flow f).ka.isSome || (d.flow f).rot.isSome then d.kaAbortSend f else d) (d.setBit aTcStat 4)).faultLog 12 15

def execEntropyHealthFailure (s : State) : Answer := s.nextOn Dev.trustError

/-! Zeroization (R459, R460). -/

/-- What a scope clears (Table 16-6): 0 FLOWS, 1 KEYS, 2 DEVICE. -/
def Dev.zeroizeScope (d : Dev) (scope : Nat) : Dev :=
  let d1 := each (d.flows.map fun e => e.1) (fun f d => d.zeroizeFlow f) d
  let d2 := if 1 ≤ scope then d1.onTc fun t => { t with dwk := none, drawing := !t.tripHeld } else d1
  if 2 ≤ scope then d2.onTc fun t => { t with ownerHash := none, peers := [], counter := 0 } else d2

/-- A zeroization starts, or waits for the one that runs. -/
def Dev.zeroizeStart (d : Dev) (scope : Nat) (mailbox : Bool) : Dev :=
  (d.onTc fun t => if t.zscope.isSome then { t with zqueue := t.zqueue ++ [(scope, mailbox)] }
    else { t with zscope := some (scope, mailbox) }).tcShow

/-- ZEROIZE_N falls. -/
def execZeroizeNFall (s : State) : Answer :=
  s.nextOn fun d =>
    if d.tc.zLow then d
    else
      let d1 := d.onTc fun t => { t with zLow := true }
      if d.boot = .off then d1 else d1.zeroizeStart 1 false

def execZeroizeNRise (s : State) : Answer := s.nextOn fun d => (d.onTc fun t => { t with zLow := false }).tcShow

/-- A sensor trips (R461): its bit, source 14 of the hub die, and KEYS. -/
def execSensorTrip (i : Fin 3) (s : State) : Answer :=
  s.nextOn fun d =>
    (((d.setBit aTcStat (8 + i)).onTc fun t => { t with tripHeld := true }).zeroizeStart 1 false).faultLog 12 14

/-! The owner mailbox (R450). -/

def Dev.mbBusy (d : Dev) : Bool := d.tc.rsp.getLsbD 7

/-- The mailbox answers: in boot recovery and after the boot (R536). -/
def Dev.mbOpen (d : Dev) : Bool := decide (d.boot = .ready ∨ d.boot = .recovery)

/-- A request starts to run. -/
def Dev.mbStart (d : Dev) (req : Option Word) : Dev :=
  d.onTc fun t => { t with req := req, rsp := Fld.set ⟨7, 1⟩ 1 t.rsp }

/-- The host buffer of a request, from whose start the response is written. -/
def Dev.mbBuffer (d : Dev) : Nat := d.tc.adrHi.toNat * 2 ^ 32 + d.tc.adrLo.toNat

/-- A request completes: the response bytes, MB_RES, MB_RSP, and MSI-X vector 255 of PF0. Where the figures are the bytes of the
response (`whole`), MB_RES counts them; other layouts leave their length open, so it is a free value within the buffer (log entry 19). -/
def Dev.mbEnd (d : Dev) (st : Nat) (figures : List Nat := []) (whole : Bool := false) : Dev :=
  let (v, d1) := d.fresh
  let len := Fld.get ⟨0, 25⟩ d.tc.len
  let res : Word := if figures = [] then 0 else BitVec.ofNat 32 (if whole then figures.length else v.toNat % (len + 1))
  let d2 := if figures = [] then d else d1.emit (.mailbox (Fld.get ⟨0, 8⟩ d.tc.svc) d.mbBuffer figures)
  (d2.onTc fun t =>
    { t with res := res, rsp := BitVec.ofNat 32 (st + 2 ^ 16 * Fld.get ⟨16, 16⟩ t.svc), req := none }).emit (.msix 0 255)

/-- The services of Table 16-4 with the parameters each has. -/
def svcKnown (w : Word) : Bool := [0x01, 0x02, 0x03, 0x10, 0x11, 0x12, 0x13, 0x20, 0x21, 0x30].contains (Fld.get ⟨0, 8⟩ w)

/-- Boot recovery serves STATUS, ATTEST and IMAGE_WRITE only (R444). -/
def svcInRecovery (svc : Nat) : Bool := decide (svc = 0x01 ∨ svc = 0x02 ∨ svc = 0x20)

/-- MB_DB is written: a doorbell while busy is discarded and counted. -/
def Dev.mbDoorbell (d : Dev) : Dev :=
  if d.mbBusy then d.discard
  else
    let d1 := d.mbStart (some d.tc.svc)
    if !svcKnown d.tc.svc then d1.mbEnd stBadop
    else if d.boot = .recovery ∧ !svcInRecovery (Fld.get ⟨0, 8⟩ d.tc.svc) then d1.mbEnd stRefused
    else if Fld.get ⟨0, 8⟩ d.tc.svc = 0x20 ∨ Fld.get ⟨0, 8⟩ d.tc.svc = 0x21 ∨ Fld.get ⟨0, 8⟩ d.tc.svc = 0x30 then
      (if 2 < Fld.get ⟨8, 8⟩ d.tc.svc then d1.mbEnd stRefused else d1)
    else d1

/-- A service of code `svc` runs: the request that a doorbell left, or, on a mailbox that is idle, a request that the host
makes whole (it writes MB_SVC and the doorbell). `par` is the parameter the row fixes. A request on a busy mailbox is
discarded and counted. -/
def Dev.mbRun (d : Dev) (svc : Nat) (par : Option Nat) (run : Dev → Dev) : Dev :=
  if !d.mbOpen then (if d.boot = .off then d else d.discard)
  else match d.tc.req with
    | some w =>
      if Fld.get ⟨0, 8⟩ w = svc ∧ (par = none ∨ par = some (Fld.get ⟨8, 8⟩ w)) then
        run (d.onTc fun t => { t with req := none, svc := w })
      else d.discard
    | none =>
      if d.mbBusy then d.discard
      else
        let w := Fld.set ⟨0, 8⟩ svc d.tc.svc
        let w1 := match par with | some p => Fld.set ⟨8, 8⟩ p w | none => w
        let d1 := (d.onTc fun t => { t with svc := w1 }).mbStart none
        if d.boot = .recovery ∧ !svcInRecovery svc then d1.mbEnd stRefused else run d1

/-- A service that needs an owner authorisation block (R446, R448): without a valid one it completes as DENIED. -/
def Dev.mbAuth (d : Dev) (a : Auth) (run : Dev → Dev) : Dev :=
  match d.authTake a with | none => d.mbEnd stDenied | some d1 => run d1

/-- Versions and slots of the images, and the rollback floors. -/
def Trust.images (t : Trust) : List Nat :=
  (List.range 6).map (fun i => (t.slot i).version) ++ (List.range 3).map (fun k => t.floor k) ++
    (List.range 3).map fun k => match t.runs k with | none => 0 | some s => s + 1

/-- STATUS. -/
def execStatus (s : State) : Answer :=
  s.nextOn fun d => d.mbRun 0x01 none fun d => d.mbEnd stDone ((d.reg aTcStat).toNat :: d.tc.images)

/-- The digest of the running image of a kind. -/
def Trust.digest (t : Trust) (k : Nat) : Nat :=
  match t.runs k with
  | none => 0
  | some s => match (t.slot (2 * k + s)).img with | none => 0 | some m => m.digest.toNat

/-- The figures of an attestation report in their order (R451), each in its own bytes (log entry 5). -/
def Dev.reportBody (d : Dev) (nonce : List Byte) : List Byte :=
  bytesOf 8 Config.identity.toNat ++ Config.idKey ++ nonce ++
    bytesOf 1 Config.isFips.toNat ++ bytesOf 1 d.tc.approved.toNat ++ bytesOf 1 d.tc.ownerHash.isSome.toNat ++
    bytesOf 48 (d.tc.ownerHash.getD 0).toNat ++ d.tc.images.flatMap (bytesOf 4) ++
    (List.range 3).flatMap (fun k => bytesOf 48 (d.tc.digest k)) ++ bytesOf 4 (d.reg aEpoch).toNat ++ Config.reportPair d.tc.pair

/-- A report signed by the identity key, and the certificate chain. -/
def Dev.report (d : Dev) (nonce : List Byte) : List Nat :=
  let b := d.reportBody nonce
  (b ++ Config.idkSign b ++ Config.certChain).map fun (v : Byte) => v.toNat

/-- ATTEST: BUSY while a pair is drawn. -/
def execAttest (nonce : List Byte) (s : State) : Answer :=
  s.nextOn fun d => d.mbRun 0x02 none fun d =>
    if d.tc.drawing then d.mbEnd stBusy
    else (d.onTc fun t => { t with nonces := nonce :: t.nonces }).mbEnd stDone (d.report nonce) true

/-- SELFTEST. -/
def execSelftest (pass : Bool) (s : State) : Answer :=
  s.nextOn fun d => d.mbRun 0x03 none fun d => (if pass then d else d.trustError).mbEnd stDone [pass.toNat]

/-! Enrolment (R447) and the peer list. -/

/-- The block of an ENROL request is accepted: of an unowned device under the new keys and a fresh nonce, of an owned one under
the enrolled keys. -/
def Dev.enrolAuth (d : Dev) (nonce : List Byte) (a : Auth) : Option Dev :=
  if d.tc.ownerHash.isSome then d.authTake a
  else if d.tc.nonces.contains nonce && a.ecdsa && a.mldsa && decide (d.tc.counter < a.counter) then
    some (d.onTc fun t => { t with counter := a.counter })
  else none

/-- A fresh 256-bit key of the random bit generator: free values (log entry 3). -/
def Dev.freshKey (d : Dev) : BitVec 256 × Dev :=
  let (a, d1) := d.fresh
  let (b, d2) := d1.fresh
  let (c, d3) := d2.fresh
  let (e, d4) := d3.fresh
  (a ++ b ++ c ++ e, d4)

/-- The owner's keys are bound; a first enrolment provisions the device and generates the DWK. -/
def Dev.enrol (d : Dev) (keyHash : BitVec 384) (approved : Bool) : Dev :=
  let d1 := d.onTc fun t => { t with ownerHash := some keyHash }
  if d1.tc.provisioned then d1.tcShow
  else
    let (k, d2) := d1.freshKey
    (d2.onTc fun t => { t with provisioned := true, approved := Config.isFips || approved, dwk := some k }).tcShow

def execEnrol (keyHash : BitVec 384) (nonce : List Byte) (approved : Bool) (auth : Auth) (s : State) : Answer :=
  s.nextOn fun d => d.mbRun 0x10 none fun d =>
    match d.enrolAuth nonce auth with
    | none => d.mbEnd stDenied
    | some d1 => (d1.enrol keyHash approved).mbEnd stDone

def execPeerList (ids : List (BitVec 64)) (auth : Auth) (s : State) : Answer :=
  s.nextOn fun d => d.mbRun 0x11 none fun d => d.mbAuth auth fun d =>
    if 64 < ids.length then d.mbEnd stRefused else (d.onTc fun t => { t with peers := ids }).mbEnd stDone

/-! Wrapping (R457). -/

/-- WRAP_OUT: a record of the public key, the ciphertext, the wrapped DWK and a signature. -/
def Dev.wrapOut (d : Dev) (peer : Signed) (ownerHash : BitVec 384) (kwk : BitVec 256) : Dev :=
  if d.tc.tripHeld || d.bit aTcStat 4 then d.mbEnd stRefused
  else if !d.verified peer then (d.mbEnd stRefused).event .agreementFailed 12 0
  else if d.tc.ownerHash ≠ some ownerHash then d.mbEnd stRefused
  else match d.tc.dwk with
    | none => d.mbEnd stRefused
    | some k =>
      let b := Config.wrapPublic d.free ++ Config.aesKwWrap kwk (bytesOf 32 k.toNat)
      { d with free := d.free + 1 }.mbEnd stDone ((b ++ Config.idkSign b).map fun (v : Byte) => v.toNat) true

def execWrapOut (peer : Signed) (ownerHash : BitVec 384) (kwk : BitVec 256) (auth : Auth) (s : State) : Answer :=
  s.nextOn fun d => d.mbRun 0x12 none fun d =>
    if d.tc.drawing then d.mbEnd stBusy else d.mbAuth auth fun d => d.wrapOut peer ownerHash kwk

/-- WRAP_IN: refused while ZEROIZE_N is low (R460), and for a record made against an earlier pair than the last drawn. -/
def Dev.wrapIn (d : Dev) (sender : Signed) (pair : Nat) (kwk : BitVec 256) (wrapped : List Byte) : Dev :=
  if d.tc.tripHeld || !d.keysServed then d.mbEnd stRefused
  else if !d.verified sender then (d.mbEnd stRefused).event .agreementFailed 12 0
  else if pair ≠ d.tc.pair then d.mbEnd stRefused
  else match Config.aesKwUnwrap kwk wrapped with
    | none => d.mbEnd stRefused
    | some b => (d.onTc fun t => { t with dwk := some (BitVec.ofNat 256 (ofBytes b)), drawing := true }).mbEnd stDone

def execWrapIn (sender : Signed) (pair : Nat) (kwk : BitVec 256) (wrapped : List Byte) (auth : Auth) (s : State) : Answer :=
  s.nextOn fun d => d.mbRun 0x13 none fun d =>
    if d.tc.drawing then d.mbEnd stBusy else d.mbAuth auth fun d => d.wrapIn sender pair kwk wrapped

def execEphemeralDrawn (s : State) : Answer := s.nextOn fun d => d.onTc fun t => if t.drawing then { t with drawing := false, pair := t.pair + 1 } else t

/-! Images (R443, R445). -/

/-- IMAGE_WRITE erases the slot of its kind that is not running; with none running, which slot is left open (log entry 3). -/
def Dev.imageWrite (d : Dev) (img : Image) : Dev :=
  let k := Fld.get ⟨8, 8⟩ d.tc.svc
  if 2 < k then d.mbEnd stRefused
  else
    let (v, d1) := d.fresh
    let r := match d.tc.runs k with | some s => (1 - s, d) | none => (v.toNat % 2, d1)
    let i := 2 * k + r.1
    (r.2.onTc fun t => { t.setSlot i {} with writing := some (i, img) }).stStatUpdate

def execImageWrite (img : Image) (s : State) : Answer :=
  s.nextOn fun d => d.mbRun 0x20 none fun d => d.imageWrite img

def execImageWriteDone (s : State) : Answer :=
  s.nextOn fun d => match d.tc.writing with
    | none => d
    | some (i, img) =>
      ((d.onTc fun t => { t.setSlot i { img := some img, trial := true } with writing := none }).storeNext).mbEnd stDone

/-- The trial slot that IMAGE_COMMIT confirms: the running one, else the other. -/
def Trust.trialSlot (t : Trust) (k : Nat) : Option Nat :=
  let is (s : Nat) : Bool := (t.slot (2 * k + s)).trial
  match t.runs k with
  | some r => if is r then some r else if is (1 - r) then some (1 - r) else none
  | none => if is 0 then some 0 else if is 1 then some 1 else none

/-- The kind is confirmed: no slot of it is a trial slot any more, and the floor rises to the image's minimum version. -/
def Trust.confirm (t : Trust) (k s : Nat) : Trust :=
  let v := t.slot (2 * k + s)
  let low := match v.img with | some m => m.minVersion.toNat | none => 0
  let t1 := t.setSlot (2 * k + (1 - s)) { t.slot (2 * k + (1 - s)) with trial := false, ran := false }
  { t1.setSlot (2 * k + s) { v with trial := false, ran := false, confirmed := t.confirms + 1 } with
    confirms := t.confirms + 1, floors := SMap.put t.floors k 0 (max (t.floor k) low) }

def Dev.imageCommit (d : Dev) : Dev :=
  let k := Fld.get ⟨8, 8⟩ d.tc.svc
  match if 2 < k then none else d.tc.trialSlot k with
  | none => d.mbEnd stRefused
  | some s => (d.onTc fun t => t.confirm k s).mbEnd stDone

def execImageCommit (auth : Auth) (s : State) : Answer :=
  s.nextOn fun d => d.mbRun 0x21 none fun d => d.mbAuth auth Dev.imageCommit

/-! ZEROIZE. -/

/-- ZEROIZE of a scope: the request completes with its run (R459, R460). -/
def Dev.zeroizeService (d : Dev) (scope : Nat) (auth : Auth) : Dev :=
  d.mbRun 0x30 (some scope) fun d => d.mbAuth auth fun d => d.zeroizeStart scope true

def execZeroizeFlows (auth : Auth) (s : State) : Answer := s.nextOn fun d => d.zeroizeService 0 auth
def execZeroizeKeys (auth : Auth) (s : State) : Answer := s.nextOn fun d => d.zeroizeService 1 auth
def execZeroizeDevice (auth : Auth) (s : State) : Answer := s.nextOn fun d => d.zeroizeService 2 auth

/-- The running zeroization completes: its scope is cleared, zdone is set and an event raised; the next one starts. -/
def Dev.zeroizeDone (d : Dev) : Dev :=
  match d.tc.zscope with
  | none => d
  | some (scope, mailbox) =>
    let d1 := d.zeroizeScope scope
    let d2 := d1.onTc fun t => { t with zscope := t.zqueue.head?, zqueue := t.zqueue.tail }
    let d3 := (((d2.setBit aTcStat 6).incFld aTcStat ⟨16, 16⟩).tcShow).event .zeroized 12 scope
    if mailbox then d3.mbEnd stDone else d3

end Sys2Proof.Machine
end

