-- ==== Sys2Proof/Machine/Drypoint.lean ====
section
/-!
DEFINITION. Drypoint (R464 to R472): the half-band stages, detectors, alarm, captures and coefficient banks; and the rows of
the performance counters (R473, R478, R480 to R482) that are no plain register writes.
-/
namespace Sys2Proof.Machine
open RegMap

/-! The chain (R465, R466). -/

def Dev.onDp (d : Dev) (g : Nat) (f : DpChain → DpChain) : Dev := d.onRegion g fun r => { r with dp := f r.dp }

def Dev.dpRunning (d : Dev) (g : Nat) : Bool := d.bit (dpBase g) 0
def Dev.dpComp (d : Dev) (g : Nat) : Nat := d.fld (dpBase g) ⟨5, 2⟩
def Dev.dpStages (d : Dev) (g : Nat) : Nat := d.fld (dpBase g) ⟨7, 4⟩

/-- What a tap of a bank holds at reset. -/
def tapReset (i : Nat) : BitVec 16 := if i = 15 then 0x4000 else 0

/-- Taps of the bank in use, as codes. -/
def Dev.dpTaps (d : Dev) (g : Nat) : List Int :=
  (List.range 31).map fun i => (SMap.get (d.region g).taps i (tapReset i)).toInt

/-- The shift of stage `j`, from 1. -/
def Dev.dpShift (d : Dev) (g j : Nat) : Nat :=
  if j ≤ 10 then d.fld (dpBase g + 4) ⟨3 * (j - 1), 3⟩ else d.fld (dpBase g + 8) ⟨3 * (j - 11), 3⟩

/-- One filter output: the sum with taps code / 32,768, shifted right with rounding, and saturated to 16 bits. -/
def firOut (h xs : List Int) (sh : Nat) : Int × Bool :=
  let v := shiftRound ((h.zip xs).foldl (fun t p => t + p.1 * p.2) 0) (15 + sh)
  let c := clampInt (-32768) 32767 v
  (c, decide (c ≠ v))

/-- One input of a stage; every second one gives an output. -/
def DpStage.step (h : List Int) (sh : Nat) (st : DpStage) (x : Int × Int) : DpStage × Option (Int × Int) × Bool :=
  let i := (x.1 :: st.i).take 31
  let q := (x.2 :: st.q).take 31
  let st1 : DpStage := ⟨i, q, !st.odd⟩
  if st.odd then
    let a := firOut h i sh
    let b := firOut h q sh
    (st1, some (a.1, b.1), a.2 || b.2)
  else (st1, none, false)

/-- One input through the stages of a list. -/
def dpThrough (h : List Int) (sh : Nat → Nat) : List Nat → SMap DpStage → Int × Int → Bool →
    SMap DpStage × Option (Int × Int) × Bool
  | [], m, x, sat => (m, some x, sat)
  | j :: js, m, x, sat =>
    let r := (SMap.get m j {}).step h (sh j) x
    let m1 := SMap.put m j {} r.1
    match r.2.1 with
    | none => (m1, none, sat || r.2.2)
    | some y => dpThrough h sh js m1 y (sat || r.2.2)

/-! The detectors (R470) and captures (R472). -/

/-- The square root of a number as an integer; how an inexact root rounds is open, so the result is a free one of the two
neighbours (log entry 36). -/
def Dev.rootOf (d : Dev) (v : Nat) : Nat × Dev :=
  let r := Nat.sqrt v
  if r * r = v then (r, d) else (r + (Config.freeValue d.free).toNat % 2, { d with free := d.free + 1 })

/-- A quotient of naturals in the same way. -/
def Dev.quotOf (d : Dev) (a b : Nat) : Nat × Dev :=
  if a % b = 0 then (a / b, d) else (a / b + (Config.freeValue d.free).toNat % 2, { d with free := d.free + 1 })

/-- The end of a window: the three results take one new seq, and the next window starts. -/
def Dev.dpWindow (d : Dev) (g : Nat) : Dev :=
  let c := (d.region g).dp
  let seq := (d.fld (dpBase g + 0x24) ⟨16, 8⟩ + 1) % 256
  let (ms, d1) := d.quotOf c.squares c.n
  let (rms, d2) := d1.rootOf ms
  let (env, d3) := d2.quotOf c.env (2 ^ c.envExp)
  let word (v : Nat) : Word := BitVec.ofNat 32 (min v 0xFFFF + 2 ^ 16 * seq + 2 ^ 24)
  (((d3.setReg (dpBase g + 0x24) (word c.peak)).setReg (dpBase g + 0x28) (word rms)).setReg (dpBase g + 0x2C) (word env)).onDp g
    fun c => { c with peak := 0, squares := 0, n := 0 }

/-- The key of a word of a chain's capture buffer. -/
def dpBufKey (g i : Nat) : Nat := g * 2 ^ 20 + i

/-- An armed capture stores an output. -/
def Dev.dpStore (d : Dev) (g : Nat) (v : Int) : Dev :=
  let k := (d.region g).dp.stored
  if d.bit (dpBase g + 0x40) 31 && decide (k < 2 ^ d.fld (dpBase g + 0x40) ⟨0, 4⟩) then
    let key := dpBufKey g (k / 2)
    let w := Fld.set ⟨16 * (k % 2), 16⟩ (codeOf 16 v) (SMap.get d.dpBuf key 0)
    { d with dpBuf := SMap.put d.dpBuf key 0 w }.onDp g fun c => { c with stored := c.stored + 1 }
  else d

/-- One chain output: |s| feeds the detectors, and I or s the capture. -/
def Dev.dpOutput (d : Dev) (g : Nat) (y : Int × Int) : Dev :=
  let complex := decide (d.dpComp g ≤ 1)
  let sq := y.1.natAbs * y.1.natAbs + if complex then y.2.natAbs * y.2.natAbs else 0
  let (mag, d1) := d.rootOf sq
  let det := d.reg (dpBase g + 0x20)
  let d2 := (d1.dpStore g y.1).onDp g fun c =>
    let k := if c.env < mag * 2 ^ c.envExp then Fld.get ⟨8, 3⟩ det else Fld.get ⟨12, 3⟩ det
    { c with env := c.env * (2 ^ k - 1) + mag * 2 ^ c.envExp, envExp := c.envExp + k, peak := max c.peak mag,
             squares := c.squares + sq, n := c.n + 1 }
  if 2 ^ Fld.get ⟨0, 5⟩ det ≤ (d2.region g).dp.n then d2.dpWindow g else d2

/-- One input sample. -/
def Dev.dpSample (d : Dev) (g : Nat) (v : Int × Int) : Dev :=
  let r := dpThrough (d.dpTaps g) (d.dpShift g) ((List.range (d.dpStages g)).map (· + 1)) (d.region g).dp.stages v false
  let d1 := d.onDp g fun c => { c with stages := r.1 }
  let d2 := if r.2.2 then d1.setBit (dpBase g + 0x34) 0 else d1
  match r.2.1 with
  | none => d2
  | some y => d2.dpOutput g y

/-- Input samples are filtered in order until `done`; those left over are kept. -/
def Dev.dpUntil (g : Nat) (done : Dev → Bool) : List (Int × Int) → Dev → Dev × List (Int × Int)
  | [], d => (d, [])
  | x :: xs, d => if done d then (d, x :: xs) else Dev.dpUntil g done xs (d.dpSample g x)

/-- The waiting input of a chain that runs in a region that is in RUN, and `zeros` samples of 0 behind it while the carrier is OFF
(R465), until `done`. -/
def Dev.dpFeed (d : Dev) (g zeros : Nat) (done : Dev → Bool) : Dev :=
  if d.dpRunning g && decide (d.fld aPwrRstat ⟨2 * g, 2⟩ = 0) then
    let off := decide (d.cState (6 * g + d.fld (dpBase g) ⟨1, 3⟩) = csOff)
    let r := Dev.dpUntil g done ((d.region g).dp.input ++ if off then List.replicate zeros (0, 0) else []) d
    r.1.onDp g fun c => { c with input := r.2 }
  else d

/-- The sequence number of the last window's results. -/
def Dev.dpSeq (d : Dev) (g : Nat) : Nat := d.fld (dpBase g + 0x24) ⟨16, 8⟩

/-- The outputs of an armed capture are all stored. -/
def Dev.dpStored (d : Dev) (g : Nat) : Bool :=
  !d.bit (dpBase g + 0x40) 31 || decide (2 ^ d.fld (dpBase g + 0x40) ⟨0, 4⟩ ≤ (d.region g).dp.stored)

/-- The input runs up to the end of the window. -/
def execDetectorWindowEnd (g : Fin 8) (zeros : Nat) (s : State) : Answer :=
  s.nextOn fun d => d.dpFeed g zeros fun e => decide (e.dpSeq g ≠ d.dpSeq g)

/-- A capture that has stored its outputs is done. -/
def execDpCaptureDone (g : Fin 8) (zeros : Nat) (s : State) : Answer :=
  s.nextOn fun d =>
    let d1 := d.dpFeed g zeros fun e => e.dpStored g
    let a := dpBase g + 0x40
    if d1.bit a 31 && d1.dpStored g then (d1.setBit a 31 false).setBit a 4 else d1

/-! The alarm (R471). -/

/-- The envelope is at or above the threshold. -/
def Dev.envHigh (d : Dev) (g : Nat) : Bool :=
  decide (d.fld (dpBase g + 0x30) ⟨0, 16⟩ * 2 ^ (d.region g).dp.envExp ≤ (d.region g).dp.env)

def Dev.ptaOn (d : Dev) (g : Nat) : Bool := d.bit (dpBase g + 0x34) 1

def execPtaEnter (g : Fin 8) (s : State) : Answer :=
  s.nextOn fun d =>
    if d.dpRunning g && d.bit (dpBase g) 11 && !d.ptaOn g && d.envHigh g then
      (((d.setBit (dpBase g + 0x34) 1).setBit (dpBase g + 0x34) 2).event .dpEvent (8 + g / 2) g).line (52 + g)
    else d

/-- The envelope has stayed below the threshold for the hold. -/
def execPtaExit (g : Fin 8) (s : State) : Answer :=
  s.nextOn fun d => if d.ptaOn g && !d.envHigh g then d.setBit (dpBase g + 0x34) 1 false else d

/-! Writes of the chain's registers (R467, R468, R471, R472). -/

/-- A write of `w` to DP_CTRL is rejected. -/
def Dev.dpCtrlBad (d : Dev) (g : Nat) (w : Word) : Bool :=
  let old := d.reg (dpBase g)
  (old.getLsbD 0 && decide (Fld.get ⟨1, 10⟩ old ≠ Fld.get ⟨1, 10⟩ w)) ||
    (w.getLsbD 11 && (decide (Fld.get ⟨5, 2⟩ w ≠ 3) || !d.bit (dpBase g + 0xC) 2))

/-- A running capture is abandoned. -/
def Dev.dpAbort (d : Dev) (g : Nat) : Dev :=
  let a := dpBase g + 0x40
  if d.bit a 31 then (d.setBit a 31 false).setBit a 5 else d

/-- The chain stops: its delay lines are cleared, the results are kept with valid at 0. -/
def Dev.dpStop (d : Dev) (g : Nat) : Dev :=
  let d1 := each [0x24, 0x28, 0x2C] (fun o d => d.setBit (dpBase g + o) 24 false) (d.dpAbort g)
  d1.onDp g fun c => { c with input := [], stages := [], peak := 0, squares := 0, n := 0 }

/-- What a DP_CTRL write does. A disabled alarm is not present. -/
def Dev.dpCtrlWritten (d : Dev) (g : Nat) (old : Word) : Dev :=
  let d1 := if old.getLsbD 0 && !d.dpRunning g then d.dpStop g else d
  if d1.bit (dpBase g) 11 then d1 else d1.setBit (dpBase g + 0x34) 1 false

/-- The inactive bank's taps are symmetric. -/
def Dev.dpSymmetric (d : Dev) (g : Nat) : Bool :=
  (List.range 31).all fun i => decide (d.reg (dpBase g + 0x100 + 4 * i) = d.reg (dpBase g + 0x100 + 4 * (30 - i)))

/-- A swap is refused. -/
def Dev.dpSwapBad (d : Dev) (g : Nat) : Bool :=
  !d.bit (dpBase g + 0x10) 0 && (!d.dpSymmetric g || d.bit (dpBase g) 11)

/-- DP_BANK.swap is set: the banks change, with their mp bits, and the samples in the delay lines stay. -/
def Dev.dpSwap (d : Dev) (g : Nat) : Dev :=
  let a := dpBase g + 0xC
  if d.dpSwapBad g then (d.setBit a 1 false).setBit a 3
  else
    let mpIn := d.bit a 2
    let mpOut := d.bit (dpBase g + 0x10) 0
    let d1 := each (List.range 31) (fun i d =>
      let use := SMap.get (d.region g).taps i (tapReset i)
      let off := (d.reg (dpBase g + 0x100 + 4 * i)).setWidth 16
      (d.onRegion g fun r => { r with taps := SMap.put r.taps i (tapReset i) off }).setReg (dpBase g + 0x100 + 4 * i)
        (use.setWidth 32)) d
    let d2 := ((d1.setBit a 0 (!d.bit a 0)).setBit a 1 false).setBit a 2 mpOut
    let d3 := (d2.setBit (dpBase g + 0x10) 0 mpIn).incFld (dpBase g + 0x34) ⟨16, 16⟩
    if d3.bit (dpBase g + 0x40) 31 then d3.setBit (dpBase g + 0x40) 6 else d3

/-- What a DP_BANK write does. -/
def Dev.dpBankWritten (d : Dev) (g : Nat) : Dev := if d.bit (dpBase g + 0xC) 1 then d.dpSwap g else d

/-- A write of `w` to DP_CAP is rejected. -/
def Dev.dpCapBad (d : Dev) (g : Nat) (w : Word) : Bool :=
  d.bit (dpBase g + 0x40) 31 || (w.getLsbD 31 && !d.dpRunning g)

/-- An armed capture starts with the next output. -/
def Dev.dpCapWritten (d : Dev) (g : Nat) : Dev :=
  if d.bit (dpBase g + 0x40) 31 then d.onDp g fun c => { c with stored := 0 } else d

/-! Transport counters (R473). -/

/-- A counter set at a second: its defect second, then the snapshot. -/
def Pm.second (p : Pm) (reported : Bool) : Pm × Pm :=
  let q := { p with defectSeconds := min (2 ^ 32 - 1) (p.defectSeconds + (p.seen || reported).toNat), seen := false }
  (q, q)

/-- Every transport counter is latched into its snapshot. -/
def Dev.pmSecond (d : Dev) : Dev :=
  let d1 := each (d.carriers.map fun e => e.1) (fun c d => d.onCarrier c fun k =>
    let r := k.pm.second k.rep.isSome; { k with pm := r.1, snap := r.2 }) d
  each (d1.flows.map fun e => e.1) (fun f d => d.onFlow f fun k =>
    let r := k.pm.second k.rep.isSome; { k with pm := r.1, snap := r.2 }) d1

def execPmSecond (s : State) : Answer := s.nextOn Dev.pmSecond

/-! Counter blocks (R480 to R482). -/

/-- Programmable counter `i` of block `b` stands at its largest value. -/
def Dev.pcFull (d : Dev) (b i : Nat) : Bool :=
  decide (SMap.get (d.pc b).cnt i 0 = (if d.pcEvenChained b i then 2 ^ 96 else 2 ^ 48) - 1)

/-- A counter at its largest value counts once more. -/
def Dev.counterOverflow (d : Dev) (b i : Nat) : Dev :=
  if d.pcFrozen b then d
  else if i = 8 then (if (d.pc b).cyc = 2 ^ 64 - 1 then d.pcCycles b 1 else d)
  else if (d.pcSel b i).getLsbD 14 && !d.pcOddChained b i && d.pcFull b i then d.pcAdd b i 1 else d

def execCounterOverflow (b : Fin 66) (i : Fin 9) (s : State) : Answer := s.nextOn fun d => d.counterOverflow b i

/-- The capture tick: a requested snapshot, clear and freeze act in that order at every block. -/
def Dev.pcGlbTick (d : Dev) : Dev :=
  let d1 := if d.bit 0x8C00 1 then each (List.range 66) (fun b d => d.pcSnap b) (d.setBit 0x8C00 1 false) else d
  let d2 := if d1.pcGlbClr then each (List.range 66) (fun b d => d.pcClear b) { d1 with pcGlbClr := false } else d1
  { d2 with pcGlbFrz := d2.bit 0x8C00 0 }

def execPcGlbTick (s : State) : Answer := s.nextOn Dev.pcGlbTick

/-- The latch of a cell for a master (R481). -/
def latchKey (m : Master) (off : Nat) : Nat := masterNo m * 256 + off

/-- A read of a counter cell at offset `off` of block `b` by master `m`, and what it latches. The LO cell of the odd counter
of a chained pair is part of the upper 64 bits, so it shows the latch. -/
def Dev.pcRead (d : Dev) (m : Master) (b off : Nat) : Word × Dev :=
  let o := if 0x80 ≤ off then off - 0x80 else off
  let i := (o - 0x10) / 8
  let hi := decide (o % 8 = 4)
  let odd := decide (0x10 ≤ o) && d.pcOddChained b i
  if hi || odd then (BitVec.ofNat 32 (SMap.get (d.pc b).latch (latchKey m off) 0), d)
  else
    let put (x : Nat) (d : Dev) : Dev :=
      d.onPc b fun p => { p with latch := SMap.put p.latch (latchKey m x) 0 (d.pcLive b x) }
    let d1 := put (off + 4) d
    let d2 := if decide (0x10 ≤ o) && d.pcEvenChained b i then put (off + 12) (put (off + 8) d1) else d1
    (BitVec.ofNat 32 (d.pcLive b off), d2)

/-- PC_GLB after a write: clr waits for the tick. -/
def Dev.pcGlbWritten (d : Dev) (w : Word) : Dev := if w.getLsbD 2 then { d with pcGlbClr := true } else d

/-- PC_CTRL after a write: clr acts at once. -/
def Dev.pcCtrlWritten (d : Dev) (b : Nat) (w : Word) : Dev := if w.getLsbD 1 then d.pcClear b else d

/-- The kind of a counter block (Table 17-4). -/
def pcKind (b : Nat) : Nat := if b < 48 then 0 else if b < 52 then 1 else if b < 56 then 2 else if b < 64 then 3 else 4

/-- The number of indices of event `evt` of block `b` (Table 17-5): 0 for an event that it does not list. -/
def evtRange (b evt : Nat) : Nat :=
  match pcKind b with
  | 0 => if evt = 5 then 4 else if (1 ≤ evt ∧ evt ≤ 0xA) ∨ ((evt = 0x10 ∨ evt = 0x11) ∧ b % 6 = 0) then 1 else 0
  | 1 => if 1 ≤ evt ∧ evt ≤ 4 then 1 else if 0x10 ≤ evt ∧ evt ≤ 0x14 then 12 else 0
  | 2 => if 1 ≤ evt ∧ evt ≤ 7 then 1 else 0
  | 3 =>
    if b = pcFramer then (if 1 ≤ evt ∧ evt ≤ 3 then 48 else 0)
    else if b = pcSwitch ∨ b = pcHost ∨ b = pcTrust then (if evt = 1 ∨ evt = 2 then 1 else 0)
    else if b = pcMatrix then (if evt = 1 then 1 else 0)
    else if b = pcLink then (if 1 ≤ evt ∧ evt ≤ 5 then 3 else 0)
    else if evt = 2 then 4 else if evt = 1 ∨ evt = 3 ∨ evt = 4 then 1 else 0
  | _ => if 1 ≤ evt ∧ evt ≤ 4 then 32 else 0

/-- A write of `w` to PC_SEL_i of block `b` is rejected (R476). -/
def pcSelBad (b i : Nat) (w : Word) : Bool :=
  let evt := Fld.get ⟨0, 8⟩ w
  let idx := Fld.get ⟨8, 6⟩ w
  (decide (evt ≠ 0) && (decide (evtRange b evt = 0) || (decide (evtRange b evt ≤ idx) && decide (idx ≠ 63)))) ||
    (w.getLsbD 17 && decide (i % 2 = 0))

/-- PC_INFO: the carrier blocks run at half the clock in low-power converter mode (R476). -/
def Dev.pcMhz (d : Dev) (b : Nat) : Nat :=
  if b < 48 && d.halfMode (b / 6) then 750 else d.fld (pcBase b + 0x78) ⟨0, 16⟩

/-- The slots of a running core in a tick of `n` cycles (R478): the code that runs is outside the model, so how the cycles fall
into the five categories is free (log entry 3). -/
def Dev.coreSlots (d : Dev) (k n : Nat) : Dev :=
  let parts := (List.range 4).foldl (fun (a : List Nat × Nat) i =>
    let v := (Config.freeValue (d.free + i)).toNat % (a.2 + 1); (a.1 ++ [v], a.2 - v)) ([], n)
  let shares := parts.1 ++ [parts.2]
  (List.range 5).foldl (fun d i => d.count (52 + k) (i + 1) 0 (shares.getD i 0) true) { d with free := d.free + 4 }

end Sys2Proof.Machine
end

