-- ==== Sys2Proof/Machine/Power.lean ====
section
/-!
DEFINITION. The power controller (chapter 18): device states, entries and wakes, region gating, pad latches, adaptive voltage,
and the board controller port.
-/
namespace Sys2Proof.Machine
open RegMap

/-! Requests (R485). -/

/-- A PWR_CTRL write is rejected, its value range apart. -/
def Dev.pwrCtrlBad (d : Dev) (m : Master) (w : Word) : Bool :=
  let req := Fld.get ⟨0, 3⟩ w
  !decide (m = .pcie ∨ m = .core 3) || d.pwrBusy ||
    (decide (2 ≤ req) && (List.range 48).any fun c => decide (d.cState c ≠ csOff)) ||
    (decide (req = 1) && decide (d.pwrState ≠ 0))

/-- A PWR_CTRL write starts a transition. -/
def Dev.pwrCtrlWritten (d : Dev) (w : Word) : Dev := d.pwrGo (Fld.get ⟨0, 3⟩ w)

/-! Gated states (R226, R234, R472, R487, R498). -/

/-- The levels of a region's SPI and I2C pads: idle, or those of the transaction that runs. SCK idles low in SPI mode 0 (R238); which
level SCK and MOSI, MOSI between transactions, or an I2C pad in use has at an instant is a free value (log entry 112). -/
def Dev.enginePads (d : Dev) (g : Nat) : EnginePads × Dev :=
  let (v, d1) := d.fresh
  let r := d.region g
  (⟨r.bus.isSome && v.getLsbD 0, v.getLsbD 1, r.bus.isNone, !r.i2c || v.getLsbD 2, !r.i2c || v.getLsbD 3⟩, d1)

/-- The pads of a region are latched, those latched already at their old values. -/
def Dev.padsLatch (d : Dev) (g : Nat) : Dev :=
  if d.bit aPwrRstat (16 + g) then d
  else
    let (e, d1) := d.enginePads g
    (d1.onRegion g fun r => { r with padHeld := some e }).setBit aPwrRstat (16 + g)

/-- PULSE_OUT0 to PULSE_OUT3 and TSTATE[2:0] are latched. -/
def Dev.timingLatch (d : Dev) : Dev :=
  if d.bit aPwrRstat 24 then d
  else (d.onPw fun p => { p with padHeld := some (d.fld aTmStat ⟨0, 3⟩, (List.range 4).map d.pulseLevel) }).setBit aPwrRstat 24

/-- A region leaves RUN and IDLE: its captures and its background run are abandoned; in CK24 pad mode its pads are latched. -/
def Dev.regionLeave (d : Dev) (g : Nat) : Dev :=
  let d1 := ((d.captureAbort g).runAbandon g).dpAbort g
  if d1.bit aPwrCfg 2 then d1.padsLatch g else d1

/-- A region comes back: its Drypoint chain restarts with cleared delay lines. -/
def Dev.regionBack (d : Dev) (g : Nat) : Dev :=
  d.onDp g fun c => { c with input := [], stages := [], peak := 0, squares := 0, n := 0 }

/-- A client lane is powered down with the package. -/
def Dev.laneSleep (d : Dev) (l : Nat) : Dev := (d.onLane l fun _ => {}).eyeAbortLane l

/-- Every port retrains after a gated state. -/
def Dev.portSleep (d : Dev) (p : Nat) : Dev := d.alignmentLost p

def Dev.setPwrState (d : Dev) (st : Nat) : Dev := d.setFld aPwrStat ⟨0, 4⟩ st

/-- Core clocks run, or stand. -/
def Dev.coreClocks (d : Dev) (on : Bool) : Dev := each (List.range 4) (fun n d => d.onCore n fun c => { c with clock := on }) d

/-- SLEEP, DEEP or OFF is entered. -/
def Dev.enterGated (d : Dev) (st : Nat) : Dev :=
  let d1 := each (List.range 8) (fun g d => if d.fld aPwrRstat ⟨2 * g, 2⟩ = 0 then d.regionLeave g else d) d
  let d2 := if d1.bit aPwrCfg 2 then d1.timingLatch else d1
  let d3 := each (List.range 3) (fun j d => d.enterIdle j) d2
  let d4 := each (List.range 64) (fun p d => d.portSleep p) (each (List.range 128) (fun l d => d.laneSleep l) d3)
  let d5 := ((d4.coreClocks false).setPwrState st).onPw fun p => { p with to_ := none, window := false, linkIdle := true }
  if st = 4 then { d5.setBit aPwrStat 7 with pwrReq := decide (d5.pw.wakeDue = some 6) }
  else match d5.pw.wakeDue with
    | none => d5
    | some src => (d5.onPw fun p => { p with wakeDue := none }).wakeNow src

/-- RUN or IDLE is entered; from DEEP the timing core resumes as after its cluster reset (R488). -/
def Dev.enterRunning (d : Dev) (st : Nat) : Dev :=
  let from_ := d.pwrState
  let ds := d.pw.dbWait
  let d1 := ((d.coreClocks (decide (st = 0))).setPwrState st).onPw fun p =>
    { p with to_ := none, window := false, linkIdle := false, dbWait := [] }
  let d2 := if from_ = 3 then d1.resetTiming else d1
  let d3 := if 2 ≤ from_ then each (List.range 8) (fun g d => d.regionBack g) d2 else d2
  each ds (fun r d =>
    if (d.ring r.1 r.2.1).en && !(d.ring r.1 r.2.1).halted then d.fetchAll r.1 r.2.1 r.2.2.1 r.2.2.2 else d) d3

/-- A transition completes; an entry only after its window. -/
def Dev.transitionDone (d : Dev) : Dev :=
  match d.pw.to_ with
  | none => d
  | some st =>
    if !d.pwrBusy then d
    else if st < 2 then d.enterRunning st
    else if d.pw.window then d.enterGated st
    else d

def execEntryWindow (s : State) : Answer :=
  s.nextOn fun d => match d.pw.to_ with
    | some st => if 2 ≤ st ∧ d.pwrBusy then d.onPw fun p => { p with window := true } else d
    | none => d

/-! Wake sources (R490, R491). -/

def execHostAccessWake (doorbell : Bool) (s : State) : Answer := s.nextOn fun d => d.wake 1 true doorbell

/-- PWR_TMR reaches 0. -/
def Dev.timerExpire (d : Dev) : Dev := (d.setReg 0x2014 0).wake 2 true true

def execWakeTimerExpiry (s : State) : Answer := s.nextOn fun d => if d.bit aPwrCfg 4 then d.timerExpire else d

def execWakeEdge (s : State) : Answer :=
  s.nextOn fun d => if d.bit aPwrCfg 3 && !d.bit aPwrCfg 1 then d.wake 3 true true else d

def execWakeLevel (s : State) : Answer :=
  s.nextOn fun d => if d.bit aPwrCfg 3 && d.bit aPwrCfg 1 then d.wake 6 false false else d

/-- EPg_HK_IN11 stands above the threshold. -/
def execLightDetect (g : Fin 8) (level : BitVec 16) (s : State) : Answer :=
  s.nextOn fun d =>
    if d.bit aPwrCfg (16 + g) && decide (d.fld 0x201C ⟨0, 16⟩ < level.toNat) then d.wake 4 false false else d

def execLinkSignalWake (j : Fin 3) (s : State) : Answer :=
  s.nextOn fun d => if d.bit aPwrCfg 5 && decide (d.lState j = lsIdle) then d.wake 5 false false else d

/-- A WAKE in OFF, or while the board still removes supplies (R567). -/
def execOffWake (s : State) : Answer :=
  s.nextOn fun d => if d.boot = .off ∨ d.pwrState = 4 then { d with pwrReq := true } else d

/-! Region gating (R495, R496). -/

def Dev.regState (d : Dev) (g : Nat) : Nat := d.fld aPwrRstat ⟨2 * g, 2⟩
def Dev.setRegState (d : Dev) (g st : Nat) : Dev := d.setFld aPwrRstat ⟨2 * g, 2⟩ st
def Dev.regGate (d : Dev) (g : Nat) : Nat := d.fld 0x200C ⟨2 * g, 2⟩

/-- A PWR_REG write is rejected: it gates a region that has a carrier not OFF. -/
def Dev.pwrRegBad (d : Dev) (w : Word) : Bool :=
  (List.range 8).any fun g => decide (Fld.get ⟨2 * g, 2⟩ w ≠ 0) && !d.regionOff g

/-- A region enters SLEEP or DEEP. -/
def Dev.regionGo (d : Dev) (g st : Nat) : Dev := (if d.regState g = 0 then d.regionLeave g else d).setRegState g st

/-- What a PWR_REG write does to each region. -/
def Dev.pwrRegWritten (d : Dev) : Dev :=
  each (List.range 8) (fun g d =>
    if d.regGate g = 0 then (if d.regState g = 1 ∨ d.regState g = 2 then d.setRegState g 3 else d)
    else if d.regState g = d.regGate g then d
    else d.regionGo g (d.regGate g)) d

/-- An access wakes a gated region. -/
def Dev.regionWake (d : Dev) (g : Nat) : Dev := if d.regState g = 1 ∨ d.regState g = 2 then d.setRegState g 3 else d

/-- A woken region is ready. -/
def Dev.regionReady (d : Dev) (g : Nat) : Dev := if d.regState g = 3 then (d.setRegState g 0).regionBack g else d

/-- The linger has passed: a region woken by access returns to its gated state, unless a carrier of it has been started
meanwhile. -/
def execLingerExpiry (g : Fin 8) (s : State) : Answer :=
  s.nextOn fun d =>
    if d.regGate g ≠ 0 ∧ d.regState g = 0 ∧ d.regionOff g then d.regionGo g (d.regGate g) else d

/-- R499. -/
def Dev.pwrCfgBad (d : Dev) (w : Word) : Bool :=
  decide (w.getLsbD 2 ≠ d.bit aPwrCfg 2) && decide (d.fld aPwrRstat ⟨0, 16⟩ ≠ 0)

/-- A PAD_RELEASE write (R498). -/
def Dev.padReleaseWritten (d : Dev) (w : Word) : Dev :=
  let d1 := d.setFld aPwrRstat ⟨16, 9⟩ (d.fld aPwrRstat ⟨16, 9⟩ &&& (511 - Fld.get ⟨0, 9⟩ w))
  let d2 := each ((List.range 8).filter fun g => w.getLsbD g) (fun g d => d.onRegion g fun r => { r with padHeld := none }) d1
  if w.getLsbD 8 then d2.onPw fun p => { p with padHeld := none } else d2

/-! Pads (R497, R498, R571, Table 22-8). -/

/-- The boundary signals of Table 22-8. -/
inductive Pad where
  | txen (c : Fin 48)
  | sck (g : Fin 8) | mosi (g : Fin 8) | csN (g : Fin 8)
  | scl (g : Fin 8) | sda (g : Fin 8)
  | dac (c : Fin 48)
  | adc (c : Fin 48)
  | clientLane (l : Fin 128)
  | linkLane (i : Fin 24)
  | pulse (n : Fin 4)
  | sysclk (n : Fin 2)
  | tstate
  | bridge (die : Fin 16)
  deriving DecidableEq, Repr

/-- What drives a signal: its domain, a level or code, or what Table 22-8 names. -/
inductive Drive where
  | domain
  | level (v : Bool)
  | code (n : Nat)
  | clock (hz : Nat)
  | released
  | undriven
  | zeroHeld
  | highZ
  | termKept
  | termOpen
  | electricalIdle
  | running
  | noSignal
  deriving DecidableEq, Repr

/-- Table 22-8, for SLEEP (2), DEEP (3) and OFF (4). -/
def clampValue (st : Nat) : Pad → Drive
  | .txen _ => .level false
  | .sck _ | .mosi _ => if st = 4 then .undriven else .level false
  | .csN _ => if st = 4 then .undriven else .level true
  | .scl _ | .sda _ => if st = 4 then .undriven else .released
  | .dac _ => if st = 2 then .zeroHeld else if st = 3 then .highZ else .undriven
  | .adc _ => if st = 2 then .termKept else .termOpen
  | .clientLane _ | .linkLane _ => if st = 4 then .undriven else .electricalIdle
  | .pulse _ | .sysclk _ => if st = 2 then .running else if st = 3 then .level false else .undriven
  | .tstate => if st = 2 then .running else if st = 3 then .code 3 else .undriven
  | .bridge _ => if st = 4 then .noSignal else .level false

/-- The region in whose domain a signal lies, if it lies in one. -/
def padRegion : Pad → Option Nat
  | .txen c | .dac c | .adc c => some (c / 6)
  | .sck g | .mosi g | .csN g | .scl g | .sda g => some g
  | .bridge x => if x.val < 8 then some x else none
  | _ => none

/-- The gated state of the domain of a signal: of the device, else of its region, which is ready only once it reads RUN. -/
def Dev.padGate (d : Dev) (p : Pad) : Option Nat :=
  if d.boot = .off ∨ d.pwrState = 4 then some 4
  else if 2 ≤ d.pwrState then some d.pwrState
  else match padRegion p with
    | some g =>
      let st := d.regState g
      if st = 0 then none else if st = 3 then some (1 + d.regGate g) else some (1 + st)
    | none => none

/-- The value at which a latched pad is held (R498). -/
def Dev.padLatched (d : Dev) (p : Pad) : Option Drive :=
  let engine (g : Nat) (f : EnginePads → Bool) := (d.region g).padHeld.map fun e => Drive.level (f e)
  match p with
  | .txen c => if (d.region (c / 6)).padHeld.isSome then some (.level (d.carrier c).txen) else none
  | .sck g => engine g EnginePads.sck
  | .mosi g => engine g EnginePads.mosi
  | .csN g => engine g EnginePads.csN
  | .scl g => engine g EnginePads.scl
  | .sda g => engine g EnginePads.sda
  | .pulse n => d.pw.padHeld.map fun h => Drive.level (h.2.getD n false)
  | .tstate => d.pw.padHeld.map fun h => Drive.code h.1
  | _ => none

/-- What the domain of a signal drives it with, where the registers say it: transmit enable, the timing outputs and the timing
state (R244, R350, R352, R354). -/
def Dev.domainDrive (d : Dev) : Pad → Drive
  | .txen c => .level (d.carrier c).txen
  | .pulse n => .level (d.pulseLevel n)
  | .sysclk n => .clock (d.sysclkHz n)
  | .tstate => .code (d.fld aTmStat ⟨0, 3⟩)
  | _ => .domain

/-- What drives a boundary signal: its latch in CK24 pad mode, its clamp while its domain is gated, else its domain. Only OFF
overrides a latch. -/
def Dev.padDrive (d : Dev) (p : Pad) : Drive :=
  match d.padGate p, d.padLatched p with
  | some 4, _ => clampValue 4 p
  | _, some v => v
  | some st, none => if clampValue st p = .running then d.domainDrive p else clampValue st p
  | none, none => d.domainDrive p

/-! Adaptive voltage (R500 to R503). -/

def aAvsRail (n : Nat) : Nat := 0x2030 + 4 * n
def aAvsVout (n : Nat) : Nat := 0x2050 + 4 * n

/-- vmax of a rail is below vmin. -/
def avsRailBad (w : Word) : Bool := decide (Fld.get ⟨19, 11⟩ w < Fld.get ⟨8, 11⟩ w)

/-- The voltage last commanded, or the 0.85 V at which a regulator starts (R564). -/
def Dev.railNow (d : Dev) (n : Nat) : Nat := SMap.get d.pw.vout n 850

/-- VOUT_COMMAND is written, in ULINEAR16 with exponent −12 (R500); how an inexact code rounds is free (log entry 36). -/
def Dev.voutCommand (d : Dev) (n mv : Nat) : Dev :=
  let r := d.reg (aAvsRail n)
  let (code, d1) := d.quotOf (mv * 4096) 1000
  ((d1.emit (.pmbus n (Fld.get ⟨0, 7⟩ r) (d.bit 0x2020 1) code)).setFld (aAvsVout n) ⟨11, 11⟩ mv).onPw fun p =>
    { p with vout := SMap.put p.vout n 850 mv }

/-- A step may be made: adaptive voltage is on, the rail in use and at rest, the target within its limits, and a lowering at
most 10 mV and 10 ms after the last one. -/
def Dev.avsAllowed (d : Dev) (n target : Nat) : Bool :=
  let r := d.reg (aAvsRail n)
  let now := d.railNow n
  d.bit 0x2020 0 && r.getLsbD 7 && !d.pw.steps.any (fun e => decide (e.1 = n)) &&
    decide (Fld.get ⟨8, 11⟩ r ≤ target ∧ target ≤ Fld.get ⟨19, 11⟩ r) &&
    (decide (now ≤ target) ||
      (decide (now ≤ target + 10) &&
        (match SMap.get d.pw.lowered n 0 with | 0 => true | t + 1 => decide (t + 10000000 ≤ d.time))))

def Dev.avsStep (d : Dev) (n target : Nat) : Dev :=
  if d.avsAllowed n target then
    let now := d.railNow n
    let raise := decide (now ≤ target)
    (d.voutCommand n target).onPw fun p =>
      { p with steps := SMap.put p.steps n ⟨0, 0, false, false⟩ ⟨now, target, raise, false⟩,
               lowered := if raise then p.lowered else SMap.put p.lowered n 0 (d.time + 1) }
  else d

def execAvsStep (n : Fin 8) (target : Nat) (s : State) : Answer := s.nextOn fun d => d.avsStep n target

/-- A step ends; once none runs, a state request or wake that waited takes effect. -/
def Dev.stepEnd (d : Dev) (n : Nat) : Dev :=
  let d1 := d.onPw fun p => { p with steps := SMap.erase p.steps n }
  if d1.pw.steps = [] then
    (match d1.pw.after with
     | some st => d1.onPw fun p => { p with after := none, to_ := some st }
     | none => d1)
  else d1

/-- The step that runs on a rail. -/
def Dev.stepOf (d : Dev) (n : Nat) : Option AvsStep := (d.pw.steps.find? fun e => decide (e.1 = n)).map fun e => e.2

/-- READ_VOUT reads `code` in ULINEAR16: the reading lies within ±5 mV of `mv` (R502). -/
def voutNear (mv : Nat) (code : BitVec 16) : Bool :=
  decide (code.toNat * 1000 ≤ (mv + 5) * 4096 ∧ mv * 4096 ≤ code.toNat * 1000 + 5 * 4096)

def execReadVoutPoll (n : Fin 8) (code : BitVec 16) (s : State) : Answer :=
  s.nextOn fun d =>
    let (mv, d0) := d.quotOf (code.toNat * 1000) 4096
    let d1 := d0.setFld (aAvsVout n) ⟨0, 11⟩ (min mv 2047)
    match d1.stepOf n with
    | none => d1
    | some t => if voutNear t.target code then d1.stepEnd n else d1

/-- A failed step: a lowering falls back, a raise is sent once more and then raises source 13 of the hub die. -/
def State.avsFail (s : State) (n : Nat) : State :=
  match s.dev.stepOf n with
  | none => s
  | some t =>
    if !t.raise then
      s.on fun d => (((d.voutCommand n t.prev).setBit aPwrStat 6).event .avsFallback 12 n).stepEnd n
    else if !t.again then
      s.on fun d => (d.voutCommand n t.target).onPw fun p =>
        { p with steps := SMap.put p.steps n ⟨0, 0, false, false⟩ { t with again := true } }
    else (s.on fun d => d.stepEnd n).fault 12 13

def execAvsStepTimeout (n : Fin 8) (s : State) : Answer := .next (s.avsFail n)

/-! The board controller port (R505 to R509). -/

/-- BC_DEV. -/
def Dev.bcDev (d : Dev) : Word :=
  BitVec.ofNat 32 (d.safe.toNat + 2 * (decide (d.boot = .recovery)).toNat + 4 * (d.bit aRstStat 0).toNat +
    8 * d.faultLow.toNat + 16 * d.tc.zLow.toNat)

/-- A register of the port (Table 18-7). -/
def Dev.bcReg (d : Dev) (a : Nat) : Word :=
  if a = 0 then 0x00B14830#32
  else if a = 1 then d.reg aPwrStat
  else if a = 2 then d.bcDev
  else if a = 3 then d.reg aRstStat
  else if 0x10 ≤ a ∧ a < 0x20 then d.reg (0x40 + 4 * (a - 0x10))
  else if 0x20 ≤ a ∧ a < 0x40 then d.reg (0x3000 + 4 * (a - 0x20))
  else if a = 0x40 ∨ a = 0x41 then SMap.get d.bcRegs a 0
  else 0

def Dev.setBc (d : Dev) (a : Nat) (w : Word) : Dev := { d with bcRegs := SMap.put d.bcRegs a 0 w }

/-- One more in a half of BC_ERR. -/
def Dev.bcErr (d : Dev) (f : Fld) : Dev :=
  let w := SMap.get d.bcRegs 0x41 0
  d.setBc 0x41 (f.set (satInc 0xFFFF (f.get w)) w)

def Dev.bcWritten (d : Dev) (a : Nat) (w : Word) : Dev :=
  if a = 0x40 then d.setBc a w
  else if a = 0x42 then (if w.getLsbD 0 then d.setBc 0x41 0 else d)
  else d.bcErr ⟨16, 16⟩

/-- TEMP_x is read: the highest sensor of the die is a free value (log entry 3); of a die that is lost or in DEEP or OFF the last
valid reading stays, with valid at 0 (R551). -/
def Dev.tempRead (d : Dev) (x : Nat) : Dev :=
  let a := 0x40 + 4 * x
  if (d.die x).lost || decide (3 ≤ d.pwrState) || (decide (x < 8) && decide (d.regState x = 2)) then d.setBit a 16 false
  else let (v, d1) := d.fresh; d1.setReg a (BitVec.ofNat 32 (v.toNat % 2 ^ 16 + 2 ^ 16))

/-- What BC_MISO carries in a transaction (Table 18-6): a read's data from its 33rd clock on and 0 beyond the 64th; of other commands
the table gives the first 24 clocks. -/
def bcMiso (fr : BcFrame) (w : Word) : List Bool :=
  let head := ((List.range 8).map fun i => (0x5A#8).getLsbD (7 - i)) ++ List.replicate 16 false
  let tail := List.replicate 8 false ++ ((List.range 32).map fun i => w.getLsbD (31 - i)) ++ List.replicate (fr.clocks - 64) false
  (head ++ if fr.cmd = 0x0B then tail else []).take fr.clocks

/-- A transaction ends as BC_CS_N rises. -/
def Dev.bcTransaction (d : Dev) (fr : BcFrame) : Dev :=
  if !d.bcUp || decide (d.boot = .off) then d
  else if fr.cmd = 0x0B then
    let a := fr.addr.toNat
    let d0 := if 0x10 ≤ a ∧ a < 0x20 then d.tempRead (a - 0x10) else d
    let d1 := d0.emit (.bc (bcMiso fr (d0.bcReg a)))
    if fr.clocks = 64 then d1 else d1.bcErr ⟨0, 16⟩
  else
    let d1 := d.emit (.bc (bcMiso fr 0))
    if fr.cmd = 0x02 ∧ fr.clocks = 56 then d1.bcWritten fr.addr.toNat fr.data else d1.bcErr ⟨0, 16⟩

def execBcRead (fr : BcFrame) (s : State) : Answer := s.nextOn fun d => d.bcTransaction fr
def execBcWrite (fr : BcFrame) (s : State) : Answer := s.nextOn fun d => d.bcTransaction fr

end Sys2Proof.Machine
end

