-- ==== Sys2Proof/Machine/FaultRows.lean ====
section
/-!
DEFINITION. The rows of faults and memory protection (chapter 19): assertions and clears of fault sources, memory errors with
the resets of Table 19-3, the hub datapath reset, the loss of dies (R12, Table 1-2) and bridge timeouts (R22).
-/
namespace Sys2Proof.Machine
open RegMap

/-! Sources (R511, R516, R519). -/

/-- The error line of a source asserts once. -/
def execFaultAssert (x : Fin 16) (i : Fin 64) (s : State) : Answer := .next (s.fault x i)

/-- The collector's clock is lost: ALIVE stops, at an undefined level. -/
def execCollectorClockLoss (s : State) : Answer :=
  s.nextOn fun d => { d with alive := if d.alive = .wave then .undefined else d.alive }

/-- The frequency of ALIVE in Hz while it toggles. -/
def Dev.aliveHz (d : Dev) : Option Nat := if d.alive = .wave then some (d.fld 0x3380 ⟨0, 14⟩) else none

/-! Memory errors (R522, R523, R525). -/

def aFcEcc (x : Nat) : Nat := 0x3400 + 4 * x

/-- A corrected error is counted on its die and raises source 4. -/
def execCorrectedError (x : Fin 16) (s : State) : Answer := .next ((s.on fun d => d.satFld (aFcEcc x) ⟨0, 16⟩).fault x 4)

/-- Core 3 is reset; it starts the newest bootable O image, or is held in reset without one (R424, R444, R445). -/
def Dev.core3Reset (d : Dev) : Dev :=
  let d1 := ((d.coreReset 3).onTc fun t => t.start 2).tcShow
  if (d1.tc.runs 2).isSome && !d1.core3Bad then d1 else d1.onCore 3 fun c => { c with running := false }

/-- The die a memory lies on (Table 14-9 numbers). -/
def Dev.memDie (d : Dev) : MemRef → Nat
  | .carrier c => 8 + c / 12
  | .decoderUnit m _ | .poolBuffer m => 8 + m
  | .drypoint g => 8 + g / 2
  | .capture g => g
  | .client p => 13 + d.fld (aPortMap p) ⟨3, 7⟩ / 64
  | _ => 12

/-- The reset of Table 19-3 for a memory. -/
def State.memReset (s : State) (m : MemRef) : State :=
  match m with
  | .carrier c => s.clusterReset (.carrier c)
  | .decoderUnit m u => s.unitRetire m u
  | .poolBuffer m => s.clusterReset (.pool m)
  | .drypoint g => s.on fun d => d.dpClear g
  | .capture g => s.on fun d => d.captureAbort g
  | .framer | .connection => s.hubDatapathReset
  | .context f => s.hubDatapathReset.on fun d => d.zeroizeFlow f
  | .client p => s.on fun d => if d.portEn p then d.portRetrain p else d
  | .glanorRam _ => s.on fun d => ((d.coreReset 0).coreReset 1).coreReset 2
  | .core3Instr => s.on fun d => d.core3Reset
  | .core3Data a => s.on fun d =>
    { d with mem := Mem.zeroWord d.mem (3 * 2 ^ 32 + a.toNat / 4 * 4) }.core3Reset
  | .trustRam | .keyVault => s.on fun d => (d.zeroizeStart 1 false).trustError
  | .ringEngine e => s.on fun d => d.engineReset e
  | .linkAgent => s.on fun d => d.linkAgentReset

/-- The figures of the FAULT record of source 3: bytes 24 to 27 hold the core address of a word of core 3's data RAM. -/
def memData : MemRef → List Nat
  | .core3Data a => [a.toNat / 4 * 4]
  | _ => []

/-- An uncorrectable error is counted, raises source 3 and resets its scope at once. -/
def execUncorrectableError (mem : MemRef) (s : State) : Answer :=
  let x := s.dev.memDie mem
  .next (((s.on fun d => d.satFld (aFcEcc x) ⟨16, 16⟩).fault x 3 (memData mem)).memReset mem)

/-! The hub datapath reset ends (R524). -/

def hubClusters : List Cluster := [.framer, .switch, .cipher 0, .cipher 1]

def execHubDatapathResetEnd (s : State) : Answer :=
  .next (s.onWithSsf fun d =>
    if d.hubReset then
      each hubClusters (fun k d => d.onCluster (clusterCode k) fun q => { q with reset := false }) d
    else d)

/-! Bridges and dies (R12, R22, R572). -/

/-- The transfer that times out on bridge `b` is the retry of one that timed out: a retry follows its first timeout at once, so
its own timeout comes 10 µs after it, and that of any later transfer comes later still (log entry 97). -/
def Dev.bridgeRetried (d : Dev) (b : Nat) : Bool :=
  let t := SMap.get d.bridgeRetry b 0
  decide (t ≠ 0) && decide (d.time < t + 10000)

/-- A bridge transfer from die `x` to die `y` times out: it is retried once, and a second timeout raises source 0 of both. A
transfer of neighbour samples that is lost so is counted at its carrier (R323). -/
def State.bridgeTimeout (s : State) (x y : Nat) (neighbourOf : Option (Fin 48)) : State :=
  let b := 16 * x + y
  if !s.dev.bridgeRetried b then s.on fun d => { d with bridgeRetry := SMap.put d.bridgeRetry b 0 (d.time + 1) }
  else
    let s1 := s.on fun d =>
      let d1 := { d with bridgeRetry := SMap.erase d.bridgeRetry b }
      match neighbourOf with | some c => d1.count c 7 0 1 | none => d1
    (s1.fault x 0).fault y 0

def execBridgeTimeout (x y : Fin 16) (neighbourOf : Option (Fin 48)) (s : State) : Answer :=
  .next (s.bridgeTimeout x y neighbourOf)

/-- The carriers lost with a die (Table 1-2). -/
def lostCarriers (x : Nat) : List (Fin 48) :=
  (List.finRange 48).filter fun c => if x < 8 then decide (c.val / 6 = x) else decide (x = 8 + c.val / 12)

/-- A lost carrier: its converters or its modem are gone, its light with them, and the receive side has no light. -/
def Dev.carrierLost (d : Dev) (c : Nat) : Dev :=
  let d1 := ((d.loliEnter c).modemsClear c).onCarrier c fun k => { k with txen := false, level := 0 }
  if d1.cState c = csOff then d1 else d1.setCState c csDark

/-- The lanes and ports of client die `x` are lost; the mapped streams of those ports are replaced (R59, Table 1-2). -/
def Dev.clientDieLost (d : Dev) (x : Nat) : Dev :=
  let d1 := each ((List.range 128).filter fun l => decide (13 + l / 64 = x)) (fun l d => (d.onLane l fun _ => {}).eyeAbortLane l) d
  each ((List.range 64).filter fun p => d1.portEn p && d1.portLost p) (fun p d => d.alignmentLost p) d1

/-- A die is lost (Table 1-2). -/
def State.dieLost (s : State) (x : Nat) : State :=
  let s1 := s.onWithSsf fun d =>
    let d1 := (d.onDie x fun q => { q with lost := true }).event .dieLost x x
    let d2 := each (lostCarriers x) (fun c d => d.carrierLost c) d1
    if x = 13 ∨ x = 14 then d2.clientDieLost x else d2
  let s2 := if 8 ≤ x ∧ x < 12 then s1.onPool (x - 8) fun _ => {} else s1
  if x = 12 ∨ x = 15 then s2.on fun d => d.enterSafe else s2

/-- A die gated by its region or by the device state is not lost (R572). -/
def Dev.dieGated (d : Dev) (x : Nat) : Bool :=
  decide (2 ≤ d.pwrState) || (decide (x < 8) && decide (d.regState x ≠ 0))

/-- No credit on any bridge to the hub die for 10 µs. The loss of the hub die sets no source. -/
def execDieLossByCredit (x : Fin 16) (s : State) : Answer :=
  .next (if s.dev.dieGated x || (s.dev.die x).lost then s
    else if x.val = 12 then s.dieLost 12
    else ((s.dieLost x).fault x 0).fault 12 0)

/-- The always-on island of a die reports loss of supply. -/
def execDieLossBySupply (x : Fin 16) (s : State) : Answer :=
  .next (if (s.dev.die x).lost then s else if x.val = 12 then s.dieLost 12 else (s.dieLost x).fault x 1)

end Sys2Proof.Machine
end

