-- ==== Sys2Proof/Machine/Startup.lean ====
section
/-!
DEFINITION. Start-up and reset (chapter 20): power-on and device resets with what each keeps, the boot sequence with Proof
failures and the choice of images, and the end of a zeroization, which a device reset may wait for (R541).
-/
namespace Sys2Proof.Machine
open RegMap

/-! What a reset keeps (Table 20-3). -/

/-- What the trust core holds in OTP and in the store die, and the level of ZEROIZE_N. A running image write leaves its slot
not bootable (R445). -/
def Trust.kept (t : Trust) : Trust :=
  { dwk := t.dwk, ownerHash := t.ownerHash, peers := t.peers, counter := t.counter, slots := t.slots, floors := t.floors,
    zLow := t.zLow, provisioned := t.provisioned, approved := t.approved, confirms := t.confirms }

/-- The calibration slots; a running store leaves its slot invalid (R534). -/
def Burnish.kept (b : Burnish) : Burnish := { slotA := b.slotA, slotB := b.slotB }

/-- The machine after supplies have risen: nothing is kept but OTP, the store die, and the model's own fields. -/
def State.powerOn (s : State) : State :=
  { pending := s.pending,
    dev := Dev.tcShow { tc := s.dev.tc.kept, bn := s.dev.bn.kept, free := s.dev.free, out := s.dev.out,
                        numVfs := s.dev.numVfs } }

/-- Everything returns to its reset value, RST_STAT included; RESET_N is low. -/
def execPowerOnReset (s : State) : Answer := .next s.powerOn

/-- The board removes every supply except VWAKE, once offrdy reads 1. -/
def execSuppliesRemoved (s : State) : Answer :=
  .next (if s.dev.bit aPwrStat 7 then
    s.powerOn.on fun d => { d with boot := .off, pwrReq := s.dev.pwrReq } else s)

/-! Device reset (R252, R539 to R542). -/

/-- Registers of the always-on islands and others that a device reset keeps: the epoch, RST_STAT, the fault status words with
their suppressions, and the power controller's, apart from the device state, the gates and AVS_CTRL. -/
def keptRegs (m : SMap Word) : SMap Word :=
  m.filter fun e =>
    decide (e.1 = aEpoch ∨ e.1 = aRstStat ∨ (0x3000 ≤ e.1 ∧ e.1 < 0x3080) ∨ (0x3300 ≤ e.1 ∧ e.1 < 0x3380) ∨
      (0x2004 ≤ e.1 ∧ e.1 < 0x2070 ∧ e.1 ≠ 0x200C ∧ e.1 ≠ 0x2020))

/-- A carrier whose enable is released by the ramp of R252, which keeps the depth and the address in force; a dark one is OFF at
once. -/
def Dev.resetRamp (d : Dev) (c : Nat) : Option Carrier :=
  let k := d.carrier c
  if k.txen then
    some { txen := true, level := k.level, why := .reset, island := some (k.island.getD (d.rampDepth c, d.profAddr c 4)) }
  else none

/-- The carriers that ramp down. -/
def Dev.rampingCarriers (d : Dev) : SMap Carrier :=
  d.carriers.filterMap fun e => match d.resetRamp e.1 with | some k => some (e.1, k) | none => none

/-- The rails in use are set to vmax when a voltage step ran. -/
def Dev.railsUp (d : Dev) (stepping : Bool) : Dev :=
  if stepping then each ((List.range 8).filter fun n => d.bit (aAvsRail n) 7)
    (fun n d => d.voutCommand n (d.fld (aAvsRail n) ⟨19, 11⟩)) d
  else d

/-- A device reset; `pin`: RESET_N ordered it. -/
def State.deviceReset (s : State) (pin : Bool) : State :=
  let o := s.dev
  let d : Dev :=
    { regs := keptRegs o.regs, carriers := o.rampingCarriers, tc := o.tc.kept, bn := o.bn.kept, free := o.free,
      out := o.out, numVfs := o.numVfs, mem := o.mem.filter (fun e => decide (3 * 2 ^ 32 + 0x10000000 ≤ e.1)),
      pw := { vout := o.pw.vout }, bcUp := o.bcUp, bcRegs := o.bcRegs, resetLow := o.resetLow, proof := o.proof }
  let d1 := (d.setFld aPwrStat ⟨0, 4⟩ 0).setFld aPwrRstat ⟨0, 16⟩ 0
  let d2 := ((d1.setBit aPwrStat 7 false).setBit aRstStat 0 false).incFld aRstStat ⟨16, 16⟩
  let d3 := (d2.setBit aRstStat (if pin then 2 else 3)).tcShow
  { pending := s.pending, dev := d3.railsUp (decide (o.pw.steps ≠ [])) }

/-! The boot sequence (R535 to R538, Table 20-1). -/

/-- The die of a part that Proof tests. -/
def partDie : ProofPart → Nat
  | .unit (.decoder m _) => 8 + m
  | .unit (.lane _) => 12
  | .unit (.bin c _) => 8 + c / 12
  | .slice c _ _ => c / 6
  | .carrierMem c => 8 + c / 12
  | .core3Mem | .hubMem => 12
  | .storeMem => 15

/-- A Proof failure: source 5 of its die, and the consequence of Table 20-2. -/
def State.proofFail (s : State) (p : ProofPart) : State :=
  let s1 := s.fault (partDie p) 5
  match p with
  | .unit u => s1.fence u
  | .slice c adc i => s1.on fun d => d.onCarrier c fun k =>
    let bad := (adc.val, i.val) :: k.badSlices.filter fun e => e ≠ (adc.val, i.val)
    { k with badSlices := bad,
             slicesBad := k.slicesBad || decide (2 ≤ (bad.filter fun e => e.1 = adc.val).length) }
  | .carrierMem c => s1.on fun d => d.onCarrier c fun k => { k with badMem := true }
  | .core3Mem => s1.on fun d => { d with core3Bad := true }
  | .hubMem | .storeMem => s1.on fun d => d.enterSafe

/-- The device wrapping key is generated anew when a provisioned device has lost it to a trip or a zeroization (R461). -/
def Dev.dwkBoot (d : Dev) : Dev :=
  if d.tc.provisioned && d.tc.dwk.isNone then
    let (k, d1) := d.freshKey
    d1.onTc fun t => { t with dwk := some k }
  else d

/-- The factors of a region as a record brings them: those of a slice were measured at the temperature of the last run, those of
a DAC at that of the last full self-calibration (log entry 111). -/
def recordFactors (tref : Word) (m : SMap (List Int)) : SMap (List Factor) :=
  m.map fun e => (e.1, e.2.map fun v => ⟨v, if e.1 < 1560 then tref.setWidth 16 else (tref >>> 16).setWidth 16⟩)

/-- The calibration record in force: the newest slot whose CRC-32 passes, or the factory record with its reference temperatures
(R534). -/
def Dev.calLoad (d : Dev) : Dev :=
  let d1 := { d with bn := { d.bn with slotA := d.bn.slotA.filter CalRec.passes, slotB := d.bn.slotB.filter CalRec.passes } }.bnSlotUpdate
  match d1.bn.newest with
  | some (_, r) =>
    (each (List.range 8) (fun g d => (d.setReg (aBnTref g) (r.tref.getD g 0)).onRegion g fun q =>
      { q with factors := recordFactors (r.tref.getD g 0) (r.factors.getD g []) }) d1).setFld aBnStat ⟨8, 8⟩ r.fact
  | none =>
    (each (List.range 8) (fun g d => (d.setReg (aBnTref g) (Config.factoryTref g)).onRegion g fun q => { q with factors := [] })
      d1).setFld aBnStat ⟨8, 8⟩ 0xFF

/-- Cores 0 to 2 start with G, core 3 with O. -/
def Dev.coresStart (d : Dev) : Dev :=
  let d1 := each (List.range 3) (fun n d => d.onCore n fun c => { c with running := true }) d
  d1.core3Reset

/-- The boot sequence as far as it can stop: Proof, T with its known-answer tests, G and O. -/
def State.bootSequence (s : State) (failed : List ProofPart) (katFail : Bool) : State :=
  let s1 := each failed (fun p s => s.proofFail p) (s.on fun d => { d with boot := .running, bcUp := true, proof := failed })
  s1.on fun d =>
    let d1 := (d.onTc fun t => { t.start 0 with drawing := true }).tcShow
    if (d1.tc.runs 0).isNone then { d1 with boot := .recovery }
    else
      let d2 := if katFail then d1.trustError else d1.dwkBoot
      let d3 := (d2.onTc fun t => t.start 1).tcShow
      if (d3.tc.runs 1).isNone then { d3 with boot := .recovery } else d3.coresStart.calLoad

/-- An accepted rising edge of RESET_N; in OFF it has no effect, and a device reset that waits for a zeroization comes first. -/
def execResetNRise (failed : List ProofPart) (katFail : Bool) (s : State) : Answer :=
  .next (if s.dev.boot = .off ∨ !s.dev.resetLow then s
    else
      let s1 := s.on fun d => { d with resetLow := false }
      if s1.dev.boot = .held then s1.bootSequence failed katFail else s1)

/-- The boot sequence ends. -/
def execBootComplete (s : State) : Answer :=
  s.nextOn fun d =>
    if d.boot = .running then
      { (d.setBit aRstStat 0) with boot := .ready, readyDue := true, alive := if d.safe then .still else .wave }
    else d

/-! The orders (R541). -/

/-- A device reset, and the boot that follows it while RESET_N is high. -/
def State.resetNow (s : State) (pin : Bool) : State :=
  let s1 := s.deviceReset pin
  if s1.dev.resetLow then s1 else s1.bootSequence s.dev.proof false

/-- A device reset is ordered: at once, or once a running zeroization has completed. -/
def State.resetOrder (s : State) (pin : Bool) : State :=
  if s.dev.tc.zscope.isSome then
    s.on fun d => d.onTc fun t => { t with resetAfter := some (t.resetAfter.getD pin) }
  else s.resetNow pin

/-- RESET_N falls; in OFF, and while it is low already, nothing happens. -/
def execResetNFall (s : State) : Answer :=
  .next (if s.dev.boot = .off ∨ s.dev.resetLow then s else (s.on fun d => { d with resetLow := true }).resetOrder true)

/-- A zeroization completes; a device reset that waits for it follows. -/
def State.zeroizationDone (s : State) : State :=
  let s1 := s.on Dev.zeroizeDone
  match s1.dev.tc.resetAfter with
  | some pin => if s1.dev.tc.zscope.isNone then s1.resetNow pin else s1
  | none => s1

def execZeroizationDone (s : State) : Answer := .next s.zeroizationDone

/-! RST_CTRL (R543). -/

/-- A write of RST_CTRL is rejected: its master is neither the PCIe port nor core 3, or it sets more than one field. -/
def rstCtrlBad (m : Master) (w : Word) : Bool :=
  !decide (m = .pcie ∨ m = .core 3) ||
    decide (2 ≤ (w.getLsbD 0).toNat + (w.getLsbD 1).toNat + (decide (Fld.get ⟨8, 8⟩ w ≠ 0)).toNat)

/-- What a write of RST_CTRL orders. A device reset ordered while RESET_N is low has no further effect. -/
def State.rstCtrlWritten (s : State) (w : Word) : State :=
  if w.getLsbD 0 then (if s.dev.resetLow then s else s.resetOrder false)
  else if w.getLsbD 1 then s.hubDatapathReset
  else each ((List.range 8).filter fun g => w.getLsbD (8 + g)) (fun g s => s.onWithSsf fun d => d.regionReset g) s

end Sys2Proof.Machine
end

