-- ==== Sys2Proof/Machine/Registers.lean ====
section
/-!
DEFINITION. The shared access to the registers of BAR0: which cluster and region a register belongs to (R20, R495), every
condition on which a write is rejected (R7, R18, R29, R85, R547 and the rules of the registers), what a read returns (R8, R481,
R550, R551), and what a write does.
-/
namespace Sys2Proof.Machine
open RegMap

/-- What a row says beside the word it writes: the Maintenance role (R521), whether the references of a full self-calibration
pass (R529), and the SDA line as the controller finds it (R245). -/
structure Aux where
  maint : Bool := false
  refsOk : Option Bool := none
  sda : Option Sda := none
  deriving DecidableEq, Repr

/-! What a register belongs to. -/

def carrierCluster (c : Nat) : List Cluster := if h : c < 48 then [.carrier ⟨c, h⟩] else []

/-- The carrier of a register whose first indices are the modem die and the carrier of the die. -/
def carrOf (is : List Nat) : Nat := 12 * is.headD 0 + is.getD 1 0

/-- The clusters a register belongs to: its configuration, CLUS_CMT and status registers. Client ports, counter blocks and
REJ_STAT belong to none. -/
def Dev.regClusters (d : Dev) (e : RegDesc) (is : List Nat) (a : Nat) : List Cluster :=
  match e.id with
  | .ciphCtrl => [.cipher 0, .cipher 1]
  | .clusCmt => allClusters.filter fun k => decide (cmtAddr k = a)
  | .carrShp | .carrStat | .rxStat | .rxModeA | .rxModeB | .rxEst | .xhTxb | .xhTxt | .xhTxh | .xhTxa | .xhRxb | .xhRxh | .xhRxa
  | .xhStat | .xhCbmf | .xhTrim | .xhBankTx | .xhBankRx => carrierCluster (carrOf is)
  | .poolStat | .poolFence => allClusters.filter fun k => decide (clusterCode k = 48 + is.headD 0)
  | .bmfCnt | .cdef | .bohRx | .fdef => [.framer]
  | .swCtrl | .swTgt | .swStat | .txOmf | .dskOfs | .baseStbTx | .baseStbRx | .baseActTx | .baseActRx | .pageStbTx | .pageStbRx
  | .pageActTx | .pageActRx => [.switch]
  | .spotStat | .ciphFence => [if is.headD 0 = 0 then .cipher 0 else .cipher 1]
  | .flowCstat => [d.flowCluster (is.headD 0)]
  | _ => if 0x4000 ≤ e.base ∧ e.base < 0x40A0 then [.timing] else (ownerCluster e is).toList

/-- A cluster of the register is in reset. -/
def Dev.regInReset (d : Dev) (e : RegDesc) (is : List Nat) (a : Nat) : Bool :=
  (d.regClusters e is a).any fun k => (d.cluster (clusterCode k)).reset

/-- The register's shadow copy is locked: by a pending commit or by a change procedure (R18, R85). -/
def Dev.regLocked (d : Dev) (e : RegDesc) (is : List Nat) (a : Nat) : Bool :=
  decide (e.cl ≠ .none) && (d.regClusters e is a).any fun k => d.cmtPending k || (d.cluster (clusterCode k)).locked

/-- The region whose gating takes a register along: converter die windows, carrier blocks, the Crosshatch registers of its
carriers and its Drypoint chain. -/
def regionOf (e : RegDesc) (is : List Nat) : Option Nat :=
  if (0x400000 ≤ e.base ∧ e.base < 0x600000) ∨ (0x680000 ≤ e.base ∧ e.base < 0x700000) then some (carrOf is / 6)
  else if 0x700000 ≤ e.base ∧ e.base < 0x7FFF00 then some (2 * is.headD 0 + is.getD 1 0)
  else if 0x1400000 ≤ e.base ∧ e.base < 0x1C00000 then some (is.headD 0)
  else none

/-- The counter block of a register of one (Table 17-4). -/
def pcBlockOf (e : RegDesc) (is : List Nat) : Nat :=
  if e.base < 0x9000 then 52 + is.headD 0
  else if e.base < 0x300000 then 64 + is.headD 0
  else if e.base < 0x600000 then carrOf is
  else 48 + is.headD 0

/-- The offset of a counter cell in its block: the base's offset, and the index of the cell. -/
def pcOffset (e : RegDesc) (is : List Nat) : Nat := e.base % 0x100 + 8 * (is.getD (e.dims.length - 1) 0) * (match e.id with
  | .pcCntLo | .pcCntHi | .pcScntLo | .pcScntHi => 1 | _ => 0)

/-! Reads. -/

/-- FLOW_CSTAT_f (Table 4-9). -/
def Dev.flowCstatWord (d : Dev) (f : Nat) : Word :=
  let w := d.flow f
  let act := if w.pairInForce.isSome then w.act else w.alive
  let bits : List Bool := [w.cl = 1, w.txKi, w.rxKi, w.tx0.loaded, w.tx1.loaded, w.rx0.loaded, w.rx1.loaded, w.hold, w.raw.getLsbD 6,
    w.raw.getLsbD 7, w.pairInForce.isSome, act]
  bits.foldr (fun b (x : Word) => x * 2#32 + BitVec.ofNat 32 b.toNat) 0#32

/-- WO fields read 0 (R8). -/
def readMask (e : RegDesc) (w : Word) : Word :=
  e.fields.foldl (fun w f => if f.acc = .wo then f.fld.set 0 w else w) w

/-- A read of a register by master `m`: its value, and what the read does. -/
def State.readReg (s : State) (m : Master) (e : RegDesc) (is : List Nat) (a : Nat) : Word × State :=
  let d := s.dev
  let i := is.headD 0
  let c := carrOf is
  let plain (w : Word) : Word × State := (w, s)
  if d.regInReset e is a then plain (readMask e (resetWord e is))
  else match e.id with
  | .glbTimeLo =>
    (BitVec.ofNat 32 d.time,
      s.on fun d => { d with timeLatch := SMap.put d.timeLatch (masterNo m) 0 (BitVec.ofNat 32 (d.time / 2 ^ 32)) })
  | .glbTimeHi => plain (SMap.get d.timeLatch (masterNo m) 0)
  | .temp => let s1 := s.on fun d => d.tempRead i; (s1.dev.reg a, s1)
  | .cdef => plain (d.cdefWord i)
  | .fdef => plain (d.fdefWord i)
  | .dskOfs => plain (BitVec.ofNat 32 (d.dskOfs i))
  | .baseStbTx => plain (BitVec.ofNat 32 (s.conn.base (d.standby false) false i))
  | .baseStbRx => plain (BitVec.ofNat 32 (s.conn.base (d.standby true) true i))
  | .baseActTx => plain (BitVec.ofNat 32 (s.conn.base (d.actPage false) false i))
  | .baseActRx => plain (BitVec.ofNat 32 (s.conn.base (d.actPage true) true i))
  | .pageStbTx => plain (s.conn.entry (d.standby false) false i)
  | .pageStbRx => plain (s.conn.entry (d.standby true) true i)
  | .pageActTx => plain (s.conn.entry (d.actPage false) false i)
  | .pageActRx => plain (s.conn.entry (d.actPage true) true i)
  | .flowCstat => plain (d.flowCstatWord i)
  | .xhBankTx => plain (d.bankWord c false (1 - d.xhAct c false) (is.getD 2 0))
  | .xhBankRx => plain (d.bankWord c true (1 - d.xhAct c true) (is.getD 2 0))
  | .dpBuf => plain (SMap.get d.dpBuf (dpBufKey (2 * i + is.getD 1 0) (is.getD 2 0)) 0)
  | .capTick => plain (d.capTick.setWidth 32)
  | .pcCycLo | .pcCycHi | .pcCntLo | .pcCntHi | .pcScycLo | .pcScycHi | .pcScntLo | .pcScntHi =>
    let r := d.pcRead m (pcBlockOf e is) (pcOffset e is)
    (r.1, { s with dev := r.2 })
  | .pcInfo => plain (Fld.set ⟨0, 16⟩ (d.pcMhz (pcBlockOf e is)) (d.reg a))
  | .uartData => let r := d.uartRead; (r.1, { s with dev := r.2 })
  | _ => plain (readMask e (d.reg a))

/-! Rejects. -/

/-- A FC_CLS_x_w write names a class that a source does not permit, or changes a fixed one (R513). -/
def fcClsBad (x w : Nat) (v : Word) : Bool :=
  (List.range 8).any fun j => !(sourceClass x (8 * w + j)).1.contains (Fld.get ⟨4 * j, 3⟩ v)

/-- TM_CAND_n.idx names no object of the candidate's type (R3, R337): an input 0 to 3, a carrier 0 to 47, a port 0 to 63; a software
candidate has idx 0. -/
def tmCandBad (w : Word) : Bool :=
  let idx := Fld.get ⟨4, 6⟩ w
  match Fld.get ⟨1, 3⟩ w with
  | 0 => decide (4 ≤ idx)
  | 1 => decide (48 ≤ idx)
  | 3 => decide (idx ≠ 0)
  | _ => false

/-- R147. -/
def caBad (flow : Bool) (i : Nat) (w : Word) : Bool :=
  if flow then ((i = 8 ∨ i = 9) && (w.getLsbD 0 || w.getLsbD 1)) || ((i = 6 ∨ i = 7) && !w.getLsbD 0)
  else (i = 9 ∨ i = 10) && (w.getLsbD 0 || w.getLsbD 1)

/-- The conditions on the device's state and on several fields together on which the registers' own rules reject a write. -/
def Dev.specialBad (d : Dev) (m : Master) (e : RegDesc) (is : List Nat) (a : Nat) (w : Word) (x : Aux) : Bool :=
  let i := is.headD 0
  let j := is.getD 1 0
  let c := carrOf is
  match e.id with
  | .rstCtrl => rstCtrlBad m w
  | .pwrCtrl => d.pwrCtrlBad m w
  | .pwrCfg => d.pwrCfgBad w
  | .pwrReg => d.pwrRegBad w
  | .avsRail => avsRailBad w
  | .fcCls => fcClsBad i j w
  | .fcInj => !x.maint || d.bit aTcStat 3
  | .tmCv => d.tmCvBad w
  | .tmCand => tmCandBad w
  | .uartCtrl => uartCtrlBad w
  | .uartData => d.uartDenied m
  | .pcSel => pcSelBad (pcBlockOf e is) (is.getLastD 0) w
  | .caCarr => caBad false i w
  | .caFlow => caBad true i w
  | .portMap => d.portMapBad i w
  | .laneCtrl => d.laneCtrlBad (64 * i + j) w
  | .eyeCtrl | .rlEyeCtrl => d.bit a 0
  | .swCtrl => d.swCtrlBad w
  | .swTgt => d.swTgtBad
  | .baseStbTx | .baseStbRx | .pageStbTx | .pageStbRx => d.standbyHeld
  | .xhTxb | .xhTxt | .xhTxh | .xhBankTx => d.xhTxArmed c
  | .xhRxh => d.xhRxArmed c || d.rxhBad c w
  | .xhBankRx => d.xhRxArmed c
  | .xhRxa => w.getLsbD 31 && !d.bankCheck c true (d.xhAct c true) (d.reg a)
  | .xhTrim => d.trimBad c w
  | .dpCtrl => d.dpCtrlBad (2 * i + j) w
  | .dpCap => d.dpCapBad (2 * i + j) w
  | .cvtMode => d.cvtModeBad i w
  | .cvtDsk => d.cvtDskBad i j
  | .capCtrl | .capMask => d.capArmed i
  | .feGain => feGainBad w
  | .rlCfg => d.rlCfgBad w
  | _ => false

/-- A write of `w` by master `m` is rejected whole. -/
def Dev.writeBad (d : Dev) (m : Master) (e : RegDesc) (is : List Nat) (a : Nat) (w : Word) (x : Aux) : Bool :=
  badValue e w || d.regInReset e is a || d.regLocked e is a || d.specialBad m e is a w x

/-- The reject of a write at `a`, recorded in the REJ_STAT of its window and in a REJECT record with the address that the master
gave (R29, R548). -/
def Dev.reject (d : Dev) (a given : Nat) (w : Word) : Dev :=
  match windowOf a with
  | none => d
  | some win =>
    let d1 := if d.bit win.rej 0 then d.setBit win.rej 1
      else (d.setBit win.rej 0).setFld win.rej ⟨8, 20⟩ ((a - win.base) / 4)
    d1.ownerRecord ⟨.reject, 0, win.die, 0, 0, [given, w.toNat]⟩

/-! Writes. -/

/-- CLUS_CMT of cluster `k` written with `w` (R17, R20). A request for a cipher cluster waits for every flow it has. -/
def State.cmtWritten (s : State) (k : Cluster) (w : Word) : State :=
  if w.getLsbD 3 then s.clusterReset k
  else
    let a := cmtAddr k
    s.on fun d =>
      let d1 := if w.getLsbD 2 then d.setBit a 2 false else d
      if w.getLsbD 0 && !d.cmtPending k then
        let d2 := d1.setFld a ⟨0, 2⟩ 3
        match k with
        | .cipher x => d2.onCluster (58 + x) fun q =>
          { q with flowsLeft := (d.flows.filter fun e => e.2.alive && decide (e.2.cl = x.val)).map fun e => e.1 }
        | _ => d2
      else d1

/-- BN_CTRL written with `w` (R529); what the references of a region show is a free value where the row does not say it. -/
def State.bnCtrlWritten (s : State) (a : Nat) (w : Word) (refsOk : Option Bool) : State :=
  let mask := Fld.get ⟨0, 8⟩ w
  let s1 := s.on fun d => d.setBit a 8 (w.getLsbD 8)
  if mask = 0 then s1
  else match refsOk with
    | some b => s1.fullRequest mask b
    | none => let r := s1.dev.fresh; { s1 with dev := r.2 }.fullRequest mask (r.1.getLsbD 0)

/-- What a write of `w` that was not rejected does; `x` as the row says. -/
def State.written (s : State) (e : RegDesc) (is : List Nat) (a : Nat) (w : Word) (x : Aux) : State :=
  let i := is.headD 0
  let j := is.getD 1 0
  let c := carrOf is
  let g := 2 * i + j
  let old := s.dev.reg a
  let d1 := s.dev.setReg a (RegMap.written e old w)
  let upd (d : Dev) : State := { s with dev := d }
  match e.id with
  | .clusCmt => each ((s.dev.regClusters e is a).take 1) (fun k s => s.cmtWritten k w) s
  | .rstCtrl => s.rstCtrlWritten w
  | .pwrCtrl => upd (s.dev.pwrCtrlWritten w)
  | .pwrReg => upd d1.pwrRegWritten
  | .pwrTmr => upd (d1.onPw fun p => { p with msLeft := 1000 })
  | .padRelease => upd (s.dev.padReleaseWritten w)
  | .fcStatLo => each ((List.range 32).filter fun b => w.getLsbD b) (fun b s => s.faultClear i b) s
  | .fcStatHi => each ((List.range 32).filter fun b => w.getLsbD b) (fun b s => s.faultClear i (32 + b)) s
  | .fcInj => if w.getLsbD 31 then s.fault (Fld.get ⟨6, 4⟩ w) (Fld.get ⟨0, 6⟩ w) else s
  | .bnCtrl => s.bnCtrlWritten a w x.refsOk
  | .tmCtrl => upd (d1.onTm fun t => { t with modeWritten := true })
  | .tmCv => upd (s.dev.tmCvWritten w)
  | .tmSwph => upd (s.dev.tmSwphWritten w)
  | .mxErr => upd (s.dev.mxErrWritten w)
  | .styCtrl => if w.getLsbD 0 then upd s.dev.core3Reset else s
  | .uartData => upd (s.dev.uartWritten w)
  | .hiDisc => if w.getLsbD 31 then upd (s.dev.setReg a 0) else s
  | .pcCtrl => upd (d1.pcCtrlWritten (pcBlockOf e is) w)
  | .pcGlb => upd (d1.pcGlbWritten w)
  | .portMap => upd (d1.portMapWritten i old)
  | .laneCtrl => upd (d1.laneCtrlWritten (64 * i + j))
  | .eyeCtrl => if h : w.getLsbD 0 ∧ 64 * i + j < 128 then upd (d1.eyeWritten (.client ⟨64 * i + j, h.2⟩)) else upd d1
  | .rlEyeCtrl => if h : w.getLsbD 0 ∧ i < 24 then upd (d1.eyeWritten (.link ⟨i, h.2⟩)) else upd d1
  | .swCtrl => s.swCtrlWritten w
  | .baseStbTx => { s with conn := s.conn.setBase (s.dev.standby false) false i w }
  | .baseStbRx => { s with conn := s.conn.setBase (s.dev.standby true) true i w }
  | .pageStbTx => { s with conn := s.conn.setEntry (s.dev.standby false) false i w }
  | .pageStbRx => { s with conn := s.conn.setEntry (s.dev.standby true) true i w }
  | .xhTxb => upd (d1.xhTxbWritten c w)
  | .xhRxa => upd (d1.rxaWritten c)
  | .xhBankTx => upd (s.dev.setBankWord c false (1 - s.dev.xhAct c false) (is.getD 2 0) w)
  | .xhBankRx => upd (s.dev.rxEntryWritten c (is.getD 2 0) w)
  | .dpCtrl => upd (d1.dpCtrlWritten g old)
  | .dpBank => upd (d1.dpBankWritten g)
  | .dpCap => upd (d1.dpCapWritten g)
  | .capCtrl => upd (d1.capCtrlWritten i w)
  | .feBus =>
    let d2 := match x.sda with | some v => d1.onRegion i fun r => { r with sda := v } | none => d1
    upd (d2.feBusWritten i old)
  | .hkCtrl => upd (d1.hkCtrlWritten i old)
  | .hkTrig => upd (d1.hkTrigWritten i w)
  | .rlCfg => upd d1.rlCfgWritten
  | .rlCtrl => upd (d1.rlCtrlWritten i)
  | _ => upd d1

end Sys2Proof.Machine
end

