-- ==== Sys2Proof/Machine/Access.lean ====
section
/-!
DEFINITION. Accesses by the masters: what meets an access before its target (R6, R388, R422, R490, R536), the state of the
target (R36, R412, R439, R546, R547), single and broadcast accesses (R31 to R39, R548), the doorbell pages (R388, R394, R395),
the owner mailbox (R450) and the interrupt controller (R412, R425 to R432), with the accesses that waited.
-/
namespace Sys2Proof.Machine
open RegMap

/-! Before the target. -/

/-- A read that is discarded completes with 0xFFFF_FFFF. -/
def Dev.discardReply (d : Dev) (m : Master) (read : Bool) : Dev := if read then d.emit (.reply m 0xFFFFFFFF#32) else d

/-- A host access while the BARs do not answer; in reset and in OFF there is no link, and nothing completes. -/
def Dev.closedAccess (d : Dev) (m : Master) (read : Bool) : Dev :=
  d.barClosed.discardReply m (read && decide (d.boot = .running ∨ d.boot = .recovery))

/-- An access that waits for the device or a region to wake. -/
def Dev.waitWake (d : Dev) (w : Waiting) : Dev := { d with mx := { d.mx with regionWait := d.mx.regionWait ++ [w] } }

/-- An access that waits for the end of a die window's reset. -/
def Dev.waitWindow (d : Dev) (w : Waiting) : Dev := { d with mx := { d.mx with windowWait := d.mx.windowWait ++ [w] } }

/-- An access that is not a naturally aligned word is discarded and counted; a master that is fenced is answered with an error;
a host access wakes the device, and every access to a gated device waits. Any other goes on to its target. -/
def State.atMatrix (s : State) (w : Waiting) (go : State → State) : State :=
  if w.master = .pcie ∧ !s.dev.barOpen then s.on fun d => d.closedAccess w.master w.write.isNone
  else if w.addr.toNat % 4 ≠ 0 then s.on fun d => d.discard.discardReply w.master w.write.isNone
  else if s.dev.masterFenced w.master then s.fencedAccess w.master (w.addr.setWidth 32) w.write.isNone
  else
    let s1 := if w.master = .pcie then s.on fun d => d.wake 1 true false else s
    if s1.dev.asleep then s1.on fun d => d.waitWake w else go s1

/-! The target. -/

/-- The matrix, Stylus and UART registers, which masters 0 to 4 reach (R439). -/
def matrixReg (a : Nat) : Bool := decide ((0x6000 ≤ a ∧ a < 0x60D8) ∨ a = 0xA000 ∨ (0xC000 ≤ a ∧ a < 0xC00C))

/-- The master reaches the register windows (R412). -/
def reachesWindows (m : Master) : Bool := decide (m ≠ .trust)

/-- The master reaches the word at `a`. -/
def reaches (m : Master) (a : Nat) : Bool :=
  match m with
  | .trust => false
  | .engine _ | .link => !matrixReg a
  | _ => true

/-- How an access to one word of BAR0 stands. -/
inductive Target where
  | unmapped
  | window
  | region (g : Nat)
  | reg (e : RegDesc) (is : List Nat)
  deriving DecidableEq, Repr

/-- The window of die `x` answers no access: the die is lost or its window fenced. -/
def Dev.windowDead (d : Dev) (x : Nat) : Bool := (d.die x).lost || d.bit aMxFence (16 + x)

/-- The target at `a` for master `m`. -/
def Dev.target (d : Dev) (m : Master) (a : Nat) : Target :=
  match windowOf a, find table a with
  | some win, some (e, is) =>
    if !reaches m a || d.windowDead win.die then .unmapped
    else if (d.die win.die).reset then .window
    else match regionOf e is with
      | some g => if d.regState g = 0 then .reg e is else .region g
      | none => .reg e is
  | _, _ => .unmapped

/-- An access at a register that answers. -/
def State.serve (s : State) (m : Master) (a : Nat) (write : Option Word) (e : RegDesc) (is : List Nat) (x : Aux) : State :=
  match write with
  | none => let r := s.readReg m e is a; r.2.on fun d => d.emit (.reply m r.1)
  | some w => if s.dev.writeBad m e is a w x then s.on fun d => d.reject a a w else s.written e is a w x

/-- A single access that has passed the matrix. -/
def State.single (s : State) (w : Waiting) (x : Aux) : State :=
  match s.dev.target w.master w.addr.toNat with
  | .unmapped => s.on fun d => d.noAnswer w.master (w.addr.setWidth 32) w.write.isNone
  | .window => s.on fun d => d.waitWindow w
  | .region g => s.on fun d => (d.waitWake w).regionWake g
  | .reg e is => s.serve w.master w.addr.toNat w.write e is x

/-! Broadcasts. -/

/-- The aperture at byte offset `a` and the offset within a member (Table 1-7). -/
def apertureOf (a : Nat) : Option (Nat × Nat) :=
  if 0x2000000 ≤ a ∧ a < 0x2000000 + 29 * 0x20000 then some ((a - 0x2000000) / 0x20000, (a - 0x2000000) % 0x20000)
  else if 0x2800000 ≤ a ∧ a < 0x2900000 then some (29, a - 0x2800000)
  else none

/-- The carriers of group `n` (R32). -/
def Dev.groupMembers (d : Dev) (n : Nat) : List Nat :=
  (List.range 48).filter fun c => if c < 32 then d.bit (0x1000 + 8 * n) c else d.bit (0x1004 + 8 * n) (c - 32)

/-- The members of an aperture. -/
def Dev.apMembers (d : Dev) (i : Nat) : List Nat :=
  if i = 0 then List.range 48
  else if i ≤ 8 then (List.range 48).filter fun c => decide (c / 6 = i - 1)
  else if i ≤ 12 then (List.range 48).filter fun c => decide (c / 12 = i - 9)
  else if i ≤ 28 then d.groupMembers (i - 13)
  else List.range 8

/-- The address of a member's word. -/
def memberAddr (i off x : Nat) : Nat := if i = 29 then 0x1400000 + x * 0x100000 + off else carrBase x + off

/-- The die a member lies on. -/
def memberDie (i x : Nat) : Nat := if i = 29 then x else 8 + x / 12

/-- A member is skipped: on a lost die, or in reset (R36). A write is instead rejected whole where a member's cluster is in reset
(R34, R547; log entry 85). -/
def Dev.memberSkipped (d : Dev) (i x : Nat) (write : Bool) : Bool :=
  (d.die (memberDie i x)).lost || (d.die (memberDie i x)).reset || (decide (i ≠ 29) && (d.cluster x).reset && !write)

def aBcStat : Nat := 0x1080

/-- The carrier whose block holds byte offset `a`. -/
def blockCarrier (a : Nat) : Option Nat := (List.range 48).find? fun c => decide (carrBase c ≤ a ∧ a < carrBase c + 0x20000)

/-- The members of broadcast apertures that an access reaches, by aperture kind (`true`: converter dies) and number. -/
def Dev.reached (d : Dev) (w : Waiting) : List (Bool × Nat) :=
  let a := w.addr.toNat
  match apertureOf a with
  | some (i, _) => (w.members.getD (d.apMembers i)).map fun x => (decide (i = 29), x)
  | none =>
    if 0x1400000 ≤ a ∧ a < 0x1C00000 then [(true, (a - 0x1400000) / 0x100000)]
    else (blockCarrier a).toList.map fun c => (false, c)

/-- A broadcast write of the same master that still waits for a region reaches a member of this access, which therefore waits
behind it (R35). -/
def Dev.behindBroadcast (d : Dev) (w : Waiting) : Bool :=
  let mine := d.reached w
  d.mx.regionWait.any fun q => decide (q.master = w.master) && q.write.isSome && q.members.isSome &&
    (d.reached q).any mine.contains

/-- A broadcast write on members that answer: rejected whole, or performed on each. -/
def State.broadcastWrite (s : State) (m : Master) (given : Nat) (w : Word) (rs : List (Nat × RegDesc × List Nat)) (x : Aux) :
    State :=
  match rs.find? fun r => s.dev.writeBad m r.2.1 r.2.2 r.1 w x with
  | some r => s.on fun d => d.reject r.1 given w
  | none => each rs (fun r s => s.written r.2.1 r.2.2 r.1 w x) s

/-- The values of a broadcast read, in the order of the members. -/
def State.broadcastReads (s : State) (m : Master) (rs : List (Nat × RegDesc × List Nat)) : List Word × State :=
  rs.foldl (fun acc r => let v := acc.2.readReg m r.2.1 r.2.2 r.1; (acc.1 ++ [v.1], v.2)) ([], s)

/-- A broadcast read on members that answer (R37). -/
def State.broadcastRead (s : State) (m : Master) (i : Nat) (rs : List (Nat × RegDesc × List Nat)) : State :=
  let r := s.broadcastReads m rs
  let v := r.1.headD 0
  r.2.on fun d =>
    let d1 := if r.1.all (· = v) then d else (d.setBit aBcStat 0).setFld aBcStat ⟨8, 5⟩ i
    d1.emit (.reply m v)

/-- An access through aperture `i` on members `ms`, which has passed the matrix. A member behind a fenced window does not answer,
so the access then runs into its master's timeout although the others have been reached. -/
def State.broadcastOn (s : State) (w : Waiting) (i off : Nat) (ms : List Nat) (x : Aux) : State :=
  let read := w.write.isNone
  let zero (d : Dev) : Dev := if read then d.emit (.reply w.master 0#32) else d
  if ms = [] then s.on fun d => zero (d.setBit aBcStat 1)
  else
    let live := ms.filter fun c => !s.dev.memberSkipped i c w.write.isSome
    let s1 := if live.length < ms.length then s.on fun d => d.setBit aBcStat 2 else s
    if live = [] then s1.on zero
    else if (find table (memberAddr i off (live.headD 0))).isNone ∨ !reachesWindows w.master then
      s1.on fun d => d.noAnswer w.master (w.addr.setWidth 32) read
    else
      let ts := live.map fun c => (memberAddr i off c, s1.dev.target w.master (memberAddr i off c))
      let gated := ts.filterMap fun t => match t.2 with | .region g => some g | _ => none
      if gated ≠ [] then
        s1.on fun d => each gated (fun g d => d.regionWake g) (d.waitWake { w with members := some ms })
      else
        let rs := ts.filterMap fun t => match t.2 with | .reg e is => some (t.1, e, is) | _ => none
        let s2 := if rs.length < ts.length then s1.on fun d => d.noAnswer w.master (w.addr.setWidth 32) read else s1
        if rs = [] then s2
        else match w.write with
          | some v => s2.broadcastWrite w.master w.addr.toNat v rs x
          | none => s2.broadcastRead w.master i rs

/-- The members of a broadcast as the matrix accepts it (R33). -/
def Dev.acceptedMembers (d : Dev) (w : Waiting) : Option (List Nat) := (apertureOf w.addr.toNat).map fun p => d.apMembers p.1

/-- The transactions of a master that are outstanding (R417). -/
def Dev.outstanding (d : Dev) (m : Master) : Nat :=
  (d.mx.unanswered.filter fun u => decide (u.master = m)).length +
    ((d.mx.windowWait ++ d.mx.regionWait).filter fun u => decide (u.master = m)).length

/-- An access to BAR0. One that waited keeps the members of its acceptance (R33). A master's seventeenth waits until an ID is free
(R417, log entry 116). -/
def State.access (s : State) (w : Waiting) (x : Aux := {}) : State :=
  if 16 ≤ s.dev.outstanding w.master then s.on fun d => { d with mx := { d.mx with idWait := d.mx.idWait ++ [w] } }
  else s.atMatrix w fun s =>
    if s.dev.behindBroadcast w then s.on fun d => d.waitWake { w with members := w.members <|> d.acceptedMembers w } else
    match apertureOf w.addr.toNat with
    | some (i, off) => s.broadcastOn w i off (w.members.getD (s.dev.apMembers i)) x
    | none => s.single w x

/-- A write, and a read, of the BAR0 word at `a` by master `m`. -/
def State.write0 (s : State) (m : Master) (a : Nat) (w : Word) (x : Aux := {}) : State :=
  s.access ⟨m, BitVec.ofNat 26 a, some w, none⟩ x
def State.read0 (s : State) (m : Master) (a : Nat) : State := s.access ⟨m, BitVec.ofNat 26 a, none, none⟩

/-! Arbitration among accesses that wait (R413, R414). -/

/-- The QoS value of a master. -/
def Dev.mxQos (d : Dev) (m : Master) : Nat :=
  if masterNo m = 8 then d.fld 0x6044 ⟨0, 4⟩ else d.fld 0x6040 ⟨4 * masterNo m, 4⟩

/-- A master's priority in the local crossbar of die `x`. -/
def Dev.mxLocal (d : Dev) (x : Nat) (m : Master) : Nat := d.fld (0x6000 + 4 * x) ⟨3 * masterNo m, 3⟩

/-- How far master `m` stands behind master number `last` in the round. -/
def roundPlace (last : Nat) (m : Master) : Nat := (masterNo m + 8 - last) % 9

/-- The access granted next: of the oldest of each master the highest in rank, among equals the next in the round. -/
def nextAccess (rank : Waiting → Nat) (last : Nat) (ws : List Waiting) : Option Waiting :=
  let heads := ws.filter fun w => decide ((ws.find? fun v => decide (v.master = w.master)) = some w)
  heads.foldl (fun best w => match best with
    | none => some w
    | some b => if rank b < rank w ∨ (rank w = rank b ∧ roundPlace last w.master < roundPlace last b.master) then some w
      else some b) none

/-- Waiting accesses in the order in which they are granted, and the master granted last. -/
def grantOrder (rank : Waiting → Nat) : Nat → Nat → List Waiting → List Waiting × Nat
  | 0, last, _ => ([], last)
  | n + 1, last, ws => match nextAccess rank last ws with
    | none => ([], last)
    | some w =>
      let r := grantOrder rank n (masterNo w.master) (ws.erase w)
      (w :: r.1, r.2)

/-- Waiting accesses are made again in that order. -/
def State.regrant (s : State) (rank : Waiting → Nat) (ws : List Waiting) : State :=
  let r := grantOrder rank ws.length s.dev.mx.lastGrant ws
  (each r.1 (fun w s => s.access w) s).on fun d => { d with mx := { d.mx with lastGrant := r.2 } }

/-- Accesses that waited for an ID of their master. -/
def State.serveIds (s : State) : State :=
  each s.dev.mx.idWait (fun w s => s.access w) (s.on fun d => { d with mx := { d.mx with idWait := [] } })

/-- The rank of an access in the crossbar of its die, and at the hub. -/
def Dev.localRank (d : Dev) (w : Waiting) : Nat :=
  d.mxLocal (match windowOf w.addr.toNat with | some win => win.die | none => 12) w.master
def Dev.hubRank (d : Dev) (w : Waiting) : Nat := d.mxQos w.master

/-- Accesses that waited for a wake: of the device, at the hub; of a region, at its die. -/
def State.serveWoken (s : State) (device : Bool) : State :=
  let rank := if device then s.dev.hubRank else s.dev.localRank
  ((s.on fun d => { d with mx := { d.mx with regionWait := [] } }).regrant rank s.dev.mx.regionWait).serveIds

/-- The same for accesses that waited for a die window. -/
def State.serveWindow (s : State) : State :=
  ((s.on fun d => { d with mx := { d.mx with windowWait := [] } }).regrant s.dev.localRank s.dev.mx.windowWait).serveIds

def execMatrixTimeout (m : Master) (s : State) : Answer := .next (s.matrixTimeout m).serveIds

def execPathWatchdog (m : Master) (x : Fin 16) (addr : Addr) (who : Stalled) (s : State) : Answer :=
  .next (s.pathWatchdog m x addr who).serveIds

/-! Doorbell pages. -/

/-- The rings by the number of their block in a page. -/
def ringOf (n : Nat) : Option RingKind := ringKinds[n]?

/-- A write of `w` at offset `off` of tenant `t`'s doorbell page, by a host whose BARs answer. -/
def Dev.pageWrite (d : Dev) (t off : Nat) (w : Word) : Dev :=
  match ringOf (off / 0x40), find ringTable (off % 0x40) with
  | some k, some (e, _) =>
    if !d.bound t || !ringAt t k || (decide (e.id = .ringCancel) && decide (k ≠ .command)) then d.discard
    else
      let r := d.ring t k
      let bad := d.rejectOutside (0x1000 * t + off) w
      match e.id with
      | .ringCfg => d.ringCfgWrite t k w
      | .ringBaseLo =>
        if badValue e w || (r.en && decide (w ≠ r.baseLo)) then bad else d.onRing t k fun r => { r with baseLo := w }
      | .ringBaseHi => if r.en && decide (w ≠ r.baseHi) then bad else d.onRing t k fun r => { r with baseHi := w }
      | .ringDb => if badValue e w then bad else (d.wake 1 true true).doorbell t k (w.setWidth 16)
      | .ringStat => if badValue e w then bad else d.onRing t k fun r => { r with stat := RegMap.written e r.stat w }
      | .ringCancel => if badValue e w then bad else d.cancel t (w.setWidth 16)
      | _ => if badValue e w then bad else d
  | _, _ => d.discard

/-! The owner mailbox. -/

/-- A write at offset `off` of the mailbox, which answers. Offsets that hold no register discard it. -/
def Dev.mailboxWrite (d : Dev) (off : Nat) (w : Word) : Dev :=
  match find mbTable off with
  | none => d.discard
  | some (e, _) =>
    if badValue e w || (decide (e.id = .mbAdrLo) && decide (w.toNat % 64 ≠ 0)) then d.rejectOutside (0x10000 + off) w
    else match e.id with
      | .mbAdrLo => d.onTc fun t => { t with adrLo := w }
      | .mbAdrHi => d.onTc fun t => { t with adrHi := w }
      | .mbLen => d.onTc fun t => { t with len := w }
      | .mbSvc => d.onTc fun t => { t with svc := w }
      | .mbDb => if w.getLsbD 0 then d.mbDoorbell else d
      | _ => d

/-! The interrupt controller. -/

/-- A core's write of `w` at offset `off` of the controller. A rejected one is recorded with the core address. -/
def Dev.icWrite (d : Dev) (n : Fin 4) (off : Nat) (w : Word) : Dev :=
  match find icTable off with
  | some (e, is) =>
    let i := is.headD 0
    let bad := badValue e w ||
      (decide (e.id = .icVbase) && decide (w.toNat % 0x4000 ≠ 0)) ||
      (decide (e.id = .icSrc) && decide (i < 448) && decide (Fld.get ⟨8, 2⟩ w = 3))
    if !icReach n off then d.noAnswer (.core n) (icAdr off) false
    else if bad then d.rejectOutside (0x40000000 + off) w
    else match e.id with
      | .icPend => d.icPendWritten false i w
      | .icMask => d.icPendWritten true i w
      | .icCtrl => (if w.getLsbD 1 then d.thaw i else d).setHold i (w.getLsbD 0)
      | .icEoi => d.eoi i (Fld.get ⟨0, 9⟩ w)
      | .icSrc => d.setIc off (if i < 448 then w else Fld.set ⟨8, 2⟩ 3 w)
      | _ => d.setIc off (RegMap.written e (d.icReg off) w)
  | none => d.noAnswer (.core n) (icAdr off) false

end Sys2Proof.Machine
end

