-- ==== Sys2Proof/Machine/Writes.lean ====
section
/-!
DEFINITION. The rows that are register accesses: each is the access of its register with the word it stands for, and the rows
that end a wait for a target.
-/
namespace Sys2Proof.Machine
open RegMap

/-! Accesses (chapters 0, 1, 14, 15, 16). -/

/-- An access to a space outside BAR0 by a master that does not reach it (R412). -/
def State.elsewhere (s : State) (m : Master) (a : Addr) : State := s.on fun d => d.noAnswer m (a.setWidth 32) false

/-- A write to a doorbell page: by the host alone, to a page that answers. -/
def State.bar2Write (s : State) (m : Master) (t : Nat) (a : Addr) (w : Word) : State :=
  if m ≠ .pcie then s.elsewhere m a
  else s.on fun d =>
    if !d.barOpen then d.barClosed
    else if a.toNat % 4 ≠ 0 ∨ 0x1000 ≤ a.toNat then d.discard
    else d.pageWrite t a.toNat w

/-- A write to the owner mailbox. -/
def State.mbWrite (s : State) (m : Master) (a : Addr) (w : Word) : State :=
  if m ≠ .pcie then s.elsewhere m a
  else s.on fun d =>
    if !d.mbOpen ∨ d.pwrState = 4 then d.barClosed
    else if a.toNat % 4 ≠ 0 then d.discard
    else d.mailboxWrite a.toNat w

/-- A write to the interrupt controller. -/
def State.icSpaceWrite (s : State) (m : Master) (a : Addr) (w : Word) : State :=
  match m with
  | .core n =>
    if s.dev.masterFenced m then s.fencedAccess m (icAdr a.toNat) false else s.on fun d => d.icWrite n a.toNat w
  | _ => s.elsewhere m a

/-- R29. -/
def execRegisterWrite (m : Master) (sp : Space) (addr : Addr) (data : Word) (s : State) : Answer :=
  .next (match sp with
    | .bar0 => s.write0 m addr.toNat data
    | .bar2 t => s.bar2Write m t addr data
    | .mailbox => s.mbWrite m addr data
    | .ic => s.icSpaceWrite m addr data)

/-- R6, R388: an access that is no naturally aligned word. While no link is up nothing is discarded. -/
def execMisalignedAccess (_bar : Bar) (read : Bool) (s : State) : Answer :=
  s.nextOn fun d =>
    if d.barOpen then d.discard.discardReply .pcie read else d.closedAccess .pcie read

/-- R34. -/
def execBroadcastWrite (m : Master) (addr : Addr) (data : Word) (s : State) : Answer := .next (s.write0 m addr.toNat data)

/-- R37. -/
def execBroadcastRead (m : Master) (addr : Addr) (s : State) : Answer := .next (s.read0 m addr.toNat)

/-! Clusters (R17, R20). -/

def execCommitRequest (m : Master) (k : Cluster) (s : State) : Answer := .next (s.write0 m (cmtAddr k) 1)

def execClusterReset (m : Master) (k : Cluster) (req : Bool) (s : State) : Answer :=
  .next (s.write0 m (cmtAddr k) (if req then 9 else 8))

/-! Client ports (R45, R51 to R53, R368). -/

def execPortMapWrite (m : Master) (p : Fin 64) (data : Word) (s : State) : Answer := .next (s.write0 m (aPortMap p) data)

def execLaneCtrlWrite (m : Master) (l : Fin 128) (data : Word) (s : State) : Answer := .next (s.write0 m (laneBase l) data)

def execEyeScanStart (m : Master) (site : EyeSite) (data : Word) (s : State) : Answer :=
  .next (s.write0 m (eyeCtrlAddr site) (data ||| 1))

/-! The switch (R73, R78). -/

def execSwapArm (m : Master) (s : State) : Answer := .next (s.write0 m aSwCtrl ((s.dev.reg aSwCtrl &&& 4) ||| 1))

def execPageCopy (m : Master) (s : State) : Answer := .next (s.write0 m aSwCtrl ((s.dev.reg aSwCtrl &&& 4) ||| 2))

/-! Converters and front end (R224, R245, R264, R265). -/

def execCaptureArm (m : Master) (g : Fin 8) (data : Word) (s : State) : Answer :=
  .next (s.write0 m (aCapCtrl g) (data ||| 0x80000000))

def execSdaStuckClear (m : Master) (g : Fin 8) (sda : Sda) (s : State) : Answer :=
  .next (s.write0 m (feBase g + 0xE0) ((s.dev.reg (feBase g + 0xE0) &&& 8) ||| 4) { sda := some sda })

def execHkSnapshotArm (m : Master) (g : Fin 8) (data : Word) (s : State) : Answer :=
  .next (s.write0 m (feBase g + 0x140) (data ||| 0x80000000))

def execHkCalibrate (m : Master) (g : Fin 8) (s : State) : Answer :=
  .next (s.write0 m (feBase g + 0x100) ((s.dev.reg (feBase g + 0x100) &&& 0x1FFF) ||| 0x2000))

/-! Crosshatch (R310, R317, R318). -/

def execXhTxArm (m : Master) (c : Fin 48) (s : State) : Answer := .next (s.write0 m (aTxb c) 2)

def execXhTxCopy (m : Master) (c : Fin 48) (s : State) : Answer := .next (s.write0 m (aTxb c) 4)

def execXhRxCopy (m : Master) (c : Fin 48) (s : State) : Answer := .next (s.write0 m (aRxb c) 4)

/-- Word `i` of the receive bank of carrier `c` (R309). -/
def rxBankAddr (c i : Nat) : Nat := 0x6A4000 + (c / 12) * 0x400000 + (c % 12) * 0x8000 + 4 * i

def execXhBankEntryWrite (m : Master) (c : Fin 48) (i : Fin 4096) (data : Word) (s : State) : Answer :=
  .next (s.write0 m (rxBankAddr c i) data)

def execXhRxhWrite (m : Master) (c : Fin 48) (data : Word) (s : State) : Answer := .next (s.write0 m (xhBase c + 0x24) data)

def execXhRxaLdWrite (m : Master) (c : Fin 48) (s : State) : Answer := .next (s.write0 m (xhBase c + 0x28) 0x80000000)

/-! The timing core and the Registration link (R346, R352, R367, R369). -/

def execTmCvWrite (m : Master) (data : Word) (s : State) : Answer := .next (s.write0 m 0x4020 data)

def execTmSwphWrite (m : Master) (data : Word) (s : State) : Answer := .next (s.write0 m 0x402C data)

def execRlRetrain (m : Master) (j : Fin 3) (s : State) : Answer :=
  .next (s.write0 m (aRlCtrl j) ((s.dev.reg (aRlCtrl j) &&& 1) ||| 2))

def execRlIdleEnter (m : Master) (j : Fin 3) (s : State) : Answer := .next (s.write0 m (aRlCtrl j) 1)

/-! Stylus and console (R424, R437, R438). -/

def execCore3Reset (m : Master) (s : State) : Answer := .next (s.write0 m 0xA000 1)

def execUartDataWrite (m : Master) (data : Word) (s : State) : Answer := .next (s.write0 m 0xC004 data)

def execUartDataRead (m : Master) (s : State) : Answer := .next (s.read0 m 0xC004)

/-! Drypoint and counters (R467, R468, R472, R481, R482, R550). -/

def execDpCtrlWrite (m : Master) (g : Fin 8) (data : Word) (s : State) : Answer := .next (s.write0 m (dpBase g) data)

def execDpBankSwap (m : Master) (g : Fin 8) (s : State) : Answer := .next (s.write0 m (dpBase g + 0xC) 2)

def execDpCaptureArm (m : Master) (g : Fin 8) (data : Word) (s : State) : Answer :=
  .next (s.write0 m (dpBase g + 0x40) (data ||| 0x80000000))

/-- The LO cell of counter `i` of block `b`, live or in its snapshot; 8 is the cycle counter. -/
def loCell (b i : Nat) (snap : Bool) : Nat := pcBase b + (if i = 8 then 0 else 0x10 + 8 * i) + if snap then 0x80 else 0

def execCounterLoRead (m : Master) (b : Fin 66) (i : Fin 9) (snap : Bool) (s : State) : Answer :=
  .next (s.read0 m (loCell b i snap))

def execGlbTimeLoRead (m : Master) (s : State) : Answer := .next (s.read0 m 0x10)

def execPcGlbSnap (m : Master) (s : State) : Answer := .next (s.write0 m 0x8C00 ((s.dev.reg 0x8C00 &&& 1) ||| 2))

def execPcGlbFreeze (m : Master) (s : State) : Answer := .next (s.write0 m 0x8C00 1)

def execPcGlbClear (m : Master) (s : State) : Answer := .next (s.write0 m 0x8C00 ((s.dev.reg 0x8C00 &&& 1) ||| 4))

/-- PC_CTRL of a block. -/
def aPcCtrl (b : Nat) : Nat := pcBase b + 0x70

def execBlockFreeze (m : Master) (b : Fin 66) (on : Bool) (s : State) : Answer :=
  .next (s.write0 m (aPcCtrl b) (Fld.set ⟨0, 1⟩ on.toNat (s.dev.reg (aPcCtrl b))))

def execBlockClear (m : Master) (b : Fin 66) (s : State) : Answer :=
  .next (s.write0 m (aPcCtrl b) (s.dev.reg (aPcCtrl b) ||| 2))

/-! Power (R484, R485, R489, R495, R498). -/

def execReqRun (m : Master) (s : State) : Answer := .next (s.write0 m 0x2000 0)
def execReqIdle (m : Master) (s : State) : Answer := .next (s.write0 m 0x2000 1)
def execReqSleep (m : Master) (s : State) : Answer := .next (s.write0 m 0x2000 2)
def execReqDeep (m : Master) (s : State) : Answer := .next (s.write0 m 0x2000 3)
def execReqOff (m : Master) (s : State) : Answer := .next (s.write0 m 0x2000 4)

/-- A transition completes, and the accesses that waited for a wake are made. -/
def execStateTransitionDone (s : State) : Answer := .next ((s.on Dev.transitionDone).serveWoken true)

def execRegionGate (m : Master) (g : Fin 8) (st : Fin 3) (s : State) : Answer :=
  .next (s.write0 m 0x200C (Fld.set ⟨2 * g, 2⟩ st (s.dev.reg 0x200C)))

/-- A woken region is ready, and the accesses that waited for it are made (R496). -/
def execRegionReady (g : Fin 8) (s : State) : Answer := .next ((s.on fun d => d.regionReady g).serveWoken false)

def execPadRelease (m : Master) (regions : BitVec 8) (dev : Bool) (s : State) : Answer :=
  .next (s.write0 m 0x2018 (BitVec.ofNat 32 (regions.toNat + 256 * dev.toNat)))

/-! Faults, calibration and reset (R510, R521, R524, R529, R539, R541, R543, R547). -/

def execFaultStatusClear (m : Master) (x : Fin 16) (i : Fin 64) (s : State) : Answer :=
  .next (s.write0 m (0x3000 + 8 * x + 4 * (i.val / 32)) (BitVec.ofNat 32 (2 ^ (i.val % 32))))

def execFaultInject (m : Master) (maintenance : Bool) (x : Fin 16) (i : Fin 64) (s : State) : Answer :=
  .next (s.write0 m 0x3384 (BitVec.ofNat 32 (0x80000000 + 64 * x.val + i.val)) { maint := maintenance })

def execHubDatapathReset (m : Master) (s : State) : Answer := .next (s.write0 m 0x20 2)

def execFullCalibration (m : Master) (regions : BitVec 8) (refsOk : Bool) (s : State) : Answer :=
  .next (s.write0 m 0x3800 ((s.dev.reg 0x3800 &&& 0x100) ||| regions.setWidth 32) { refsOk := some refsOk })

def execDeviceResetCommand (m : Master) (s : State) : Answer := .next (s.write0 m 0x20 1)

def execRegionReset (m : Master) (g : Fin 8) (s : State) : Answer := .next (s.write0 m 0x20 (BitVec.ofNat 32 (2 ^ (8 + g.val))))

/-- The reset of a die's window ends, and the accesses that waited for it proceed. -/
def execDieWindowResetEnd (x : Fin 16) (s : State) : Answer :=
  .next (if (s.dev.die x).reset then (s.on fun d => d.onDie x fun q => { q with reset := false }).serveWindow else s)

end Sys2Proof.Machine
end

