-- ==== Sys2Proof/Machine/Dispatch.lean ====
section
/-!
DEFINITION. The dispatch: one arm for each constructor of `Instr`, each a direct call of that command's meaning.
-/
namespace Sys2Proof.Machine

def exec (i : Instr) (s : State) : Host.Outcome State Fault Refusal :=
  match i with
  | .registerWrite m sp addr data => Sys2Proof.Machine.execRegisterWrite m sp addr data s
  | .misalignedAccess bar read => Sys2Proof.Machine.execMisalignedAccess bar read s
  | .broadcastWrite m addr data => Sys2Proof.Machine.execBroadcastWrite m addr data s
  | .broadcastRead m addr => Sys2Proof.Machine.execBroadcastRead m addr s
  | .dieLossByCredit x => Sys2Proof.Machine.execDieLossByCredit x s
  | .dieLossBySupply x => Sys2Proof.Machine.execDieLossBySupply x s
  | .unitFence u => Sys2Proof.Machine.execUnitFence u s
  | .commitRequest m k => Sys2Proof.Machine.execCommitRequest m k s
  | .commitBoundary k side => Sys2Proof.Machine.execCommitBoundary k side s
  | .clusterReset m k req => Sys2Proof.Machine.execClusterReset m k req s
  | .clusterResetEnd k => Sys2Proof.Machine.execClusterResetEnd k s
  | .bridgeTimeout x y neighbourOf => Sys2Proof.Machine.execBridgeTimeout x y neighbourOf s
  | .portMapWrite m p data => Sys2Proof.Machine.execPortMapWrite m p data s
  | .laneCtrlWrite m l data => Sys2Proof.Machine.execLaneCtrlWrite m l data s
  | .laneReady l => Sys2Proof.Machine.execLaneReady l s
  | .trainingComplete l far near => Sys2Proof.Machine.execTrainingComplete l far near s
  | .trainingTimeout p => Sys2Proof.Machine.execTrainingTimeout p s
  | .trainingRestart p => Sys2Proof.Machine.execTrainingRestart p s
  | .eyeScanStart m site data => Sys2Proof.Machine.execEyeScanStart m site data s
  | .eyeScanDone site errors => Sys2Proof.Machine.execEyeScanDone site errors s
  | .laneLossOfSignal l => Sys2Proof.Machine.execLaneLossOfSignal l s
  | .laneSkewExceeded p => Sys2Proof.Machine.execLaneSkewExceeded p s
  | .clientLocalFaultEnter p why => Sys2Proof.Machine.execClientLocalFaultEnter p why s
  | .clientFaultRestore p => Sys2Proof.Machine.execClientFaultRestore p s
  | .oduMultiframe => Sys2Proof.Machine.execOduMultiframe s
  | .swapArm m => Sys2Proof.Machine.execSwapArm m s
  | .pageCopy m => Sys2Proof.Machine.execPageCopy m s
  | .pageCopyDone => Sys2Proof.Machine.execPageCopyDone s
  | .rxPageSwap => Sys2Proof.Machine.execRxPageSwap s
  | .rxLateSwap => Sys2Proof.Machine.execRxLateSwap s
  | .bohBlockReceived c => Sys2Proof.Machine.execBohBlockReceived c s
  | .flowSkewEnter f => Sys2Proof.Machine.execFlowSkewEnter f s
  | .flowSkewExit f => Sys2Proof.Machine.execFlowSkewExit f s
  | .change clusters => Sys2Proof.Machine.execChange clusters s
  | .prepareAck k => Sys2Proof.Machine.execPrepareAck k s
  | .prepareTimeout => Sys2Proof.Machine.execPrepareTimeout s
  | .changeCommit => Sys2Proof.Machine.execChangeCommit s
  | .txCryptoBlock f lanes => Sys2Proof.Machine.execTxCryptoBlock f lanes s
  | .rxCryptoBlock f => Sys2Proof.Machine.execRxCryptoBlock f s
  | .receiveSlotRetire f => Sys2Proof.Machine.execReceiveSlotRetire f s
  | .keyRotate t => Sys2Proof.Machine.execKeyRotate t s
  | .rotationConfirmTimeout f => Sys2Proof.Machine.execRotationConfirmTimeout f s
  | .flowClusterMove f => Sys2Proof.Machine.execFlowClusterMove f s
  | .contextExport f => Sys2Proof.Machine.execContextExport f s
  | .spotCheck f dir lane laneTag => Sys2Proof.Machine.execSpotCheck f dir lane laneTag s
  | .carrierFrameTx c lanes => Sys2Proof.Machine.execCarrierFrameTx c lanes s
  | .carrierFrameRx c codes acq => Sys2Proof.Machine.execCarrierFrameRx c codes acq s
  | .delineationTimeout c => Sys2Proof.Machine.execDelineationTimeout c s
  | .warmSearchTimeout c => Sys2Proof.Machine.execWarmSearchTimeout c s
  | .retestTimeout c => Sys2Proof.Machine.execRetestTimeout c s
  | .estimateWindowEnd c => Sys2Proof.Machine.execEstimateWindowEnd c s
  | .packageBandMultiframe => Sys2Proof.Machine.execPackageBandMultiframe s
  | .loliInterval c meanSquare => Sys2Proof.Machine.execLoliInterval c meanSquare s
  | .carrierDefectEnter c d => Sys2Proof.Machine.execCarrierDefectEnter c d s
  | .carrierDefectExit c d => Sys2Proof.Machine.execCarrierDefectExit c d s
  | .flowDefectEnter f d => Sys2Proof.Machine.execFlowDefectEnter f d s
  | .flowDefectExit f d => Sys2Proof.Machine.execFlowDefectExit f d s
  | .degSecond o => Sys2Proof.Machine.execDegSecond o s
  | .oduFrameRx o => Sys2Proof.Machine.execOduFrameRx o s
  | .codewordArrival m x => Sys2Proof.Machine.execCodewordArrival m x s
  | .unitSlot m decided => Sys2Proof.Machine.execUnitSlot m decided s
  | .codewordEmission m => Sys2Proof.Machine.execCodewordEmission m s
  | .outputBufferDrain m n => Sys2Proof.Machine.execOutputBufferDrain m n s
  | .unitMemoryError m u => Sys2Proof.Machine.execUnitMemoryError m u s
  | .laserPoll c status => Sys2Proof.Machine.execLaserPoll c status s
  | .tuneTimeout c => Sys2Proof.Machine.execTuneTimeout c s
  | .rampStep c => Sys2Proof.Machine.execRampStep c s
  | .rampEnd c => Sys2Proof.Machine.execRampEnd c s
  | .converterReady c => Sys2Proof.Machine.execConverterReady c s
  | .swingStep g => Sys2Proof.Machine.execSwingStep g s
  | .captureArm m g data => Sys2Proof.Machine.execCaptureArm m g data s
  | .captureStart g => Sys2Proof.Machine.execCaptureStart g s
  | .captureDone g => Sys2Proof.Machine.execCaptureDone g s
  | .sliceHandover g measured => Sys2Proof.Machine.execSliceHandover g measured s
  | .deferredHandover g => Sys2Proof.Machine.execDeferredHandover g s
  | .backgroundRunEnd g => Sys2Proof.Machine.execBackgroundRunEnd g s
  | .spiTransaction g => Sys2Proof.Machine.execSpiTransaction g s
  | .spiTransactionEnd g echo data => Sys2Proof.Machine.execSpiTransactionEnd g echo data s
  | .spiRetry g => Sys2Proof.Machine.execSpiRetry g s
  | .i2cTransferEnd g ack sda data => Sys2Proof.Machine.execI2cTransferEnd g ack sda data s
  | .i2cStretchTimeout g sda => Sys2Proof.Machine.execI2cStretchTimeout g sda s
  | .sdaStuckClear m g sda => Sys2Proof.Machine.execSdaStuckClear m g sda s
  | .gainDwell c power => Sys2Proof.Machine.execGainDwell c power s
  | .loSteerUpdate c => Sys2Proof.Machine.execLoSteerUpdate c s
  | .txTrimPeriod c => Sys2Proof.Machine.execTxTrimPeriod c s
  | .hkConversion g code => Sys2Proof.Machine.execHkConversion g code s
  | .hkUrgentRequest g ix => Sys2Proof.Machine.execHkUrgentRequest g ix s
  | .hkSnapshotArm m g data => Sys2Proof.Machine.execHkSnapshotArm m g data s
  | .hkSnapshot g code => Sys2Proof.Machine.execHkSnapshot g code s
  | .hkCalibrate m g => Sys2Proof.Machine.execHkCalibrate m g s
  | .hkCalibrationEnd g offset gain => Sys2Proof.Machine.execHkCalibrationEnd g offset gain s
  | .xhTxArm m c => Sys2Proof.Machine.execXhTxArm m c s
  | .xhTxSwap c => Sys2Proof.Machine.execXhTxSwap c s
  | .xhTxCopy m c => Sys2Proof.Machine.execXhTxCopy m c s
  | .xhRxCopy m c => Sys2Proof.Machine.execXhRxCopy m c s
  | .xhCopyDone c dir => Sys2Proof.Machine.execXhCopyDone c dir s
  | .xhRxSwap c => Sys2Proof.Machine.execXhRxSwap c s
  | .xhRxLateSwap c => Sys2Proof.Machine.execXhRxLateSwap c s
  | .xhBankEntryWrite m c ix data => Sys2Proof.Machine.execXhBankEntryWrite m c ix data s
  | .xhRxhWrite m c data => Sys2Proof.Machine.execXhRxhWrite m c data s
  | .xhRxaLdWrite m c => Sys2Proof.Machine.execXhRxaLdWrite m c s
  | .neighbourChange c dir slot => Sys2Proof.Machine.execNeighbourChange c dir slot s
  | .summaryAbsent k dir car => Sys2Proof.Machine.execSummaryAbsent k dir car s
  | .refinementStep c moves snr => Sys2Proof.Machine.execRefinementStep c moves snr s
  | .refinementEvaluation c snr => Sys2Proof.Machine.execRefinementEvaluation c snr s
  | .loopUpdate => Sys2Proof.Machine.execLoopUpdate s
  | .phaseSample err at_ => Sys2Proof.Machine.execPhaseSample err at_ s
  | .sysoscLoss => Sys2Proof.Machine.execSysoscLoss s
  | .candidateDisqualify n why => Sys2Proof.Machine.execCandidateDisqualify n why s
  | .candidateMonitorsPass n ppb => Sys2Proof.Machine.execCandidateMonitorsPass n ppb s
  | .waitToRestoreEnd n => Sys2Proof.Machine.execWaitToRestoreEnd n s
  | .timingLock => Sys2Proof.Machine.execTimingLock s
  | .tmCvWrite m data => Sys2Proof.Machine.execTmCvWrite m data s
  | .tmSwphWrite m data => Sys2Proof.Machine.execTmSwphWrite m data s
  | .softwareTimeout => Sys2Proof.Machine.execSoftwareTimeout s
  | .historyStore => Sys2Proof.Machine.execHistoryStore s
  | .rlTrainingFrame j lane request own => Sys2Proof.Machine.execRlTrainingFrame j lane request own s
  | .rlTrainingTimeout j => Sys2Proof.Machine.execRlTrainingTimeout j s
  | .rlTrainingRestart j => Sys2Proof.Machine.execRlTrainingRestart j s
  | .rlRetrain m j => Sys2Proof.Machine.execRlRetrain m j s
  | .skipSet j found fill violations => Sys2Proof.Machine.execSkipSet j found fill violations s
  | .cellReceived j cell => Sys2Proof.Machine.execCellReceived j cell s
  | .hello j h => Sys2Proof.Machine.execHello j h s
  | .helloSend => Sys2Proof.Machine.execHelloSend s
  | .helloTimeout j => Sys2Proof.Machine.execHelloTimeout j s
  | .epochReq k => Sys2Proof.Machine.execEpochReq k s
  | .epochGrant => Sys2Proof.Machine.execEpochGrant s
  | .epochBusy => Sys2Proof.Machine.execEpochBusy s
  | .epochReqTimeout => Sys2Proof.Machine.execEpochReqTimeout s
  | .epochSet k epoch cfg => Sys2Proof.Machine.execEpochSet k epoch cfg s
  | .cfgSyncRequest k => Sys2Proof.Machine.execCfgSyncRequest k s
  | .cfgSyncResponse k epoch cfg => Sys2Proof.Machine.execCfgSyncResponse k epoch cfg s
  | .cfgSyncTimeout => Sys2Proof.Machine.execCfgSyncTimeout s
  | .epochAdopt => Sys2Proof.Machine.execEpochAdopt s
  | .time k offset => Sys2Proof.Machine.execTime k offset s
  | .timeSend => Sys2Proof.Machine.execTimeSend s
  | .state k msg => Sys2Proof.Machine.execState k msg s
  | .stateSend => Sys2Proof.Machine.execStateSend s
  | .stateTimeout k => Sys2Proof.Machine.execStateTimeout k s
  | .protectionHoldoff f => Sys2Proof.Machine.execProtectionHoldoff f s
  | .sumReq k tx rx => Sys2Proof.Machine.execSumReq k tx rx s
  | .sumAck k => Sys2Proof.Machine.execSumAck k s
  | .sumReqRepeat k => Sys2Proof.Machine.execSumReqRepeat k s
  | .ctx k record => Sys2Proof.Machine.execCtx k record s
  | .ctxAck f dir accepted => Sys2Proof.Machine.execCtxAck f dir accepted s
  | .ctxAckTimeout f dir => Sys2Proof.Machine.execCtxAckTimeout f dir s
  | .summary k dir index stamp validA validB samplesA samplesB => Sys2Proof.Machine.execSummary k dir index stamp validA validB samplesA samplesB s
  | .rlIdleEnter m j => Sys2Proof.Machine.execRlIdleEnter m j s
  | .idleAnnounce j => Sys2Proof.Machine.execIdleAnnounce j s
  | .rlSignalLoss j => Sys2Proof.Machine.execRlSignalLoss j s
  | .rlIdleExit j => Sys2Proof.Machine.execRlIdleExit j s
  | .rlIdleExitTimeout j => Sys2Proof.Machine.execRlIdleExitTimeout j s
  | .doorbell t r idx => Sys2Proof.Machine.execDoorbell t r idx s
  | .hostReadCompletion t r res => Sys2Proof.Machine.execHostReadCompletion t r res s
  | .hostReadTimeout t r => Sys2Proof.Machine.execHostReadTimeout t r s
  | .functionLevelReset fn => Sys2Proof.Machine.execFunctionLevelReset fn s
  | .busMasterDisable fn => Sys2Proof.Machine.execBusMasterDisable fn s
  | .ringEnable t r data => Sys2Proof.Machine.execRingEnable t r data s
  | .commandGrant e => Sys2Proof.Machine.execCommandGrant e s
  | .msixModerationEnd t r => Sys2Proof.Machine.execMsixModerationEnd t r s
  | .cancel t idx => Sys2Proof.Machine.execCancel t idx s
  | .nop t => Sys2Proof.Machine.execNop t s
  | .flowCreate t tx rx => Sys2Proof.Machine.execFlowCreate t tx rx s
  | .flowDelete t => Sys2Proof.Machine.execFlowDelete t s
  | .statRead t => Sys2Proof.Machine.execStatRead t s
  | .grant slots auth => Sys2Proof.Machine.execGrant slots auth s
  | .revoke auth => Sys2Proof.Machine.execRevoke auth s
  | .bind auth => Sys2Proof.Machine.execBind auth s
  | .unbind auth => Sys2Proof.Machine.execUnbind auth s
  | .telemSub => Sys2Proof.Machine.execTelemSub s
  | .telemetryPeriod => Sys2Proof.Machine.execTelemetryPeriod s
  | .engine data => Sys2Proof.Machine.execEngine data s
  | .protSetRemove => Sys2Proof.Machine.execProtSetRemove s
  | .protSetWorking => Sys2Proof.Machine.execProtSetWorking s
  | .protSetProtection => Sys2Proof.Machine.execProtSetProtection s
  | .protSetForce => Sys2Proof.Machine.execProtSetForce s
  | .txTti t buf => Sys2Proof.Machine.execTxTti t buf s
  | .expTti t buf => Sys2Proof.Machine.execExpTti t buf s
  | .txField t buf => Sys2Proof.Machine.execTxField t buf s
  | .txGcc t buf => Sys2Proof.Machine.execTxGcc t buf s
  | .recv t => Sys2Proof.Machine.execRecv t s
  | .gccRecvTimeout t idx => Sys2Proof.Machine.execGccRecvTimeout t idx s
  | .capBuf => Sys2Proof.Machine.execCapBuf s
  | .matrixTimeout m => Sys2Proof.Machine.execMatrixTimeout m s
  | .lateCompletion m => Sys2Proof.Machine.execLateCompletion m s
  | .pathWatchdog m x addr who => Sys2Proof.Machine.execPathWatchdog m x addr who s
  | .fenceRelease => Sys2Proof.Machine.execFenceRelease s
  | .coreReset n => Sys2Proof.Machine.execCoreReset n s
  | .core3Reset m => Sys2Proof.Machine.execCore3Reset m s
  | .dieWindowReset x => Sys2Proof.Machine.execDieWindowReset x s
  | .interruptSource src high => Sys2Proof.Machine.execInterruptSource src high s
  | .interruptDelivery n wfi ie => Sys2Proof.Machine.execInterruptDelivery n wfi ie s
  | .eoi n src => Sys2Proof.Machine.execEoi n src s
  | .thaw n => Sys2Proof.Machine.execThaw n s
  | .hold n on => Sys2Proof.Machine.execHold n on s
  | .holdTimeout n => Sys2Proof.Machine.execHoldTimeout n s
  | .icPendWrite n mask w data => Sys2Proof.Machine.execIcPendWrite n mask w data s
  | .moderationEnd src => Sys2Proof.Machine.execModerationEnd src s
  | .uartRxByte b stop => Sys2Proof.Machine.execUartRxByte b stop s
  | .uartBreak => Sys2Proof.Machine.execUartBreak s
  | .uartDataWrite m data => Sys2Proof.Machine.execUartDataWrite m data s
  | .uartDataRead m => Sys2Proof.Machine.execUartDataRead m s
  | .status => Sys2Proof.Machine.execStatus s
  | .attest nonce => Sys2Proof.Machine.execAttest nonce s
  | .selftest pass => Sys2Proof.Machine.execSelftest pass s
  | .entropyHealthFailure => Sys2Proof.Machine.execEntropyHealthFailure s
  | .enrol keyHash nonce approved auth => Sys2Proof.Machine.execEnrol keyHash nonce approved auth s
  | .peerList ids auth => Sys2Proof.Machine.execPeerList ids auth s
  | .wrapOut peer ownerHash kwk auth => Sys2Proof.Machine.execWrapOut peer ownerHash kwk auth s
  | .wrapIn sender pair kwk wrapped auth => Sys2Proof.Machine.execWrapIn sender pair kwk wrapped auth s
  | .ephemeralDrawn => Sys2Proof.Machine.execEphemeralDrawn s
  | .imageWrite img => Sys2Proof.Machine.execImageWrite img s
  | .imageWriteDone => Sys2Proof.Machine.execImageWriteDone s
  | .imageCommit auth => Sys2Proof.Machine.execImageCommit auth s
  | .zeroizeFlows auth => Sys2Proof.Machine.execZeroizeFlows auth s
  | .zeroizeKeys auth => Sys2Proof.Machine.execZeroizeKeys auth s
  | .zeroizeDevice auth => Sys2Proof.Machine.execZeroizeDevice auth s
  | .zeroizationDone => Sys2Proof.Machine.execZeroizationDone s
  | .zeroizeNFall => Sys2Proof.Machine.execZeroizeNFall s
  | .zeroizeNRise => Sys2Proof.Machine.execZeroizeNRise s
  | .sensorTrip ix => Sys2Proof.Machine.execSensorTrip ix s
  | .kaInit f msg => Sys2Proof.Machine.execKaInit f msg s
  | .kaResp f msg => Sys2Proof.Machine.execKaResp f msg s
  | .kaReady f msg => Sys2Proof.Machine.execKaReady f msg s
  | .kaAbort f msg => Sys2Proof.Machine.execKaAbort f msg s
  | .kaInitRepeat f => Sys2Proof.Machine.execKaInitRepeat f s
  | .kaTimeout f => Sys2Proof.Machine.execKaTimeout f s
  | .dpCtrlWrite m g data => Sys2Proof.Machine.execDpCtrlWrite m g data s
  | .dpBankSwap m g => Sys2Proof.Machine.execDpBankSwap m g s
  | .detectorWindowEnd g zeros => Sys2Proof.Machine.execDetectorWindowEnd g zeros s
  | .ptaEnter g => Sys2Proof.Machine.execPtaEnter g s
  | .ptaExit g => Sys2Proof.Machine.execPtaExit g s
  | .dpCaptureArm m g data => Sys2Proof.Machine.execDpCaptureArm m g data s
  | .dpCaptureDone g zeros => Sys2Proof.Machine.execDpCaptureDone g zeros s
  | .pmSecond => Sys2Proof.Machine.execPmSecond s
  | .counterOverflow b ix => Sys2Proof.Machine.execCounterOverflow b ix s
  | .counterLoRead m b ix snap => Sys2Proof.Machine.execCounterLoRead m b ix snap s
  | .glbTimeLoRead m => Sys2Proof.Machine.execGlbTimeLoRead m s
  | .pcGlbSnap m => Sys2Proof.Machine.execPcGlbSnap m s
  | .pcGlbFreeze m => Sys2Proof.Machine.execPcGlbFreeze m s
  | .pcGlbClear m => Sys2Proof.Machine.execPcGlbClear m s
  | .pcGlbTick => Sys2Proof.Machine.execPcGlbTick s
  | .blockFreeze m b on => Sys2Proof.Machine.execBlockFreeze m b on s
  | .blockClear m b => Sys2Proof.Machine.execBlockClear m b s
  | .reqRun m => Sys2Proof.Machine.execReqRun m s
  | .reqIdle m => Sys2Proof.Machine.execReqIdle m s
  | .reqSleep m => Sys2Proof.Machine.execReqSleep m s
  | .reqDeep m => Sys2Proof.Machine.execReqDeep m s
  | .reqOff m => Sys2Proof.Machine.execReqOff m s
  | .entryWindow => Sys2Proof.Machine.execEntryWindow s
  | .stateTransitionDone => Sys2Proof.Machine.execStateTransitionDone s
  | .hostAccessWake doorbell => Sys2Proof.Machine.execHostAccessWake doorbell s
  | .wakeTimerExpiry => Sys2Proof.Machine.execWakeTimerExpiry s
  | .wakeEdge => Sys2Proof.Machine.execWakeEdge s
  | .wakeLevel => Sys2Proof.Machine.execWakeLevel s
  | .lightDetect g level => Sys2Proof.Machine.execLightDetect g level s
  | .linkSignalWake j => Sys2Proof.Machine.execLinkSignalWake j s
  | .offWake => Sys2Proof.Machine.execOffWake s
  | .regionGate m g st => Sys2Proof.Machine.execRegionGate m g st s
  | .regionReady g => Sys2Proof.Machine.execRegionReady g s
  | .lingerExpiry g => Sys2Proof.Machine.execLingerExpiry g s
  | .padRelease m regions dev => Sys2Proof.Machine.execPadRelease m regions dev s
  | .avsStep n target => Sys2Proof.Machine.execAvsStep n target s
  | .readVoutPoll n code => Sys2Proof.Machine.execReadVoutPoll n code s
  | .avsStepTimeout n => Sys2Proof.Machine.execAvsStepTimeout n s
  | .bcRead fr => Sys2Proof.Machine.execBcRead fr s
  | .bcWrite fr => Sys2Proof.Machine.execBcWrite fr s
  | .faultAssert x ix => Sys2Proof.Machine.execFaultAssert x ix s
  | .faultStatusClear m x ix => Sys2Proof.Machine.execFaultStatusClear m x ix s
  | .faultInject m maintenance x ix => Sys2Proof.Machine.execFaultInject m maintenance x ix s
  | .collectorClockLoss => Sys2Proof.Machine.execCollectorClockLoss s
  | .correctedError x => Sys2Proof.Machine.execCorrectedError x s
  | .uncorrectableError mem => Sys2Proof.Machine.execUncorrectableError mem s
  | .hubDatapathReset m => Sys2Proof.Machine.execHubDatapathReset m s
  | .hubDatapathResetEnd => Sys2Proof.Machine.execHubDatapathResetEnd s
  | .fullCalibration m regions refsOk => Sys2Proof.Machine.execFullCalibration m regions refsOk s
  | .fullCalibrationEnd g measured temp => Sys2Proof.Machine.execFullCalibrationEnd g measured temp s
  | .burnishSample g temp refsOk => Sys2Proof.Machine.execBurnishSample g temp refsOk s
  | .calStoreDone readBack => Sys2Proof.Machine.execCalStoreDone readBack s
  | .powerOnReset => Sys2Proof.Machine.execPowerOnReset s
  | .resetNFall => Sys2Proof.Machine.execResetNFall s
  | .resetNRise failed katFail => Sys2Proof.Machine.execResetNRise failed katFail s
  | .bootComplete => Sys2Proof.Machine.execBootComplete s
  | .deviceResetCommand m => Sys2Proof.Machine.execDeviceResetCommand m s
  | .regionReset m g => Sys2Proof.Machine.execRegionReset m g s
  | .laneSignalReturn l => Sys2Proof.Machine.execLaneSignalReturn l s
  | .pcsAlignmentGain p => Sys2Proof.Machine.execPcsAlignmentGain p s
  | .suppliesRemoved => Sys2Proof.Machine.execSuppliesRemoved s
  | .ringEngineReset e => Sys2Proof.Machine.execRingEngineReset e s
  | .linkAgentReset => Sys2Proof.Machine.execLinkAgentReset s
  | .dieWindowResetEnd x => Sys2Proof.Machine.execDieWindowResetEnd x s
  | .uartByteSent => Sys2Proof.Machine.execUartByteSent s

end Sys2Proof.Machine
end

