-- ==== Sys2Proof/Machine/Tick.lean ====
section
/-!
DEFINITION. One microsecond with no command waiting (log entry 1): the capture tick of R223 with what R482 does at it, and what
runs with time: the capture-island time (R27), cycle counters and core slots (R476, R478), the wake timer (R491), the slews of
R199 and R352, band-set time (R375), and a capture that waits for buffers (R408).
-/
namespace Sys2Proof.Machine
open RegMap

/-- `v` moved towards `target` by at most `step`. -/
def approach (step : Nat) (target v : Int) : Int :=
  if v < target then min target (v + step) else max target (v - step)

/-- The island clock of counter block `b` runs: in RUN and IDLE, outside gated regions, and with the clock of its core. -/
def Dev.blockClock (d : Dev) (b : Nat) : Bool :=
  decide (d.pwrState < 2) && (decide (48 ≤ b) || decide (d.regState (b / 6) = 0)) &&
    (!decide (52 ≤ b ∧ b < 56) || ((d.core (b - 52)).running && (d.core (b - 52)).clock))

/-- The cycles of one microsecond at every block. -/
def Dev.tickCounters (d : Dev) : Dev :=
  let d1 := each (List.range 66) (fun b d => if d.blockClock b then d.pcCycles b (d.pcMhz b) else d) d
  each (List.range 4) (fun k d => if d.blockClock (52 + k) && !d.pcFrozen (52 + k) then d.coreSlots k 1000 else d) d1

/-- The wake timer counts down in ms while PWR_CFG.ten is 1. -/
def Dev.tickTimer (d : Dev) : Dev :=
  if !d.bit aPwrCfg 4 || decide (d.reg 0x2014 = 0) then d
  else if 1 < d.pw.msLeft then d.onPw fun p => { p with msLeft := p.msLeft - 1 }
  else
    let d1 := (d.setReg 0x2014 (d.reg 0x2014 - 1)).onPw fun p => { p with msLeft := 1000 }
    if d1.reg 0x2014 = 0 then d1.timerExpire else d1

/-- The digital frequency shift of an enabled carrier slews by 10 MHz per ms. -/
def Dev.tickFofs (d : Dev) : Dev :=
  each (d.carriers.map fun e => e.1) (fun c d =>
    if d.cEnabled c then
      d.onCarrier c fun k => { k with fofsNow := approach 1 (100 * Fld.int ⟨16, 12⟩ (d.actReg (aCarrFreq c))) k.fofsNow }
    else d) d

/-- The output time counter advances, and slews by TM_SLEW.rate towards its target. -/
def Dev.tickSlew (d : Dev) : Dev :=
  let l := approach (d.actFld 0x4098 ⟨0, 10⟩) 0 d.tm.lead
  let d1 := d.onTm fun t => { t with counter := t.counter + 10000000000 + (l - t.lead), lead := l }
  if l = d.tm.lead then d1 else d1.slewUpdate

/-- Band-set time advances by 4,000 intervals, and by 1 ps of a correction still to be slewed. -/
def Dev.tickBand (d : Dev) : Dev :=
  let b := d.bs
  let step : Int := if 0 < b.slew then 1 else if b.slew < 0 then -1 else 0
  let ps : Int := b.time.toNat * 250 + b.frac + 1000000 + step
  { d with bs := { b with time := BitVec.ofNat 64 (ps.toNat / 250), frac := ps.toNat % 250, slew := b.slew - step } }

/-- The blocks of 496.48 ns of every Registration link, counted on band-set time (R361, log entry 110). -/
def Dev.tickLinks (d : Dev) : Dev :=
  let ps (d : Dev) : Nat := d.bs.time.toNat * 250 + d.bs.frac
  let d1 := d.tickBand
  each (List.range (ps d1 / 496480 - ps d / 496480)) (fun _ d => each (List.range 3) (fun j d => d.sendBlock j) d) d1

/-- One microsecond. In reset and in OFF nothing runs; in SLEEP the capture ticks are counted on without a break, in DEEP they
stop with the timing core (R223, R578). -/
def Dev.tick (d : Dev) : Dev :=
  if d.boot = .held ∨ d.boot = .off then d
  else
    let d1 := { d with time := d.time + 1000 }.tickTimer
    let d2 : Dev := if d1.pwrState < 3 then { d1.tickSlew.tickLinks with capTick := d1.capTick + 1 } else d1
    if d2.pwrState < 2 then d2.tickCounters.tickFofs.pcGlbTick.captureFlush else d2

end Sys2Proof.Machine
end

