-- ==== Sys2Proof/Machine/Step.lean ====
section
/-!
DEFINITION. The step: the command at the front of the queue runs with the queue's rest; on an empty queue one microsecond passes
(log entry 1). No row of the table spells its command in bits, so no word puts a command into the queue.
-/
namespace Sys2Proof.Machine

def step (s : State) : Host.Outcome State Fault Refusal :=
  match s.pending with
  | [] => .next (s.on Dev.tick)
  | c :: rest => exec c { s with pending := rest }

/-- No word spells a command: the state is unchanged. -/
def State.withFetchWord (s : State) (_nbits _w : Nat) : State := s

end Sys2Proof.Machine
end

