-- ==== Sys2Proof/Decode.lean ====
section
/-!
DEFINITION. The decoder: the table of operations gives no row any bits, so no word spells a command (R8, R29: a command is an
access, an event or a message, not an encoded instruction).
-/
namespace Sys2Proof

/-- The command that a word spells by the table's bits: none, for no row gives bits. -/
def decodeTableWord (_nbits _w : Nat) : Option Instr := none

end Sys2Proof
end

