-- ==== Sys2Proof/Safety.lean ====
section
/-!
DEFINITION. The terms in which claims about the RB48 are stated: what a command answers, what it leaves as it was, when an
access reaches its register, and the invariant of the switch's memory.
-/
namespace Sys2Proof.Machine
open RegMap

/-! What a command answers. -/

/-- Command `i` answers a next state, of which `P` holds. -/
def Runs (i : Instr) (s : State) (P : State → Prop) : Prop := ∃ t, exec i s = .next t ∧ P t

/-! What a command leaves as it was. -/

/-- The parts of State that the claims name: everything beside them is named by no part. -/
inductive Part where
  | time | free | capTick | bmfAt | regs | act | actRx | ic | lines | modBusy | clus | dies | lanes | ports | carriers | txm | rxm | otu | flows | spot | oh
  | banks | dpBuf | ofs | bridges | binFence | sw | chg | regions | tm | links | bs | tenants | rings | engines | numVfs | cap
  | telem | mx | cores | uart | tc | pcs | pcGlb | timeLatch | pw | fc | bn | boot | alive | safe | pins | proof | bc | mem | out
  | conn | pools | pending
  deriving DecidableEq, Repr

/-- The state with one part emptied. -/
def State.forget (p : Part) (s : State) : State :=
  match p with
  | .conn => { s with conn := {} }
  | .pools => { s with pools := [] }
  | .pending => { s with pending := [] }
  | .time => s.on fun d => { d with time := 0 }
  | .free => s.on fun d => { d with free := 0 }
  | .capTick => s.on fun d => { d with capTick := 0 }
  | .bmfAt => s.on fun d => { d with bmfAt := 0 }
  | .regs => s.on fun d => { d with regs := [] }
  | .act => s.on fun d => { d with act := [] }
  | .actRx => s.on fun d => { d with actRx := [] }
  | .ic => s.on fun d => { d with ic := [] }
  | .lines => s.on fun d => { d with lines := [] }
  | .modBusy => s.on fun d => { d with modBusy := [] }
  | .clus => s.on fun d => { d with clus := [] }
  | .dies => s.on fun d => { d with dies := [] }
  | .lanes => s.on fun d => { d with lanes := [] }
  | .ports => s.on fun d => { d with ports := [] }
  | .carriers => s.on fun d => { d with carriers := [] }
  | .txm => s.on fun d => { d with txm := [] }
  | .rxm => s.on fun d => { d with rxm := [] }
  | .otu => s.on fun d => { d with otuMfas := 0, otuOmfi := 0 }
  | .flows => s.on fun d => { d with flows := [] }
  | .spot => s.on fun d => { d with spotFree := [] }
  | .oh => s.on fun d => { d with oh := [] }
  | .banks => s.on fun d => { d with banks := [] }
  | .dpBuf => s.on fun d => { d with dpBuf := [] }
  | .ofs => s.on fun d => { d with ofsLast := [], ofsSeq := 0 }
  | .bridges => s.on fun d => { d with bridgeRetry := [] }
  | .binFence => s.on fun d => { d with binFence := [] }
  | .sw => s.on fun d => { d with sw := {} }
  | .chg => s.on fun d => { d with chg := none }
  | .regions => s.on fun d => { d with regions := [] }
  | .tm => s.on fun d => { d with tm := {} }
  | .links => s.on fun d => { d with links := [] }
  | .bs => s.on fun d => { d with bs := {} }
  | .tenants => s.on fun d => { d with tenants := [] }
  | .rings => s.on fun d => { d with rings := [] }
  | .engines => s.on fun d => { d with engines := [] }
  | .numVfs => s.on fun d => { d with numVfs := 0 }
  | .cap => s.on fun d => { d with capLeft := 0, capCount := 0 }
  | .telem => s.on fun d => { d with telem := none }
  | .mx => s.on fun d => { d with mx := {} }
  | .cores => s.on fun d => { d with cores := [] }
  | .uart => s.on fun d => { d with uart := {} }
  | .tc => s.on fun d => { d with tc := {} }
  | .pcs => s.on fun d => { d with pcs := [] }
  | .pcGlb => s.on fun d => { d with pcGlbFrz := false, pcGlbClr := false }
  | .timeLatch => s.on fun d => { d with timeLatch := [] }
  | .pw => s.on fun d => { d with pw := {} }
  | .fc => s.on fun d => { d with fc := {} }
  | .bn => s.on fun d => { d with bn := {} }
  | .boot => s.on fun d => { d with boot := .held, readyDue := false, core3Bad := false }
  | .alive => s.on fun d => { d with alive := .still }
  | .safe => s.on fun d => { d with safe := false }
  | .pins => s.on fun d => { d with resetLow := true, pwrReq := true }
  | .proof => s.on fun d => { d with proof := [] }
  | .bc => s.on fun d => { d with bcUp := false, bcRegs := [] }
  | .mem => s.on fun d => { d with mem := [] }
  | .out => s.on fun d => { d with out := [] }

/-- `s` and `t` differ in the named parts at most. -/
def OnlyIn (ps : List Part) (s t : State) : Prop := ps.foldl (fun s p => s.forget p) s = ps.foldl (fun s p => s.forget p) t

/-- The parts that an event record touches: the ring, what has been sent, and the count of free values (R27, R397). -/
def recordParts : List Part := [.rings, .out, .free]

/-- Every register but those at `as` reads as before. -/
def RegsBut (as : List Nat) (s t : State) : Prop := ∀ a, a ∉ as → t.dev.reg a = s.dev.reg a

/-! What a command sends. -/

/-- The event ring of tenant `n` takes a record: it is enabled and not full (R397, R398). -/
abbrev EventRoom (s : State) (n : Nat) : Prop :=
  (s.dev.ring n .event).en = true ∧ (s.dev.ring n .event).used < 2 ^ (s.dev.ring n .event).lsize

/-- Something sent between `s` and `t` is `o`. -/
def Sends (s t : State) (o : Out) : Prop := ∃ later earlier, t.dev.out = later ++ o :: earlier ∧ s.dev.out <:+ earlier

/-- Record `rec` went to the event ring of tenant `n`. -/
def Recorded (s t : State) (n : Nat) (rec : Rec) : Prop := ∃ i q p st, Sends s t (.record n .event i q p st rec)

/-- The granted command of tenant `n` completed with status `st` (R400): its ring has none granted, and unless its write-backs are
discarded or it was cancelled too late its status was written back. -/
def Completed (s t : State) (n st : Nat) : Prop :=
  (t.dev.ring n .command).granted = none ∧
    ∀ g, (s.dev.ring n .command).granted = some g → g.drop = false → g.late = false →
      Sends s t (.st n .command g.idx (BitVec.ofNat 8 st))

/-! When an access reaches its register. -/

/-- Master `m` may access a device that is awake: its BARs answer a host, the master is not fenced, and fewer than 16 transactions of it
are outstanding (R388, R412, R417, R422, R490). -/
def State.open (s : State) (m : Master) : Bool :=
  (m != .pcie || s.dev.barOpen) && !s.dev.masterFenced m && !s.dev.asleep && decide (s.dev.outstanding m < 16)

/-- The register that an access of master `m` at `a` reaches: the access is open to the master, no broadcast write of the master that
waits reaches it too, and the register's target answers (R35, R388, R412, R422, R490, R546, R547). -/
def State.reaches (s : State) (m : Master) (a : Nat) : Option (RegDesc × List Nat) :=
  if s.open m && !s.dev.behindBroadcast ⟨m, BitVec.ofNat 26 a, none, none⟩ then
    match s.dev.target m a with
    | .reg e is => some (e, is)
    | _ => none
  else none

/-- A write of `w` at `a` is reached and not rejected. -/
abbrev Accepted (s : State) (m : Master) (a : Nat) (w : Word) (x : Aux := {}) : Prop :=
  ((s.reaches m a).any fun e => !s.dev.writeBad m e.1 e.2 a w x) = true

/-- A write of `w` at `a` is reached and rejected. -/
abbrev Rejected (s : State) (m : Master) (a : Nat) (w : Word) (x : Aux := {}) : Prop :=
  ((s.reaches m a).any fun e => s.dev.writeBad m e.1 e.2 a w x) = true

/-- A read at `a` is reached. -/
abbrev Readable (s : State) (m : Master) (a : Nat) : Prop := (s.reaches m a).isSome = true

/-! The invariant of connection memory and the carrier base tables (R63, R70). -/

/-- A key names an entry of a page: page 0 or 1, either direction, an index below `n`. -/
def keyOk (n k : Nat) : Bool := decide (k < 2 ^ 16) && decide (k % 2 ^ 14 < n)

/-- Connection memory is in canonical form; it holds 5,120 entries for each page and direction and a base for each of 48 carriers,
no reserved bit is set, every flow slot index lies below 320 and every base below 5,120. -/
def Conn.wf (m : Conn) : Bool :=
  SMap.wf (fun _ => 0) m.pages && SMap.wf (fun _ => 0) m.bases &&
    m.pages.all (fun e => keyOk 5120 e.1 && decide (e.2.toNat < 2 ^ 22) && decide (entryIdx e.2 < 320)) &&
    m.bases.all (fun e => keyOk 48 e.1 && decide (e.2.toNat < 5120))

/-- The invariant that every step keeps. -/
abbrev Inv (s : State) : Prop := s.conn.wf = true

end Sys2Proof.Machine
end

