-- ==== Sys2Proof/Certificates/Slice0/Obligations.lean ====
section
/-!
DEFINITION. The statements about the RB48, family by family. `Runs i s P` says that command `i` answers a next state of which `P`
holds; `OnlyIn ps s t` that nothing but the named parts of the state changed; `RegsBut as s t` that no register beside those at
`as` changed.
-/
open Sys2Proof Sys2Proof.Machine Sys2Proof.Machine.RegMap

/-! The block. -/

/-- A step runs the command at the front of the queue on the state with the queue's rest. -/
def Obligations.StepRunsTheFrontCommand : Prop :=
  ∀ (c : Instr) (rest : List Instr) (s : State),
    step { s with pending := c :: rest } = exec c { s with pending := rest }

/-- Every command answers a next state, in every state, and leaves the queue as it is. -/
def Obligations.EveryCommandCompletes : Prop :=
  ∀ (c : Instr) (s : State), Runs c s fun t => t.pending = s.pending

/-- With no command waiting one microsecond passes (log entry 1, the model's choice): time goes on by 1,000 ns and the capture
tick by one in RUN, IDLE and SLEEP, in no state that is held in reset or OFF, and connection memory and the pools stand. -/
def Obligations.IdleStepIsOneMicrosecond : Prop :=
  ∀ s : State, s.pending = [] → ∃ t, step s = .next t ∧ t.conn = s.conn ∧ t.pools = s.pools ∧ t.pending = [] ∧
    (s.dev.boot = .held ∨ s.dev.boot = .off → t = s) ∧
    (s.dev.boot ≠ .held → s.dev.boot ≠ .off → t.dev.time = s.dev.time + 1000 ∧
      t.dev.capTick = if s.dev.pwrState < 3 then s.dev.capTick + 1 else s.dev.capTick)

/-- Connection memory and the carrier base tables are in canonical form right after reset, with nothing listed. -/
def Obligations.InvariantAtReset : Prop :=
  Inv State.reset ∧ State.reset.conn.pages = [] ∧ State.reset.conn.bases = [] ∧ State.reset.pending = []

/-- Every step keeps connection memory and the carrier base tables in canonical form, within 5,120 slots and 48 carriers of two
pages and two directions, with no reserved bit set, every flow slot index below 320 and every base below 5,120. -/
def Obligations.StepKeepsTheInvariant : Prop :=
  ∀ s t : State, Inv s → step s = .next t → Inv t


/-- The commands that reach connection memory: page copies, flow commands, writes and the rows that serve writes which waited,
and the resets of the whole device. -/
def reachesConn : Instr → Bool
  | .pageCopyDone | .flowCreate _ _ _ | .flowDelete _ | .registerWrite _ _ _ _ | .broadcastWrite _ _ _ | .stateTransitionDone
  | .regionReady _ | .dieWindowResetEnd _ | .powerOnReset | .suppliesRemoved | .resetNFall | .zeroizationDone
  | .deviceResetCommand _ => true
  | _ => false

/-- Connection memory and the carrier base tables change by no other command: no event, message or register of another family
reaches them (R16, R71). -/
def Obligations.ConnectionMemoryFrame : Prop :=
  ∀ (c : Instr) (s : State), reachesConn c = false → Runs c s fun t => t.conn = s.conn

/-! Accesses, clusters and dies (chapters 0, 1). -/

/-- A rejected write changes no register but the REJ_STAT of the window that holds the register, whose rej is set (more when rej was
set already, the word of the first one otherwise), and sends one record with the address and the data to the owner's event ring. -/
def Obligations.RejectedWriteIsRecorded : Prop :=
  ∀ (s : State) (m : Master) (a : Addr) (w : Word) (win : Window),
    windowOf a.toNat = some win → Rejected s m a.toNat w →
    Runs (.registerWrite m .bar0 a w) s fun t =>
      t.dev.bit win.rej 0 = true ∧ RegsBut [win.rej] s t ∧ OnlyIn (.regs :: recordParts) s t ∧
      (s.dev.bit win.rej 0 = false → t.dev.fld win.rej ⟨8, 20⟩ = (a.toNat - win.base) / 4 % 2 ^ 20 ∧
        t.dev.bit win.rej 1 = s.dev.bit win.rej 1) ∧
      (s.dev.bit win.rej 0 = true → t.dev.bit win.rej 1 = true ∧ t.dev.fld win.rej ⟨8, 20⟩ = s.dev.fld win.rej ⟨8, 20⟩) ∧
      (EventRoom s 0 → Recorded s t 0 ⟨.reject, 0, win.die, 0, 0, [a.toNat, w.toNat]⟩)

/-- An access that is no naturally aligned word is discarded and counted, and a read then completes with all ones. -/
def Obligations.MisalignedAccessIsDiscarded : Prop :=
  ∀ (s : State) (bar : Bar) (read : Bool), s.dev.barOpen = true →
    Runs (.misalignedAccess bar read) s fun t =>
      t.dev.fld aHiDisc ⟨0, 16⟩ = min 0xFFFF (s.dev.fld aHiDisc ⟨0, 16⟩ + 1) ∧ RegsBut [aHiDisc] s t ∧
      OnlyIn [.regs, .out] s t ∧
      t.dev.out = if read then .reply .pcie 0xFFFFFFFF#32 :: s.dev.out else s.dev.out

/-- A write of cluster configuration changes the shadow copy alone: the stored word is the one its access codes give, and every
active word stands. A write of the scratch register stores the word. -/
def Obligations.ConfigurationWritesTheShadow : Prop :=
  (∀ (s : State) (m : Master) (a : Addr) (w : Word) (e : RegDesc) (is : List Nat),
    s.reaches m a.toNat = some (e, is) → s.dev.writeBad m e is a.toNat w {} = false → e.cl ≠ .none →
    Runs (.registerWrite m .bar0 a w) s fun t =>
      t.dev.reg a.toNat = RegMap.written e (s.dev.reg a.toNat) w ∧ t.dev.act = s.dev.act ∧ t.dev.actRx = s.dev.actRx ∧
      RegsBut [a.toNat] s t ∧ t.conn = s.conn) ∧
  (∀ (s : State) (m : Master) (w : Word), Accepted s m 4 w →
    Runs (.registerWrite m .bar0 4 w) s fun t => t.dev.reg 4 = w ∧ RegsBut [4] s t ∧ OnlyIn [.regs] s t)

/-- The word at offset `off` of every carrier in `ms` can be written with `w`. -/
abbrev everyMember (s : State) (m : Master) (ms : List Nat) (off : Nat) (w : Word) : Prop :=
  ∀ c ∈ ms, s.dev.memberSkipped 0 c true = false ∧ Accepted s m (carrBase c + off) w

/-- A broadcast through a carrier aperture: a write that no member rejects is stored at every member; a read answers with the
lowest-numbered member's word and records a disagreement; a group with an empty mask is only noted. -/
def Obligations.BroadcastsReachEveryMember : Prop :=
  (∀ (s : State) (m : Master) (i : Fin 29) (w : Word),
    s.dev.apMembers i ≠ [] → everyMember s m (s.dev.apMembers i) 0x10 w →
    Runs (.broadcastWrite m (BitVec.ofNat 26 (0x2000000 + i * 0x20000 + 0x10)) w) s fun t =>
      (∀ c ∈ s.dev.apMembers i, t.dev.fld (aCarrSym c) ⟨0, 11⟩ = Fld.get ⟨0, 11⟩ w ∧
        t.dev.fld (aCarrSym c) ⟨16, 5⟩ = Fld.get ⟨16, 5⟩ w) ∧
      RegsBut ((s.dev.apMembers i).map aCarrSym) s t ∧ OnlyIn [.regs] s t) ∧
  (∀ (s : State) (m : Master) (i : Fin 29) (v : Word),
    s.dev.apMembers i ≠ [] → (∀ c ∈ s.dev.apMembers i, s.dev.memberSkipped 0 c false = false ∧ Readable s m (carrBase c + 0x10)) →
    s.dev.reg (aCarrSym ((s.dev.apMembers i).headD 0)) = v →
    Runs (.broadcastRead m (BitVec.ofNat 26 (0x2000000 + i * 0x20000 + 0x10))) s fun t =>
      t.dev.out = .reply m v :: s.dev.out ∧ RegsBut [aBcStat] s t ∧ OnlyIn [.regs, .out] s t ∧
      ((∃ c ∈ s.dev.apMembers i, s.dev.reg (aCarrSym c) ≠ v) → t.dev.bit aBcStat 0 = true ∧ t.dev.fld aBcStat ⟨8, 5⟩ = i) ∧
      ((∀ c ∈ s.dev.apMembers i, s.dev.reg (aCarrSym c) = v) → t.dev.reg aBcStat = s.dev.reg aBcStat)) ∧
  (∀ (s : State) (m : Master) (n : Fin 16),
    s.open m = true → s.dev.groupMembers n = [] →
    Runs (.broadcastRead m (BitVec.ofNat 26 (0x2000000 + (13 + n) * 0x20000 + 0x10))) s fun t =>
      t.dev.bit aBcStat 1 = true ∧ RegsBut [aBcStat] s t ∧ OnlyIn [.regs, .out] s t ∧ t.dev.out = .reply m 0#32 :: s.dev.out)

/-- A commit is requested, refused at its boundary by the consistency check, or taken; a cluster reset holds until it ends. -/
def Obligations.CommitAndClusterReset : Prop :=
  (∀ (s : State) (m : Master) (k : Cluster), Accepted s m (cmtAddr k) 1 → s.dev.cmtPending k = false →
    Runs (.commitRequest m k) s fun t =>
      t.dev.bit (cmtAddr k) 0 = true ∧ t.dev.cmtPending k = true ∧ RegsBut [cmtAddr k] s t ∧ OnlyIn [.regs, .clus] s t) ∧
  (∀ (s : State) (m : Master) (k : Cluster) (req : Bool), Accepted s m (cmtAddr k) (if req then 9 else 8) →
    Runs (.clusterReset m k req) s fun t =>
      (t.dev.cluster (clusterCode k)).reset = true ∧ t.dev.reg (cmtAddr k) = 0 ∧
      (t.dev.cluster (clusterCode k)).locked = false ∧ t.conn = s.conn) ∧
  (∀ (s : State) (k : Cluster),
    Runs (.clusterResetEnd k) s fun t => (t.dev.cluster (clusterCode k)).reset = false ∧ OnlyIn [.clus] s t ∧
      ∀ j ≠ clusterCode k, t.dev.cluster j = s.dev.cluster j)

/-- Clusters that take their whole shadow copy at one boundary. -/
abbrev wholeCluster (k : Cluster) : Prop :=
  (match k with
    | .pool _ | .framer | .switch => true
    | _ => false) = true

/-- At its boundary a cluster whose commit is pending takes every shadow field, counts the commit and ends the request. -/
def Obligations.CommitTakesTheWholeShadow : Prop :=
  ∀ (s : State) (k : Cluster) (side : Side),
    wholeCluster k → s.dev.cmtPending k = true → (s.dev.cluster (clusterCode k)).reset = false →
    s.dev.check [k] k false = true →
    Runs (.commitBoundary k side) s fun t =>
      (∀ a e is, find table a = some (e, is) → ownerCluster e is = some k → t.dev.actReg a = s.dev.reg a) ∧
      (∀ a e is, find table a = some (e, is) → ownerCluster e is ≠ some k → t.dev.actReg a = s.dev.actReg a) ∧
      t.dev.cmtPending k = false ∧
      t.dev.fld (cmtAddr k) ⟨16, 16⟩ = (s.dev.fld (cmtAddr k) ⟨16, 16⟩ + 1) % 2 ^ 16 ∧ t.conn = s.conn

/-- At the boundary of a pending commit whose check fails the active copy is kept, refused is set and one event is raised on the
owner's event ring. -/
def Obligations.CommitCheckRefuses : Prop :=
  ∀ (s : State) (k : Cluster) (side : Side),
    s.dev.cmtPending k = true → (s.dev.cluster (clusterCode k)).reset = false →
    (s.dev.cluster (clusterCode k)).txDone = false → (s.dev.cluster (clusterCode k)).rxDone = false →
    (s.dev.cluster (clusterCode k)).due = false → s.dev.check [k] k false = false →
    Runs (.commitBoundary k side) s fun t =>
      t.dev.act = s.dev.act ∧ t.dev.actRx = s.dev.actRx ∧ t.dev.bit (cmtAddr k) 2 = true ∧ t.dev.cmtPending k = false ∧
      RegsBut [cmtAddr k] s t ∧ OnlyIn (.regs :: .flows :: recordParts) s t ∧
      (EventRoom s 0 → Recorded s t 0 ⟨.other .commitRefused, 0, clusterDie k, 0, clusterCode k, []⟩)

/-- The class of a source is one the manual permits a bridge or supply source: LOG or SAFE (Table 19-1). -/
abbrev logOrSafe (s : State) (x i : Nat) : Prop := s.dev.faultClass x i = 0 ∨ s.dev.faultClass x i = 4

/-- Bridges, dies and fences. -/
def Obligations.DiesBridgesAndFences : Prop :=
  (∀ (s : State) (x : Fin 16), x.val ≠ 12 → s.dev.dieGated x = false → (s.dev.die x).lost = false →
    logOrSafe s x 0 → logOrSafe s 12 0 →
    Runs (.dieLossByCredit x) s fun t =>
      (t.dev.die x).lost = true ∧ t.dev.faultStatus x 0 = true ∧ t.dev.faultStatus 12 0 = true ∧ t.conn = s.conn) ∧
  (∀ (s : State) (x : Fin 16), x.val ≠ 12 → (s.dev.die x).lost = false → logOrSafe s x 1 →
    Runs (.dieLossBySupply x) s fun t =>
      (t.dev.die x).lost = true ∧ t.dev.faultStatus x 1 = true ∧ t.conn = s.conn) ∧
  (∀ (s : State), (s.dev.die 12).lost = false →
    Runs (.dieLossBySupply 12) s fun t => (t.dev.die 12).lost = true ∧ t.dev.safe = true) ∧
  (∀ (s : State) (x y : Fin 16) (n : Option (Fin 48)), s.dev.bridgeRetried (16 * x.val + y.val) = false →
    Runs (.bridgeTimeout x y n) s fun t =>
      t.dev.bridgeRetried (16 * x.val + y.val) = true ∧ OnlyIn [.bridges] s t) ∧
  (∀ (s : State) (x y : Fin 16) (n : Option (Fin 48)), s.dev.bridgeRetried (16 * x.val + y.val) = true →
    logOrSafe s x 0 → logOrSafe s y 0 →
    Runs (.bridgeTimeout x y n) s fun t =>
      t.dev.faultStatus x 0 = true ∧ t.dev.faultStatus y 0 = true ∧ t.dev.bridgeRetried (16 * x.val + y.val) = false) ∧
  (∀ (s : State) (m : Fin 4) (u : Fin 448),
    (∀ e ∈ (s.pool m).units, e.1 ≠ u) → (∀ e ∈ (s.pool m).held, e.1 ≠ u) → logOrSafe s (8 + m) 20 →
    Runs (.unitFence (.decoder m u)) s fun t => t.dev.unitFenced m u = true ∧ t.pools = s.pools ∧ t.conn = s.conn) ∧
  (∀ (s : State) (c : Fin 48) (b : Fin 4096),
    Runs (.unitFence (.bin c b)) s fun t => (c.val, b.val) ∈ t.dev.binFence ∧ OnlyIn [.binFence] s t)

/-! Client ports (chapter 2). -/

/-- PORT_STAT_p of port `p`. -/
def portUp (t : State) (p : Nat) : Bool := t.dev.bit (aPortStat p) 0

/-- The eye registers of the lanes that a write of `w` to PORT_MAP_p can retrain: those the port held and those it takes. -/
def retrainedEyes (s : State) (p : Nat) (w : Word) : List Nat :=
  (s.dev.portLanes p ++ mapLanes w).flatMap fun l => [laneBase l + 8, laneBase l + 12]

/-- Setting up a port: PORT_MAP_p and LANE_CTRL act when written: enabling starts training on the lanes the port takes and replaces
the mapped stream, disabling ends training on the lanes it held. A lane becomes ready and trains, having obeyed its module's tap
requests in order; the port comes up once all its lanes are trained and aligned. -/
def Obligations.PortBringUp : Prop :=
  (∀ (s : State) (m : Master) (p : Fin 64) (w : Word), Accepted s m (aPortMap p) w →
    Runs (.portMapWrite m p w) s fun t =>
      t.dev.fld (aPortMap p) ⟨0, 11⟩ = Fld.get ⟨0, 11⟩ w ∧ RegsBut (aPortMap p :: aPortStat p :: retrainedEyes s p w) s t ∧
      OnlyIn [.regs, .lanes, .ports] s t ∧
      (s.dev.portEn p = false → w.getLsbD 0 = true → (t.dev.port p).replaced = true ∧ (t.dev.port p).aligned = false ∧
        ∀ l ∈ mapLanes w, (t.dev.lane l).trained = false) ∧
      (s.dev.portEn p = true → w.getLsbD 0 = false → portUp t p = false ∧
        ∀ l ∈ s.dev.portLanes p, (t.dev.lane l).trained = false)) ∧
  (∀ (s : State) (m : Master) (l : Fin 128) (w : Word), Accepted s m (laneBase l) w →
    Runs (.laneCtrlWrite m l w) s fun t =>
      t.dev.fld (laneBase l) ⟨0, 3⟩ = Fld.get ⟨0, 3⟩ w ∧ RegsBut [laneBase l, laneBase l + 8, laneBase l + 12] s t ∧
      OnlyIn [.regs, .lanes] s t ∧ (w.getLsbD 0 = true → t.dev.lane l = {})) ∧
  (∀ (s : State) (l : Fin 128), s.dev.lanePd l = false → s.dev.laneDead l = false →
    Runs (.laneReady l) s fun t => (t.dev.lane l).ready = true ∧ OnlyIn [.lanes] s t ∧
      ∀ j ≠ l.val, t.dev.lane j = s.dev.lane j) ∧
  (∀ (s : State) (l : Fin 128) (p : Nat) (far near : List TapAsk), (s.dev.lane l).ready = true →
    s.dev.portOfLane l = some p →
    Runs (.trainingComplete l far near) s fun t => (t.dev.lane l).trained = true ∧
      (t.dev.lane l).taps = far.foldl obeyTap (s.dev.lane l).taps ∧
      t.dev.out = (near.map fun a => Out.tapAsk l a).reverse ++ s.dev.out ∧ RegsBut [aPortStat p] s t ∧
      OnlyIn [.regs, .lanes, .out] s t ∧ ∀ j ≠ l.val, t.dev.lane j = s.dev.lane j) ∧
  (∀ (s : State) (p : Fin 64), s.dev.portEn p = true → s.dev.allTrained p = true → s.dev.anyLos p = false →
    s.dev.portLost p = false →
    Runs (.pcsAlignmentGain p) s fun t => (t.dev.port p).aligned = true ∧ portUp t p = true ∧ RegsBut [aPortStat p] s t ∧ OnlyIn [.regs, .ports] s t)

/-- An exceeded skew takes an enabled port down with its bits and replaces its mapped stream at once; a training that runs out of time sets train_fail with an event; a
restart leaves every lane of the port untrained and the port down. -/
def portComesDownRule : Prop :=
  ∀ (s : State) (p : Fin 64), s.dev.portEn p = true →
    Runs (.laneSkewExceeded p) s (fun t => portUp t p = false ∧ t.dev.bit (aPortStat p) 2 = true ∧
      t.dev.bit (aPortStat p) 4 = true ∧ (t.dev.port p).replaced = true ∧ RegsBut [aPortStat p] s t ∧ OnlyIn [.regs, .ports] s t) ∧
    (s.dev.allTrained p = false → Runs (.trainingTimeout p) s (fun t => t.dev.bit (aPortStat p) 3 = true ∧
      RegsBut [aPortStat p] s t ∧ OnlyIn (.regs :: recordParts) s t ∧
      (EventRoom s 0 →
        Recorded s t 0 ⟨.other .clientEvent, 0, 13 + s.dev.fld (aPortMap p) ⟨3, 7⟩ / 64, 0, p, []⟩))) ∧
    (s.dev.allTrained p = false → Runs (.trainingRestart p) s (fun t => portUp t p = false ∧
      (∀ l ∈ s.dev.portLanes p, (t.dev.lane l).trained = false) ∧ (t.dev.port p).aligned = false ∧
      (t.dev.port p).replaced = true ∧ OnlyIn [.regs, .lanes, .ports] s t))

/-- A lane that loses signal abandons its scan and takes its port down; its return clears the loss. -/
def laneSignalRule : Prop :=
  (∀ (s : State) (l : Fin 128), s.dev.lanePd l = false → s.dev.laneDead l = false →
    Runs (.laneLossOfSignal l) s fun t => (t.dev.lane l).los = true ∧ OnlyIn [.regs, .lanes] s t ∧
      t.dev.bit (laneBase l + 8) 0 = false ∧
      (s.dev.bit (laneBase l + 8) 0 = true → t.dev.bit (laneBase l + 12) 1 = true) ∧
      (∀ p, s.dev.portOfLane l = some p → portUp t p = false ∧ t.dev.bit (aPortStat p) 1 = true)) ∧
  (∀ (s : State) (l : Fin 128),
    Runs (.laneSignalReturn l) s fun t => (t.dev.lane l).los = false ∧ OnlyIn [.regs, .lanes] s t ∧
      ∀ j ≠ l.val, t.dev.lane j = s.dev.lane j)

/-- Ingress: the mapped stream of an enabled port is replaced while a condition of R59 lasts, and restored after all are gone. -/
def ingressReplacementRule : Prop :=
  (∀ (s : State) (p : Fin 64) (why : Ingress), s.dev.portEn p = true → (why = .los → s.dev.anyLos p = true) →
    Runs (.clientLocalFaultEnter p why) s fun t => (t.dev.port p).replaced = true ∧ OnlyIn [.regs, .ports] s t ∧
      RegsBut [aPortStat p] s t ∧ ∀ q ≠ p.val, t.dev.port q = s.dev.port q) ∧
  (∀ (s : State) (p : Fin 64), s.dev.portEn p = true → s.dev.anyLos p = false → (s.dev.port p).aligned = true →
    s.dev.portLost p = false →
    Runs (.clientFaultRestore p) s fun t => (t.dev.port p).replaced = false ∧ OnlyIn [.ports] s t ∧
      ∀ q ≠ p.val, t.dev.port q = s.dev.port q)

/-- Eye scans: a write starts one; on a blind lane it is abandoned at once; at its end the mismatches are shown, saturating. -/
def eyeScansRule : Prop :=
  (∀ (s : State) (m : Master) (x : EyeSite) (w : Word), Accepted s m (eyeCtrlAddr x) (w ||| 1) →
    Runs (.eyeScanStart m x w) s fun t =>
      (s.dev.eyeBlind x = false → t.dev.bit (eyeCtrlAddr x) 0 = true) ∧
      (s.dev.eyeBlind x = true → t.dev.bit (eyeCtrlAddr x) 0 = false ∧ t.dev.bit (eyeCtrlAddr x + 4) 1 = true) ∧
      RegsBut [eyeCtrlAddr x, eyeCtrlAddr x + 4] s t ∧ OnlyIn [.regs] s t) ∧
  (∀ (s : State) (x : EyeSite) (n : Nat), s.dev.bit (eyeCtrlAddr x) 0 = true →
    Runs (.eyeScanDone x n) s fun t =>
      t.dev.bit (eyeCtrlAddr x) 0 = false ∧ t.dev.bit (eyeCtrlAddr x + 4) 0 = true ∧
      t.dev.fld (eyeCtrlAddr x + 4) ⟨2, 30⟩ = min n 0x3FFFFFFF ∧
      RegsBut [eyeCtrlAddr x, eyeCtrlAddr x + 4] s t ∧ OnlyIn [.regs] s t)

/-- A port comes down and shows why when its lanes lose skew, training or signal; a lane's loss and return of signal. -/
def Obligations.PortStatusFollowsItsLanes : Prop :=
  portComesDownRule ∧ laneSignalRule

/-- Ingress replacement enters and leaves with its conditions, and eye scans run, are abandoned and end. -/
def Obligations.IngressReplacementAndEyeScans : Prop :=
  ingressReplacementRule ∧ eyeScansRule

/-! The switch and the change procedure (chapter 3). -/

/-- The swap that is armed is due at the ODU multiframe that starts. -/
abbrev swapDue (s : State) : Prop := s.dev.bit aSwCtrl 0 = true ∧ s.dev.reg aTxOmf + 1 = s.dev.reg aSwTgt

/-- An ODU multiframe advances TX_OMF, and takes the transmit swap that is armed for it and no other. -/
def Obligations.TransmitSwapAtItsMultiframe : Prop :=
  ∀ s : State, Runs .oduMultiframe s fun t =>
    t.dev.reg aTxOmf = s.dev.reg aTxOmf + 1 ∧ t.dev.actPage true = s.dev.actPage true ∧ t.conn = s.conn ∧
    (swapDue s → t.dev.actPage false = 1 - s.dev.actPage false ∧ t.dev.bit aSwCtrl 0 = false ∧
      t.dev.fld aSwStat ⟨16, 16⟩ = (s.dev.fld aSwStat ⟨16, 16⟩ + 1) % 2 ^ 16) ∧
    (¬ swapDue s → t.dev.actPage false = s.dev.actPage false ∧ t.dev.bit aSwCtrl 0 = s.dev.bit aSwCtrl 0)

/-- An arm that the page check or the lead turns away sets its bit for each condition that holds, raises one event, and changes
nothing; one that both let pass arms the swap. -/
def Obligations.ArmIsCheckedAtOnce : Prop :=
  ∀ (s : State) (m : Master),
    Accepted s m aSwCtrl ((s.dev.reg aSwCtrl &&& 4) ||| 1) →
    Runs (.swapArm m) s fun t =>
      t.conn = s.conn ∧
      (s.pageCheck (s.dev.standby false) false = true → leadOk 16 (s.dev.reg aSwTgt) (s.dev.reg aTxOmf) = true →
        t.dev.bit aSwCtrl 0 = true ∧ RegsBut [aSwCtrl] s t ∧ OnlyIn [.regs] s t) ∧
      (s.pageCheck (s.dev.standby false) false = false ∨ leadOk 16 (s.dev.reg aSwTgt) (s.dev.reg aTxOmf) = false →
        t.dev.bit aSwStat 2 = (s.dev.bit aSwStat 2 || !s.pageCheck (s.dev.standby false) false) ∧
        t.dev.bit aSwStat 3 = (s.dev.bit aSwStat 3 || !leadOk 16 (s.dev.reg aSwTgt) (s.dev.reg aTxOmf)) ∧
        RegsBut [aSwStat] s t ∧ OnlyIn (.regs :: recordParts) s t ∧
        (EventRoom s 0 → ∃ why, Recorded s t 0 ⟨.other why, 0, 12, 0, 0, []⟩))

/-- A page copy runs from its request to its end, and then standby holds what the active page holds, entry by entry and base by
base, while the active page stands; a receive part that was abandoned leaves the receive pages as they are. -/
def Obligations.PageCopyMakesStandbyTheActivePage : Prop :=
  (∀ (s : State) (m : Master), Accepted s m aSwCtrl ((s.dev.reg aSwCtrl &&& 4) ||| 2) →
    Runs (.pageCopy m) s fun t => t.dev.bit aSwCtrl 1 = true ∧ t.conn = s.conn ∧ RegsBut [aSwCtrl] s t ∧ OnlyIn [.regs, .sw] s t) ∧
  (∀ (s : State), Inv s → s.dev.bit aSwCtrl 1 = true →
    Runs .pageCopyDone s fun t =>
      t.dev.bit aSwCtrl 1 = false ∧ RegsBut [aSwCtrl] s t ∧ OnlyIn [.regs, .sw, .conn] s t ∧
      (∀ rx i, i < 2 ^ 14 → t.conn.entry (s.dev.actPage rx) rx i = s.conn.entry (s.dev.actPage rx) rx i ∧
        t.conn.base (s.dev.actPage rx) rx i = s.conn.base (s.dev.actPage rx) rx i) ∧
      (∀ i, i < 2 ^ 14 → t.conn.entry (s.dev.standby false) false i = s.conn.entry (s.dev.actPage false) false i ∧
        t.conn.base (s.dev.standby false) false i = s.conn.base (s.dev.actPage false) false i) ∧
      (∀ i, i < 2 ^ 14 → t.conn.entry (s.dev.standby true) true i =
        s.conn.entry (if s.dev.sw.copyRxStopped then s.dev.standby true else s.dev.actPage true) true i))

/-- The receive direction changes pages on its own: at the announced multiframe, or late with late_swap set and an event; band
overhead is taken when its block is accepted and counted as missing when it is discarded. -/
def Obligations.ReceivePagesFollowTheFarEnd : Prop :=
  (∀ s : State, s.dev.sw.rxArm.isSome = true → s.dev.sw.rxLate = false →
    Runs .rxPageSwap s fun t => t.dev.actPage true = 1 - s.dev.actPage true ∧ t.dev.sw.rxArm = none ∧
      t.dev.actPage false = s.dev.actPage false ∧ t.conn = s.conn ∧
      (s.dev.bit aSwCtrl 1 = true → t.dev.bit aSwStat 7 = true ∧ t.dev.sw.copyRxStopped = true)) ∧
  (∀ s : State, s.dev.sw.rxLate = true → s.dev.sw.rxArm.isSome = true →
    Runs .rxLateSwap s fun t => t.dev.actPage true = 1 - s.dev.actPage true ∧ t.dev.bit aSwStat 5 = true ∧
      t.dev.sw.rxArm = none ∧ t.conn = s.conn) ∧
  (∀ s : State, s.dev.sw.rxLate = true → s.dev.sw.rxArm = none → s.pageCheck (s.dev.standby true) true = false →
    Runs .rxLateSwap s fun t => t.dev.actPage true = s.dev.actPage true ∧ t.dev.bit aSwStat 4 = true) ∧
  (∀ (s : State) (c : Fin 48) (b : List Byte), s.dev.rxState c = rxLocked → s.dev.cZr c = false →
    acceptBlock (s.dev.rxModem c).ended = some b →
    Runs (.bohBlockReceived c) s fun t => (t.dev.carrier c).boh = some (parseBlock b) ∧ (t.dev.rxModem c).ended = [] ∧
      (t.dev.carrier c).sinceBoh = 0 ∧ t.dev.bit (0x101100 + 4 * c) 19 = true ∧ t.conn = s.conn) ∧
  (∀ (s : State) (c : Fin 48), s.dev.rxState c = rxLocked → s.dev.cZr c = false →
    acceptBlock (s.dev.rxModem c).ended = none →
    Runs (.bohBlockReceived c) s fun t => (t.dev.carrier c).boh = (s.dev.carrier c).boh ∧ (t.dev.rxModem c).ended = [] ∧
      (t.dev.carrier c).sinceBoh = min 4 ((s.dev.carrier c).sinceBoh + 1) ∧ t.conn = s.conn ∧ t.dev.sw = s.dev.sw)

/-- The skew defect of a flow enters when its arrivals spread above the depth, and exits 0.2 µs below it. -/
def flowSkewRule : Prop :=
  (∀ (s : State) (f : Fin 4096), (s.dev.flow f).alive = true → s.dev.depth < s.flowSpread f →
    Runs (.flowSkewEnter f) s fun t => (t.dev.flow f).raw.getLsbD 1 = true ∧ OnlyIn (.flows :: recordParts) s t ∧
      ∀ g ≠ f.val, t.dev.flow g = s.dev.flow g) ∧
  (∀ (s : State) (f : Fin 4096), (s.dev.flow f).alive = true → s.flowSpread f + 20 ≤ s.dev.depth →
    Runs (.flowSkewExit f) s fun t => (t.dev.flow f).raw.getLsbD 1 = false ∧ OnlyIn (.flows :: recordParts) s t ∧
      ∀ g ≠ f.val, t.dev.flow g = s.dev.flow g)

/-- A change procedure: it takes hold of the switch, locks the clusters whose check passes, gives up without effect on the epoch
when an acknowledgement is missing, and at band multiframe b advances the epoch by one and lets go, while the shadow of each of its
carriers stays locked until the carrier takes it. -/
def Obligations.ChangeProcedure : Prop :=
  (∀ (s : State) (ks : List Cluster) (ds : Desc), s.dev.granted 0 0x0110 = some ds → s.dev.chg = none → s.dev.formed = false →
    ks ≠ [] → ks.contains .timing = false →
    Runs (.change ks) s fun t => t.dev.bit aSwStat 6 = true ∧ t.dev.chg.isSome = true ∧ RegsBut [aSwStat] s t ∧
      OnlyIn [.regs, .chg] s t) ∧
  (∀ (s : State) (ks : List Cluster) (ds : Desc) (g : Change), s.dev.granted 0 0x0110 = some ds → s.dev.chg = some g →
    s.dev.changeOwns g = false →
    Runs (.change ks) s fun t => Completed s t 0 stBusy ∧ t.dev.chg = some g ∧ OnlyIn recordParts s t) ∧
  (∀ (s : State) (k : Cluster) (g : Change), s.dev.chg = some g → g.granted = true → g.waiting.contains k = true →
    (s.dev.cluster (clusterCode k)).reset = false → s.prepareOk g k = true → g.waiting.filter (· ≠ k) ≠ [] →
    Runs (.prepareAck k) s fun t => (t.dev.cluster (clusterCode k)).locked = true ∧
      t.dev.chg = some { g with waiting := g.waiting.filter (· ≠ k) } ∧ OnlyIn [.clus, .chg] s t) ∧
  (∀ (s : State) (k : Cluster) (g : Change), s.dev.chg = some g → g.granted = true → g.waiting.contains k = true →
    (s.dev.cluster (clusterCode k)).reset = false → s.prepareOk g k = false → g.waiting.filter (· ≠ k) ≠ [] →
    Runs (.prepareAck k) s fun t => t.dev.bit (cmtAddr k) 2 = true ∧ t.dev.act = s.dev.act ∧ RegsBut [cmtAddr k] s t ∧
      t.dev.chg = some { g with waiting := g.waiting.filter (· ≠ k), refused := true }) ∧
  (∀ (s : State) (g : Change), s.dev.chg = some g → g.granted = true → g.prepared = false →
    Runs .prepareTimeout s fun t => t.dev.chg = none ∧ t.dev.bit aSwStat 6 = false ∧ t.dev.reg aEpoch = s.dev.reg aEpoch ∧
      t.dev.act = s.dev.act ∧ (∀ k ∈ g.clusters, (t.dev.cluster (clusterCode k)).locked = (s.dev.cluster (clusterCode k)).due) ∧
      RegsBut [aSwStat] s t ∧ (s.dev.changeOwns g = true → Completed s t 0 stRefused)) ∧
  (∀ (s : State) (g : Change), s.dev.chg = some g → g.prepared = true → s.dev.reg aBmfCnt = g.boundary →
    Runs .changeCommit s fun t => t.dev.chg = none ∧ t.dev.bit aSwStat 6 = false ∧
      t.dev.reg aEpoch = s.dev.reg aEpoch + 1 ∧ t.conn = s.conn ∧
      ∀ c : Fin 48, Cluster.carrier c ∈ g.clusters → (t.dev.cluster c).due = true ∧ (t.dev.cluster c).locked = true)

/-! The tenant cipher and flow keys (chapters 4, 16). -/

/-- No block of the flow's rotation is due. -/
abbrev noKiChange (w : Flow) : Prop :=
  (w.rot.all fun r => match r.stage with
    | .switchAt b => decide (w.blocks < b)
    | _ => true) = true

/-- Every flow but `f` stands. -/
def OtherFlows (s t : State) (f : Nat) : Prop := ∀ g ≠ f, t.dev.flow g = s.dev.flow g

/-- The parts that a counted event and its records touch. -/
def countParts : List Part := .pcs :: .regs :: recordParts

/-- The cipher cluster of flow `f` has no commit pending. -/
abbrev noCommit (s : State) (f : Nat) : Prop :=
  s.dev.cmtPending (s.dev.flowCluster f) = false ∧ (s.dev.cluster (clusterCode (s.dev.flowCluster f))).due = false

/-- A transmitted crypto block goes out as 64 frames under the slot in use and its counter, which then advances, and its tag is kept for
the block behind it; a direction without keys sends ODU-LCK; at block b of a rotation the other slot takes over from counter 0
and the old one is zeroized. -/
def Obligations.TransmittedCryptoBlocks : Prop :=
  (∀ (s : State) (f : Fin 4096) (lanes : List (List (BitVec 10))), s.dev.blockRuns f = true →
    (s.dev.flow f).stopped = false → noKiChange (s.dev.flow f) → s.dev.txKeyed f = true →
    Runs (.txCryptoBlock f lanes) s fun t =>
      let w := s.dev.flow f
      let k := w.tx w.txKi
      (t.dev.flow f).txCtr = w.txCtr + 1 ∧ (t.dev.flow f).blocks = w.blocks + 1 ∧ (t.dev.flow f).txKi = w.txKi ∧
      (t.dev.flow f).tx0 = w.tx0 ∧ (t.dev.flow f).tx1 = w.tx1 ∧ (t.dev.flow f).stopped = w.deleting ∧ t.conn = s.conn ∧
      (∃ fs : List (List Byte), fs.length = 64 ∧ (t.dev.flow f).txBytes = w.txBytes ++ fs.flatten ∧
        (t.dev.flow f).lastTag = gcmTag k.key (blockIv k w.txCtr) (aadOf fs) (payloadOf fs) ∧
        ∀ i < 64, flexAt (fs.getD i []) 1 15 1 = [BitVec.ofNat 8 (128 * w.txKi.toNat + i)]) ∧
      (noCommit s f → OtherFlows s t f ∧ OnlyIn (.flows :: .oh :: .ports :: countParts) s t)) ∧
  (∀ (s : State) (f : Fin 4096) (lanes : List (List (BitVec 10))), s.dev.blockRuns f = true →
    (s.dev.flow f).stopped = false → noKiChange (s.dev.flow f) → s.dev.txKeyed f = false →
    Runs (.txCryptoBlock f lanes) s fun t => (t.dev.flow f).txCtr = (s.dev.flow f).txCtr ∧
      (t.dev.flow f).lastTag = (s.dev.flow f).lastTag ∧ t.conn = s.conn ∧
      ∃ fs : List (List Byte), fs.length = 64 ∧ (t.dev.flow f).txBytes = (s.dev.flow f).txBytes ++ fs.flatten ∧
        ∀ fr ∈ fs, flexAt fr 1 17 3808 = List.replicate 3808 0x55) ∧
  (∀ (s : State) (f : Fin 4096) (lanes : List (List (BitVec 10))) (r : Rot) (b : BitVec 64), s.dev.blockRuns f = true →
    (s.dev.flow f).stopped = false → (s.dev.flow f).rot = some r → r.stage = .switchAt b → b ≤ (s.dev.flow f).blocks →
    ((s.dev.flow f).tx (!(s.dev.flow f).txKi)).loaded = true → (s.dev.flow f).kaDone = true → s.dev.bit aTcStat 4 = false →
    (s.dev.flow f).isStandby = false →
    Runs (.txCryptoBlock f lanes) s fun t =>
      (t.dev.flow f).txKi = !(s.dev.flow f).txKi ∧ (t.dev.flow f).txCtr = 1 ∧
      (t.dev.flow f).tx (s.dev.flow f).txKi = {} ∧ t.conn = s.conn)

/-- The received blocks of a flow, one at a time: `b` is the next one, once its 64 frames and the 16 behind them that bring its tag have
come, and `rest` stays. -/
abbrev nextReceived (s : State) (f : Nat) (b : RxBlock) (rest : List (List Byte)) : Prop :=
  s.dev.blockRuns f = true ∧ (s.dev.flow f).nextBlock = some (b, rest)

/-- A received block that authenticates records its counter, and in release mode goes on to a port that sends its mapped stream; one
that fails enters AUTH and in hold mode is never delivered; one under an empty slot enters KEY. After enough good blocks under a
newer key the earlier key is zeroized. -/
def Obligations.ReceivedCryptoBlocks : Prop :=
  (∀ (s : State) (f : Fin 4096) (b : RxBlock) (rest : List (List Byte)), nextReceived s f b rest →
    ((s.dev.flow f).rx b.ki).loaded = true → s.dev.bit aTcStat 4 = false → (s.dev.flow f).authCause b = none →
    Runs (.rxCryptoBlock f) s fun t =>
      (t.dev.flow f).last b.ki = some b.counter ∧ (t.dev.flow f).rxKi = b.ki ∧ (t.dev.flow f).rxFrames = rest ∧
      (t.dev.flow f).raw.getLsbD 6 = false ∧ t.conn = s.conn ∧
      ((s.dev.flow f).hold = false → s.dev.egress (s.dev.flow f).port = .mapped →
        (t.dev.flow f).drain.isSome = true ∧ ∃ lanes, Sends s t (.client (s.dev.flow f).port lanes))) ∧
  (∀ (s : State) (f : Fin 4096) (b : RxBlock) (rest : List (List Byte)) (c : Nat), nextReceived s f b rest →
    ((s.dev.flow f).rx b.ki).loaded = true → s.dev.bit aTcStat 4 = false → (s.dev.flow f).authCause b = some c →
    Runs (.rxCryptoBlock f) s fun t =>
      (t.dev.flow f).raw.getLsbD 7 = true ∧ (t.dev.flow f).last0 = (s.dev.flow f).last0 ∧
      (t.dev.flow f).last1 = (s.dev.flow f).last1 ∧ (t.dev.flow f).rxFrames = rest ∧ t.conn = s.conn ∧
      (t.dev.flow f).pm.authFail = min (2 ^ 32 - 1) ((s.dev.flow f).pm.authFail + 1) ∧
      ((s.dev.flow f).hold = true → (t.dev.flow f).drain = none)) ∧
  (∀ (s : State) (f : Fin 4096) (b : RxBlock) (rest : List (List Byte)), nextReceived s f b rest →
    ((s.dev.flow f).rx b.ki).loaded = false →
    Runs (.rxCryptoBlock f) s fun t => (t.dev.flow f).raw.getLsbD 6 = true ∧
      (t.dev.flow f).last0 = (s.dev.flow f).last0 ∧ (t.dev.flow f).last1 = (s.dev.flow f).last1 ∧
      (t.dev.flow f).rxFrames = rest ∧ (t.dev.flow f).drain = none ∧ t.conn = s.conn) ∧
  (∀ (s : State) (f : Fin 4096), (s.dev.flow f).retireDue = true →
    2 ^ Fld.get ⟨6, 5⟩ (s.dev.flowCtl f) ≤ (s.dev.flow f).run →
    Runs (.receiveSlotRetire f) s fun t => (t.dev.flow f).rx (!(s.dev.flow f).runKi) = {} ∧
      (t.dev.flow f).rx (s.dev.flow f).runKi = (s.dev.flow f).rx (s.dev.flow f).runKi ∧
      (t.dev.flow f).retireDue = false ∧ OtherFlows s t f ∧ OnlyIn (.flows :: recordParts) s t)

/-- A rotation begins with KA_INIT under a fresh identifier and ends without success by emptying what it loaded; flows move between
cipher clusters without losing keys; contexts are exported wrapped. -/
def rotationsMovesAndExportsRule : Prop :=
  (∀ (s : State) (t0 : Fin 4096) (ds : Desc), s.dev.granted t0 0x0020 = some ds → ds.p8 28 ≠ 0 →
    (s.dev.flow ds.obj.toNat).isStandby = false → s.dev.keysServed = true → (s.dev.flow ds.obj.toNat).rot = none →
    (s.dev.flow ds.obj.toNat).ka = none →
    Runs (.keyRotate t0) s fun t =>
      (t.dev.flow ds.obj.toNat).rot = some ⟨(ds.p8 28).testBit 0, (ds.p8 28).testBit 1, .agree, true⟩ ∧
      (∃ a, (t.dev.flow ds.obj.toNat).ka = some a ∧ a.initiator = true ∧ a.loaded = false ∧
        Sends s t (.gcc2 ds.obj.toNat (.init a.id a.dirs a.nonce))) ∧
      OtherFlows s t ds.obj.toNat ∧ OnlyIn [.flows, .oh, .out, .free] s t) ∧
  (∀ (s : State) (f : Fin 4096) (a : Ka), (s.dev.flow f).ka = some a → a.loaded = true →
    Runs (.rotationConfirmTimeout f) s fun t =>
      (t.dev.flow f).ka = none ∧ (t.dev.flow f).rot = none ∧
      (∀ i, a.loadedTx = some i → (t.dev.flow f).tx i = {}) ∧ (∀ i, a.loadedRx = some i → (t.dev.flow f).rx i = {}) ∧
      OtherFlows s t f ∧ OnlyIn (.flows :: recordParts) s t) ∧
  (∀ (s : State) (f : Fin 4096) (x : Nat), (s.dev.flow f).moveTo = some x →
    Runs (.flowClusterMove f) s fun t =>
      t.dev.flow f = { s.dev.flow f with cl := x, moveTo := none } ∧ OtherFlows s t f ∧ OnlyIn [.flows] s t) ∧
  (∀ (s : State) (f : Fin 4096) (a : BitVec 64) (k g : Nat) (key : BitVec 256), (s.dev.flow f).exportAt = some a →
    2 ^ 39 ≤ ((s.dev.flow f).txCtr - a).toNat → (s.dev.flow f).pairInForce = some (k, g, false) →
    s.dev.tc.dwk = some key →
    Runs (.contextExport f) s fun t =>
      (t.dev.flow f).exportAt = some (s.dev.flow f).txCtr ∧ (t.dev.flow f).ctxWaitTx = true ∧
      Sends s t (.toPkg (Fin.ofNat 4 k) (.ctx (Config.aesKwWrap key ((s.dev.flow f).contextRecord .tx g)))) ∧
      Sends s t (.context f .tx (Config.aesKwWrap key ((s.dev.flow f).contextRecord .tx g))) ∧
      OtherFlows s t f ∧ OnlyIn [.flows, .links, .out] s t)

/-- The block chosen in a flow's window is due to be checked, and the verifier of its cluster is free. -/
abbrev spotDue (s : State) (f : Nat) (dir : Dir) (b : LaneBlock) : Prop :=
  (s.dev.flow f).alive = true ∧ ((s.dev.flow f).spotWin dir).last = some b ∧ ((s.dev.flow f).spotWin dir).due = true

/-- A spot check that finds another tag than the lane's zeroizes the flow's keys, names the flow, and raises the verify source; a busy
verifier only notes the skip, and the check stays due; a match changes no key. A lane is fenced on the register of its number. -/
def spotVerifierRule : Prop :=
  (∀ (s : State) (f : Fin 4096) (dir : Dir) (l : Fin 64) (b : LaneBlock) (tag : BitVec 128), spotDue s f dir b →
    SMap.get s.dev.spotFree (s.dev.flow f).cl 0 ≤ s.dev.time → (s.dev.flow f).cl < 2 → tag ≠ b.ownTag dir →
    logOrSafe s 12 (11 + (s.dev.flow f).cl) → logOrSafe s 12 17 →
    Runs (.spotCheck f dir l tag) s fun t =>
      (∀ i, (t.dev.flow f).tx i = {} ∧ (t.dev.flow f).rx i = {}) ∧ OtherFlows s t f ∧
      t.dev.bit (0x180020 + 4 * (s.dev.flow f).cl) 0 = true ∧
      t.dev.fld (0x180020 + 4 * (s.dev.flow f).cl) ⟨16, 12⟩ = f ∧
      t.dev.faultStatus 12 (11 + (s.dev.flow f).cl) = true ∧
      t.dev.bit (0x180030 + 4 * (s.dev.flow f).cl) (l % 32) = true) ∧
  (∀ (s : State) (f : Fin 4096) (dir : Dir) (l : Fin 64) (b : LaneBlock), spotDue s f dir b →
    SMap.get s.dev.spotFree (s.dev.flow f).cl 0 ≤ s.dev.time →
    Runs (.spotCheck f dir l (b.ownTag dir)) s fun t =>
      (∀ i, (t.dev.flow f).tx i = (s.dev.flow f).tx i ∧ (t.dev.flow f).rx i = (s.dev.flow f).rx i) ∧
      ((t.dev.flow f).spotWin dir).due = false ∧ OtherFlows s t f ∧ OnlyIn (.flows :: .spot :: countParts) s t) ∧
  (∀ (s : State) (f : Fin 4096) (dir : Dir) (l : Fin 64) (b : LaneBlock) (tag : BitVec 128), spotDue s f dir b →
    (s.dev.flow f).cl < 2 → s.dev.time < SMap.get s.dev.spotFree (s.dev.flow f).cl 0 →
    Runs (.spotCheck f dir l tag) s fun t =>
      t.dev.bit (0x180020 + 4 * (s.dev.flow f).cl) 1 = true ∧ t.dev.flows = s.dev.flows ∧ OnlyIn countParts s t) ∧
  (∀ (s : State) (l : Fin 64), logOrSafe s 12 17 →
    Runs (.unitFence (.lane l)) s fun t => t.dev.bit (0x180030 + 4 * (l / 32)) (l % 32) = true ∧ t.pools = s.pools)

/-- A whole message of type `type` for flow `f` from a peer of the list, with its checks passed, while the trust core serves. -/
abbrev goodKaMsg (s : State) (f : Nat) (m : KaMsg) (type : Nat) : Prop :=
  m.good type f = true ∧ s.dev.verified m.from_ = true ∧ s.dev.keysServed = true

/-- The flow key agreement: a KA_INIT from a verified peer is answered and loads the responder's slots; a KA_RESP loads the
initiator's; the right KA_READY confirms; an abort and a timeout empty what was loaded; KA_INIT is repeated as it was. -/
def Obligations.FlowKeyAgreement : Prop :=
  (∀ (s : State) (f : Fin 4096) (m : KaMsg), goodKaMsg s f m 1 → (s.dev.flow f).alive = true → m.dirs ≠ 0 → m.dirs.toNat < 4 →
    (s.dev.flow f).ka = none → (s.dev.flow f).rot = none →
    Runs (.kaInit f m) s fun t =>
      (∃ a, (t.dev.flow f).ka = some a ∧ a.initiator = false ∧ a.id = m.id ∧ a.loaded = true ∧
        a.salt = m.initNonce ++ a.nonce ∧ Sends s t (.gcc2 f (.resp m.id a.nonce)) ∧
        Sends s t (.gcc2 f (.ready m.id 1 (Config.kaConfirm a.salt m.secret 1)))) ∧
      OtherFlows s t f ∧ OnlyIn [.flows, .oh, .out, .free] s t) ∧
  (∀ (s : State) (f : Fin 4096) (m : KaMsg) (a : Ka), goodKaMsg s f m 2 → (s.dev.flow f).alive = true →
    (s.dev.flow f).ka = some a → a.initiator = true → a.answered = false → a.id = m.id →
    Runs (.kaResp f m) s fun t =>
      (∃ b, (t.dev.flow f).ka = some b ∧ b.loaded = true ∧ b.secret = m.secret ∧ b.salt = a.nonce ++ m.respNonce) ∧
      (a.dirs.getLsbD 0 = true →
        (t.dev.flow f).tx (if a.newFlow then false else !(s.dev.flow f).txKi) =
          okmSlot (Config.kaOkm (a.nonce ++ m.respNonce) m.secret f a.id) false) ∧
      OtherFlows s t f ∧ OnlyIn [.flows, .oh, .out] s t) ∧
  (∀ (s : State) (f : Fin 4096) (m : KaMsg) (a : Ka), m.good 3 f = true → (s.dev.flow f).ka = some a → a.loaded = true →
    a.id = m.id → m.role = (if a.initiator then 1 else 0) → m.confirm = Config.kaConfirm a.salt a.secret m.role →
    Runs (.kaReady f m) s fun t => (t.dev.flow f).ka = none ∧ (t.dev.flow f).kaDone = true ∧
      (t.dev.flow f).tx0 = (s.dev.flow f).tx0 ∧ (t.dev.flow f).tx1 = (s.dev.flow f).tx1 ∧ OtherFlows s t f) ∧
  (∀ (s : State) (f : Fin 4096) (m : KaMsg) (a : Ka), m.good 4 f = true → (s.dev.flow f).ka = some a → a.id = m.id →
    Runs (.kaAbort f m) s fun t => (t.dev.flow f).ka = none ∧ (t.dev.flow f).rot = none ∧
      (∀ i, a.loadedTx = some i → (t.dev.flow f).tx i = {}) ∧ OtherFlows s t f ∧ OnlyIn (.flows :: recordParts) s t) ∧
  (∀ (s : State) (f : Fin 4096) (a : Ka), (s.dev.flow f).ka = some a → a.initiator = true → a.answered = false →
    Runs (.kaInitRepeat f) s fun t => t.dev.out = .gcc2 f (.init a.id a.dirs a.nonce) :: s.dev.out ∧ OnlyIn [.oh, .out] s t) ∧
  (∀ (s : State) (f : Fin 4096) (a : Ka), (s.dev.flow f).ka = some a → a.initiator = true →
    Runs (.kaTimeout f) s fun t => (t.dev.flow f).ka = none ∧ (t.dev.flow f).rot = none ∧ Sends s t (.gcc2 f (.abort a.id)) ∧
      OtherFlows s t f ∧ OnlyIn (.flows :: .oh :: recordParts) s t)

/-- Rotations, moves between cipher clusters, context exports, and the spot verifier. -/
def Obligations.RotationsMovesExportsAndSpotChecks : Prop :=
  rotationsMovesAndExportsRule ∧ spotVerifierRule

/-! Carrier frames, band overhead and defects (chapter 5). -/

/-- Carrier `c` has no commit pending. -/
abbrev noCarrierCommit (s : State) (c : Nat) : Prop :=
  s.dev.cmtPending (.carrier (Fin.ofNat 48 c)) = false ∧ (s.dev.cluster c).due = false

/-- A native carrier that sends frames gives its modem the next one of the band multiframe, in the format in force, and keeps the
accumulator of R125. The frame data open with a slice that passes its CRC-8 and holds 8 bytes beside the OTUCn-M ones. An interop
carrier's modem sends too. A package band multiframe advances BMF_CNT. -/
def transmittedCarrierFramesRule : Prop :=
  (∀ (s : State) (c : Fin 48) (lanes : List (List (BitVec 10))), s.dev.sendsFrames c = true → s.dev.txZr c = false →
    noCarrierCommit s c →
    Runs (.carrierFrameTx c lanes) s fun t =>
      (t.dev.carrier c).bmfas = ((s.dev.carrier c).bmfas + 1) % 256 ∧ (t.dev.carrier c).midCode = false ∧
      (t.dev.carrier c).acc = (nextCn (s.dev.carrier c).acc (Fld.get ⟨0, 11⟩ (s.dev.txMode c).1) (s.dev.txSlots c)).2 ∧
      (t.dev.txModem c).last = some (s.dev.txFrameOf c (s.dev.carrier c).bmfas) ∧ t.conn = s.conn ∧ t.pools = s.pools) ∧
  (∀ (a b i : Byte) (cn : Nat) (otu : List Byte), sliceOk (frameBytes [i, a, b] cn otu) = true ∧
    (frameBytes [i, a, b] cn otu).take 3 = [i, a, b] ∧ (frameBytes [i, a, b] cn otu).length = 8 + cn) ∧
  (∀ (s : State) (c : Fin 48) (lanes : List (List (BitVec 10))), s.dev.sendsFrames c = true → s.dev.txZr c = true →
    noCarrierCommit s c →
    Runs (.carrierFrameTx c lanes) s fun t => (t.dev.carrier c).midCode = false ∧ (t.dev.txModem c).last.isSome = true ∧
      t.conn = s.conn ∧ t.pools = s.pools ∧ ∀ x ≠ c.val, t.dev.carrier x = s.dev.carrier x) ∧
  (∀ s : State, Runs .packageBandMultiframe s fun t =>
    t.dev.reg aBmfCnt = s.dev.reg aBmfCnt + 1 ∧ t.dev.bmfAt = s.dev.time ∧ t.conn = s.conn ∧ t.pools = s.pools)

/-- The device as the samples of a received frame find it, behind the counters of the converters and the taps that watch them. -/
def rxInput (s : State) (c : Nat) (codes : List (List Int)) : Dev :=
  ((s.dev.adcClips c (clipped codes)).captured c false (codes.map fun l => l.map (BitVec.ofInt 8))).dpTap c 0 256 (1 / 4)
    (codeSamples codes)

/-- The receive modem in LOCKED leaves it with the fourth lossy frame in a row, and LOAQ is raw-present; in SEARCH it locks from the
tenth frame on to the first candidate when that meets the criterion for the second frame in a row. -/
def lockIsWonAndLostByFramesRule : Prop :=
  (∀ (s : State) (c : Fin 48) (codes : List (List Int)) (q : Acq) (r : RxFrame), s.dev.rxState c = rxLocked →
    s.dev.cEnabled c = true → s.dev.carrDead c = false → s.dev.cZr c = false → noCarrierCommit s c →
    ((rxInput s c codes).rxNative c codes).2 = [r] → metricLossy r.use = true → 3 ≤ (s.dev.carrier c).badMet →
    Runs (.carrierFrameRx c codes q) s fun t => t.dev.rxState c ≠ rxLocked ∧ (t.dev.carrier c).raw.getLsbD 1 = true ∧
      t.conn = s.conn) ∧
  (∀ (s : State) (c : Fin 48) (codes : List (List Int)) (q : Acq) (x : Metric × Nat), s.dev.rxState c = rxLocked →
    s.dev.cEnabled c = true → s.dev.carrDead c = false → s.dev.cZr c = true → noCarrierCommit s c →
    q.cands.head? = some x → metricLossy x.1 = true → 3 ≤ (s.dev.carrier c).badMet →
    Runs (.carrierFrameRx c codes q) s fun t => t.dev.rxState c ≠ rxLocked ∧ (t.dev.carrier c).raw.getLsbD 1 = true ∧
      t.conn = s.conn) ∧
  (∀ (s : State) (c : Fin 48) (codes : List (List Int)) (q : Acq) (m : Word × Word) (x : Metric × Nat),
    s.dev.rxState c = rxSearch → s.dev.cEnabled c = true → s.dev.carrDead c = false → s.dev.cZr c = false →
    (s.dev.carrier c).cands[0]? = some m → s.dev.searched c m = true →
    q.cands[0]? = some x → metricGood x.1 = true → 1 ≤ (s.dev.carrier c).goodMet.getD 0 0 → 9 ≤ (s.dev.carrier c).framesIn →
    Runs (.carrierFrameRx c codes q) s fun t => t.dev.rxState c = rxLocked ∧ t.dev.fld (aRxStat c) ⟨3, 2⟩ = 0 ∧
      (t.dev.carrier c).raw.getLsbD 1 = false ∧
      t.dev.fld (aRxStat c) ⟨16, 16⟩ = (s.dev.fld (aRxStat c) ⟨16, 16⟩ + 1) % 2 ^ 16 ∧ t.conn = s.conn)

/-- Defects of carriers and flows enter and exit by their criteria, one at a time: no other raw defect of the object changes, and no
other object. -/
def defectsEnterAndExitRule : Prop :=
  (∀ (s : State) (c : Fin 48) (i : Fin 11), s.dev.cEnabled c = true → s.dev.cZr c = false → 3 ≤ i.val →
    s.dev.carrEntry c i = true →
    Runs (.carrierDefectEnter c i) s fun t => (t.dev.carrier c).raw = (s.dev.carrier c).raw ||| BitVec.ofNat 11 (2 ^ i.val) ∧
      OnlyIn (.carriers :: .flows :: recordParts) s t ∧ ∀ x ≠ c.val, t.dev.carrier x = s.dev.carrier x) ∧
  (∀ (s : State) (c : Fin 48) (i : Fin 11), s.dev.cEnabled c = true → s.dev.cZr c = false → 3 ≤ i.val →
    s.dev.carrExit c i = true →
    Runs (.carrierDefectExit c i) s fun t =>
      (t.dev.carrier c).raw = (s.dev.carrier c).raw &&& ~~~ BitVec.ofNat 11 (2 ^ i.val) ∧
      OnlyIn (.carriers :: .flows :: recordParts) s t ∧ ∀ x ≠ c.val, t.dev.carrier x = s.dev.carrier x) ∧
  (∀ (s : State) (c : Fin 48), s.dev.cEnabled c = true → s.dev.rxState c ≠ rxIdle →
    Runs (.carrierDefectEnter c 0) s fun t => (t.dev.carrier c).raw.getLsbD 0 = true ∧ t.dev.rxState c = rxNolight ∧
      (t.dev.carrier c).raw.getLsbD 1 = true) ∧
  (∀ (s : State) (f : Fin 4096) (i : Fin 10), (s.dev.flow f).alive = true → s.flowEntry f i = true →
    Runs (.flowDefectEnter f i) s fun t => (t.dev.flow f).raw = (s.dev.flow f).raw ||| BitVec.ofNat 10 (2 ^ i.val) ∧
      OnlyIn (.flows :: recordParts) s t ∧ OtherFlows s t f) ∧
  (∀ (s : State) (f : Fin 4096) (i : Fin 10), (s.dev.flow f).alive = true → s.flowExit f i = true →
    Runs (.flowDefectExit f i) s fun t => (t.dev.flow f).raw = (s.dev.flow f).raw &&& ~~~ BitVec.ofNat 10 (2 ^ i.val) ∧
      OnlyIn (.flows :: recordParts) s t ∧ OtherFlows s t f)

/-- The defect that a carrier or a flow reports is the raw-present one that stands first in its ordered list, and none is reported
exactly when none is raw-present. -/
def Obligations.ReportedDefectIsTheHighestPresent : Prop :=
  (∀ (k : Carrier) (i : Nat), k.rep = some i ↔ i < 11 ∧ k.raw.getLsbD i = true ∧ ∀ j < i, k.raw.getLsbD j = false) ∧
  (∀ (k : Carrier), k.rep = none ↔ k.raw = 0) ∧
  (∀ (w : Flow) (i : Nat), w.rep = some i ↔ i < 10 ∧ w.raw.getLsbD i = true ∧ ∀ j < i, w.raw.getLsbD j = false) ∧
  (∀ (w : Flow), w.rep = none ↔ w.raw = 0)

/-- DEG enters with the last of its bad seconds in a row, and the next second starts from 0; a received frame of a flow counts by its
BIP-8 and BEI and waits for the cipher, and AIS enters with the third AIS frame in a row; an incomplete frame waits for the rest. -/
def degAndReceivedOverheadRule : Prop :=
  (∀ (s : State) (c : Fin 48), s.dev.cEnabled c = true → s.dev.cZr c = false →
    secondBad (s.dev.actFld 0x100024 ⟨0, 7⟩) (s.dev.carrier c).secErrored (s.dev.carrier c).secFrames = true →
    s.dev.actFld 0x100024 ⟨7, 4⟩ ≤ (s.dev.carrier c).degBad + 1 →
    Runs (.degSecond (.carrier c)) s fun t => (t.dev.carrier c).raw.getLsbD 10 = true ∧ (t.dev.carrier c).secFrames = 0 ∧
      (t.dev.carrier c).secErrored = 0 ∧ OnlyIn (.carriers :: .flows :: recordParts) s t) ∧
  (∀ (s : State) (f : Fin 4096), (s.dev.flow f).alive = true →
    secondBad (s.dev.actFld 0x100024 ⟨11, 7⟩) (s.dev.flow f).secErrored (s.dev.flow f).secFrames = true →
    s.dev.actFld 0x100024 ⟨18, 4⟩ ≤ (s.dev.flow f).degBad + 1 →
    Runs (.degSecond (.flow f)) s fun t => (t.dev.flow f).raw.getLsbD 9 = true ∧ (t.dev.flow f).secFrames = 0 ∧
      (t.dev.flow f).secErrored = 0 ∧ OnlyIn (.flows :: recordParts) s t) ∧
  (∀ (s : State) (f : Fin 4096) (bytes : List Byte) (w : Flow), (s.dev.flow f).alive = true →
    (s.dev.flow f).nextFrame = (some bytes, w) →
    Runs (.oduFrameRx (.flow f)) s fun t =>
      (t.dev.flow f).pm.bip = min (2 ^ 32 - 1)
        (w.pm.bip + (decide (0 < w.bipRx.violations ((flexAt bytes 3 11 1).headD 0))).toNat) ∧
      (t.dev.flow f).pm.bei = min (2 ^ 32 - 1)
        (w.pm.bei + (decide (0 < beiCount (((flexAt bytes 3 12 1).headD 0).toNat / 16))).toNat) ∧
      (t.dev.flow f).rxBytes = w.rxBytes ∧ (t.dev.flow f).rxFrames.getLast? = some bytes ∧
      (((flexAt bytes 3 12 1).headD 0).setWidth 3 = 7#3 → (s.dev.overhead f).stat = 7 → 2 ≤ (s.dev.overhead f).statRun →
        (t.dev.flow f).raw.getLsbD 2 = true) ∧
      t.conn = s.conn) ∧
  (∀ (s : State) (f : Fin 4096) (w : Flow), (s.dev.flow f).alive = true → (s.dev.flow f).nextFrame = (none, w) →
    Runs (.oduFrameRx (.flow f)) s fun t => (t.dev.flow f).rxBytes = w.rxBytes ∧ (t.dev.flow f).pm = (s.dev.flow f).pm ∧
      (t.dev.flow f).rxFrames = (s.dev.flow f).rxFrames ∧ t.conn = s.conn)

/-! The decoder pools (chapter 6). -/

/-- Codewords that a pool holds. -/
def heldCodewords (p : Pool) : Nat := p.ready.length + p.units.length + p.held.length + p.out.length

/-- A unit slot takes 48 ns and neither loses nor makes a codeword: whatever a pool holds is ready, in a unit, or waiting to be sent,
marked or not. -/
def Obligations.UnitSlotConservesCodewords : Prop :=
  ∀ (s : State) (m : Fin 4) (decided : List (Fin 448 × List Nat)), s.dev.poolLost m = false →
    ((s.pool m).units.map (·.1) ++ (s.pool m).held.map (·.1)).Nodup →
    Runs (.unitSlot m decided) s fun t => (t.pool m).now = (s.pool m).now + 48 ∧
      heldCodewords (t.pool m) = heldCodewords (s.pool m) ∧ t.conn = s.conn

/-- A codeword that the demapper has filled up joins the ready queue with its deadline and emission time; codewords leave in order of
emission, from the output buffer or from the unit that holds them, once their emission time has come, by way of the outer decoder;
a unit whose memory failed is fenced and its source raised. -/
def Obligations.CodewordsInAndOut : Prop :=
  (∀ (s : State) (m : Fin 4) (x : Fin 12) (r : Nat × List Int) (rs : List (Nat × List Int)),
    (s.dev.rxModem (12 * m.val + x.val)).ready = r :: rs →
    s.dev.cEnabled (12 * m.val + x.val) = true → s.dev.cZr (12 * m.val + x.val) = false → s.dev.poolLost m = false →
    (s.dev.cluster (48 + m)).reset = false →
    Runs (.codewordArrival m x) s fun t =>
      (t.pool m).ready = (s.pool m).ready ++ [s.dev.newCw m x (s.pool m).now (s.pool m).count r] ∧
      (t.pool m).count = (s.pool m).count + 1 ∧ (t.dev.rxModem (12 * m.val + x.val)).ready = rs ∧ OnlyIn [.pools, .rxm] s t ∧
      (∀ j ≠ m.val, t.pool j = s.pool j) ∧ ∀ c ≠ 12 * m.val + x.val, t.dev.rxModem c = s.dev.rxModem c) ∧
  (∀ (s : State) (m : Fin 4) (w : Cw), (s.pool m).nextOut = some (none, w) → w.emit ≤ (s.pool m).now →
    s.dev.poolLost m = false →
    Runs (.codewordEmission m) s fun t => (t.pool m).out = (s.pool m).out.drop 1 ∧ (t.pool m).held = (s.pool m).held ∧
      Sends s t (.codeword m w.x ((w.info.map bchDecode).map fun r => r.1)) ∧
      (∀ j ≠ m.val, t.pool j = s.pool j) ∧ t.conn = s.conn) ∧
  (∀ (s : State) (m : Fin 4) (u : Nat) (w : Cw), (s.pool m).nextOut = some (some u, w) → w.emit ≤ (s.pool m).now →
    s.dev.poolLost m = false →
    Runs (.codewordEmission m) s fun t => (t.pool m).held = SMap.erase (s.pool m).held u ∧ (t.pool m).out = (s.pool m).out ∧
      Sends s t (.codeword m w.x ((w.info.map bchDecode).map fun r => r.1)) ∧ t.conn = s.conn) ∧
  (∀ (s : State) (m : Fin 4) (n : Nat), (s.pool m).held = [] → s.dev.poolLost m = false →
    (∀ w ∈ (s.pool m).out, w.emit ≤ (s.pool m).now) →
    Runs (.outputBufferDrain m n) s fun t => (t.pool m).out = (s.pool m).out.drop n ∧ (t.pool m).held = [] ∧
      (∀ j ≠ m.val, t.pool j = s.pool j) ∧ t.conn = s.conn) ∧
  (∀ (s : State) (m : Fin 4) (u : Fin 448), (∀ e ∈ (s.pool m).units, e.1 ≠ u) → (∀ e ∈ (s.pool m).held, e.1 ≠ u) →
    logOrSafe s (8 + m) 3 → logOrSafe s (8 + m) 20 →
    Runs (.unitMemoryError m u) s fun t => t.dev.unitFenced m u = true ∧ t.dev.faultStatus (8 + m) 3 = true ∧
      t.dev.fld (0x3400 + 4 * (8 + m)) ⟨16, 16⟩ = min 0xFFFF (s.dev.fld (0x3400 + 4 * (8 + m)) ⟨16, 16⟩ + 1) ∧
      t.pools = s.pools)

/-- Carrier frames sent and received. -/
def Obligations.CarrierFrames : Prop :=
  transmittedCarrierFramesRule ∧ lockIsWonAndLostByFramesRule

/-- Defects of carriers and flows, flow skew, DEG and received overhead. -/
def Obligations.DefectsEnterAndExit : Prop :=
  flowSkewRule ∧ defectsEnterAndExitRule ∧ degAndReceivedOverheadRule

/-! Carriers, converters and front-end control (chapters 7 to 10). -/

/-- The engine bus of a region carries transactions: it is in RUN and its pads are not latched. -/
abbrev busLive (s : State) (g : Nat) : Prop := s.dev.busDead g = false

/-- A carrier starts, ramps and stops: laser lock in TUNE asserts the enable and starts the ramp up; each step moves the launch level
by one; the end of a ramp up is RUN, of a ramp down OFF, TUNE or DARK by its cause, with the enable released; a laser that does
not lock leaves it DARK with tfail. -/
def Obligations.CarrierStartAndStop : Prop :=
  (∀ (s : State) (c : Fin 48) (st : BitVec 16), s.dev.cState c = csTune → st.getLsbD 0 = true →
    Runs (.laserPoll c st) s fun t => t.dev.cState c = csRampUp ∧ (t.dev.carrier c).txen = true ∧
      (t.dev.carrier c).level = 0 ∧ RegsBut [aCarrStat c] s t ∧ OnlyIn [.regs, .carriers, .regions, .out] s t) ∧
  (∀ (s : State) (c : Fin 48), s.dev.cState c = csTune →
    Runs (.tuneTimeout c) s fun t => t.dev.cState c = csDark ∧ t.dev.bit (aCarrStat c) 3 = true ∧ RegsBut [aCarrStat c] s t ∧
      OnlyIn (.regs :: recordParts) s t) ∧
  (∀ (s : State) (c : Fin 48), s.dev.cState c = csRampUp → (s.dev.carrier c).level < 64 →
    Runs (.rampStep c) s fun t => (t.dev.carrier c).level = (s.dev.carrier c).level + 1 ∧
      OnlyIn [.carriers, .regions] s t ∧
      (busLive s (c / 6) → (t.dev.region (c / 6)).queue.length = (s.dev.region (c / 6)).queue.length + 1)) ∧
  (∀ (s : State) (c : Fin 48), s.dev.cState c = csRampDown → 0 < (s.dev.carrier c).level →
    Runs (.rampStep c) s fun t => (t.dev.carrier c).level + 1 = (s.dev.carrier c).level ∧
      OnlyIn [.carriers, .regions] s t) ∧
  (∀ (s : State) (c : Fin 48), s.dev.cState c = csRampUp → (s.dev.carrier c).level = 64 →
    Runs (.rampEnd c) s fun t => t.dev.cState c = csRun ∧ RegsBut [aCarrStat c] s t) ∧
  (∀ (s : State) (c : Fin 48), s.dev.cState c = csRampDown → (s.dev.carrier c).level = 0 →
    Runs (.rampEnd c) s fun t => (t.dev.carrier c).txen = false ∧
      ((s.dev.carrier c).why = .disable → t.dev.cState c = csOff ∧ t.dev.rxState c = rxIdle) ∧
      ((s.dev.carrier c).why = .regrid → t.dev.cState c = csTune) ∧
      ((s.dev.carrier c).why = .safe → t.dev.cState c = csDark) ∧ t.conn = s.conn) ∧
  (∀ (s : State) (c : Fin 48), s.dev.cEnabled c = true →
    Runs (.converterReady c) s fun t => (t.dev.carrier c).convReady = true ∧ OnlyIn [.carriers] s t)

/-- In the device safe state no commit outside a change procedure and none inside one enables a carrier. -/
def Obligations.SafeRefusesEnabling : Prop :=
  ∀ (s : State) (c : Fin 48) (side : Side), s.dev.safe = true → s.dev.cmtPending (.carrier c) = true →
    (s.dev.cluster c).reset = false → (s.dev.cluster c).txDone = false → (s.dev.cluster c).rxDone = false →
    s.dev.enabling c = true →
    s.dev.check [.carrier c] (.carrier c) true = false ∧
    Runs (.commitBoundary (.carrier c) side) s fun t =>
      t.dev.cEnabled c = false ∧ t.dev.act = s.dev.act ∧ t.dev.bit (cmtAddr (.carrier c)) 2 = true ∧
      t.dev.cState c = s.dev.cState c

/-- The carrier was LOCKED in every frame of the estimate window that ends. -/
def lockedThroughout (s : State) (c : Nat) : Bool :=
  decide (0 < (s.dev.rxModem c).estLocked ∧ (s.dev.rxModem c).estLocked = (s.dev.rxModem c).estFrames)

/-- The receive modem's timers: a frame loss starts a retest, a warm search goes on cold, a retest that has failed on every candidate
searches again; estimates show one sequence number; loss of light enters with the second low interval. -/
def Obligations.ReceiveModemTimers : Prop :=
  (∀ (s : State) (c : Fin 48), s.dev.rxState c = rxLocked → s.dev.cEnabled c = true → s.dev.cZr c = false →
    (s.dev.carrier c).delin = none →
    Runs (.delineationTimeout c) s fun t => (t.dev.rxState c = rxRetest ∨ t.dev.rxState c = rxSearch) ∧
      (t.dev.carrier c).raw.getLsbD 1 = true ∧ t.conn = s.conn) ∧
  (∀ (s : State) (c : Fin 48), s.dev.rxState c = rxSearch → (s.dev.carrier c).warm = true →
    Runs (.warmSearchTimeout c) s fun t => (t.dev.carrier c).warm = false ∧ t.dev.bit (aRxStat c) 8 = true ∧
      t.dev.rxState c = rxSearch ∧ RegsBut [aRxStat c] s t ∧ OnlyIn [.regs, .carriers] s t) ∧
  (∀ (s : State) (c : Fin 48), s.dev.rxState c = rxRetest → (s.dev.carrier c).retestQ = [] →
    Runs (.retestTimeout c) s fun t => t.dev.rxState c = rxSearch ∧ (t.dev.carrier c).retestAt = none) ∧
  (∀ (s : State) (c : Fin 48) (q : Nat) (r : List Nat), s.dev.rxState c = rxRetest → (s.dev.carrier c).retestQ = q :: r →
    Runs (.retestTimeout c) s fun t => (t.dev.carrier c).retestAt = some q ∧ (t.dev.carrier c).retestQ = r ∧
      t.dev.rxState c = rxRetest) ∧
  (∀ (s : State) (c : Fin 48), s.dev.rxState c ≠ rxIdle →
    Runs (.estimateWindowEnd c) s fun t =>
      (∀ e < 8, e ≠ 1 → t.dev.reg (carrBase c + 0x260 + 4 * e) =
        BitVec.ofNat 32 ((BitVec.ofInt 16 ((s.dev.estimates c).getD e 0)).toNat +
          (s.dev.fld (carrBase c + 0x260) ⟨16, 8⟩ + 1) % 256 * 2 ^ 16 + (lockedThroughout s c).toNat * 2 ^ 24)) ∧
      (t.dev.rxModem c).estFrames = 0 ∧ RegsBut ((List.range 8).map fun e => carrBase c + 0x260 + 4 * e) s t ∧
      OnlyIn [.regs, .rxm] s t) ∧
  (∀ (s : State) (c : Fin 48) (ms : Nat), s.dev.cEnabled c = true → s.dev.carrDead c = false → s.dev.rxState c ≠ rxIdle →
    belowThr (s.dev.actFld 0x100020 ⟨0, 7⟩) ms = true → (s.dev.carrier c).raw.getLsbD 0 = false →
    1 ≤ (s.dev.carrier c).loliLow →
    Runs (.loliInterval c ms) s fun t => (t.dev.carrier c).raw.getLsbD 0 = true ∧ t.dev.rxState c = rxNolight)

/-- The factors that a step of a run has measured, judged: the sets in force afterwards, and whether every factor passed. -/
abbrev stepJudged (s : State) (g : Nat) (r : CalRun) (ms : List (Nat × List Int)) : List (Nat × List Factor) × Bool :=
  s.dev.factorsJudged g r.startTemp (ms.filter fun m => (s.dev.stepSets g r).contains m.1)

/-- Converters: the swing moves one step; a capture is armed, starts at its tick and is done; a run of background calibration moves
on with the factors that pass, refuses the others, waits for a capture, and ends with the temperature it began at. -/
def Obligations.ConvertersAndCaptures : Prop :=
  (∀ (s : State) (g : Fin 8), Runs (.swingStep g) s fun t =>
    ((s.dev.region g).swing < s.dev.fld (cvtBase g + 4) ⟨0, 5⟩ → (t.dev.region g).swing = (s.dev.region g).swing + 1) ∧
    (s.dev.fld (cvtBase g + 4) ⟨0, 5⟩ < (s.dev.region g).swing → (t.dev.region g).swing + 1 = (s.dev.region g).swing) ∧
    ((s.dev.region g).swing = s.dev.fld (cvtBase g + 4) ⟨0, 5⟩ → (t.dev.region g).swing = (s.dev.region g).swing) ∧
    OnlyIn [.regions] s t) ∧
  (∀ (s : State) (m : Master) (g : Fin 8) (w : Word), Accepted s m (aCapCtrl g) (w ||| 0x80000000#32) →
    Runs (.captureArm m g w) s fun t =>
      (leadOk 2 (w.setWidth 16) s.dev.capTick = true → t.dev.capArmed g = true ∧
        (t.dev.reg (aCapCtrl g)).setWidth 16 = w.setWidth 16) ∧
      (leadOk 2 (w.setWidth 16) s.dev.capTick = false → t.dev.capArmed g = false ∧ t.dev.bit (aCapStat g) 1 = true) ∧
      RegsBut [aCapCtrl g, aCapStat g] s t ∧ OnlyIn [.regs] s t) ∧
  (∀ (s : State) (g : Fin 8), s.dev.capArmed g = true → (s.dev.reg (aCapCtrl g)).setWidth 16 = s.dev.capTick →
    Runs (.captureStart g) s fun t => (t.dev.region g).capRun = true ∧ OnlyIn [.regions] s t) ∧
  (∀ (s : State) (g : Fin 8), (s.dev.region g).capRun = true →
    Runs (.captureDone g) s fun t => t.dev.capArmed g = false ∧ t.dev.bit (aCapStat g) 0 = true ∧
      (t.dev.region g).capRun = false ∧ RegsBut [aCapCtrl g, aCapStat g] s t) ∧
  (∀ (s : State) (g : Fin 8) (r : CalRun) (ms : List (Nat × List Int)), (s.dev.region g).run = some r → r.position < 65 →
    s.dev.bit (aCvtCal g) 15 = false → s.dev.capArmed g = false → (stepJudged s g r ms).2 = true →
    Runs (.sliceHandover g ms) s fun t =>
      let f := putAll r.found (stepJudged s g r ms).1
      (t.dev.region g).run = some (if r.position = 0 ∨ r.spare
        then { r with position := r.position + 1, spare := false, found := f } else { r with spare := true, found := f }) ∧ RegsBut [aCvtCal g] s t ∧ OnlyIn [.regs, .regions] s t) ∧
  (∀ (s : State) (g : Fin 8) (r : CalRun) (ms : List (Nat × List Int)), (s.dev.region g).run = some r → 0 < r.position →
    r.position < 65 → s.dev.bit (aCvtCal g) 15 = false → s.dev.capArmed g = true → (stepJudged s g r ms).2 = true →
    Runs (.sliceHandover g ms) s fun t => t.dev.bit (aCvtCal g) 15 = true ∧
      (t.dev.region g).run = some { r with found := putAll r.found (stepJudged s g r ms).1 } ∧
      RegsBut [aCvtCal g] s t ∧ OnlyIn [.regs, .regions] s t) ∧
  (∀ (s : State) (g : Fin 8) (r : CalRun) (ms : List (Nat × List Int)), (s.dev.region g).run = some r → r.position < 65 →
    s.dev.bit (aCvtCal g) 15 = false → (stepJudged s g r ms).2 = false → logOrSafe s g 6 →
    Runs (.sliceHandover g ms) s fun t => t.dev.bit aBnStat 1 = true ∧ t.dev.faultStatus g 6 = true ∧ t.conn = s.conn) ∧
  (∀ (s : State) (g : Fin 8) (r : CalRun), (s.dev.region g).run = some r → s.dev.bit (aCvtCal g) 15 = true →
    s.dev.capArmed g = false →
    Runs (.deferredHandover g) s fun t => t.dev.bit (aCvtCal g) 15 = false ∧ (t.dev.region g).run ≠ some r ∧
      RegsBut [aCvtCal g] s t ∧ OnlyIn [.regs, .regions] s t) ∧
  (∀ (s : State) (g : Fin 8) (r : CalRun), (s.dev.region g).run = some r → 65 ≤ r.position →
    Runs (.backgroundRunEnd g) s fun t => (t.dev.region g).run = none ∧ t.dev.reg (aCvtCal g) = 0 ∧
      t.dev.trefRun g = r.startTemp ∧ (t.dev.region g).factors = putAll (s.dev.region g).factors r.found)

/-- The engine control bus takes the oldest transaction of the lowest class, judges it by its echo, retries it once and then
abandons it with its bit, its source and an event. -/
def engineControlBusRule : Prop :=
  (∀ (s : State) (g : Fin 8) (x : Spi) (q : List Spi), busLive s g → (s.dev.region g).bus = none →
    spiNext (s.dev.region g).queue = some (x, q) →
    Runs (.spiTransaction g) s fun t => (t.dev.region g).bus = some x ∧ (t.dev.region g).queue = q ∧
      (∃ n p, t.dev.out = .spi g x.read x.addr x.data n p :: s.dev.out) ∧ OnlyIn [.regions, .out] s t) ∧
  (∀ (s : State) (g : Fin 8) (x : Spi) (v : BitVec 16) (c : Nat), (s.dev.region g).bus = some x → x.gain = some c →
    x.ring = false →
    Runs (.spiTransactionEnd g 0xA5 v) s fun t => (t.dev.region g).bus = none ∧
      t.dev.fld (feBase g + 0xA0 + 4 * (c % 6)) ⟨0, 5⟩ = x.data.toNat % 32 ∧
      RegsBut [feBase g + 0xA0 + 4 * (c % 6)] s t ∧ OnlyIn [.regs, .regions] s t) ∧
  (∀ (s : State) (g : Fin 8) (x : Spi) (e : Byte) (v : BitVec 16), (s.dev.region g).bus = some x → x.retried = false → e ≠ 0xA5 →
    Runs (.spiTransactionEnd g e v) s fun t => (t.dev.region g).bus = none ∧
      (t.dev.region g).waiting = (s.dev.region g).waiting ++ [{ x with retried := true }] ∧ OnlyIn [.regions] s t) ∧
  (∀ (s : State) (g : Fin 8) (x : Spi) (e : Byte) (v : BitVec 16), (s.dev.region g).bus = some x → x.retried = true → e ≠ 0xA5 →
    Runs (.spiTransactionEnd g e v) s fun t => (t.dev.region g).bus = none ∧ t.dev.faultStatus g 14 = true ∧
      (s.dev.faultClass g 14 = 0 → t.dev.bit (feBase g + 0xE0) 0 = true) ∧ (x.ring = true → Completed s t 0 stRefused)) ∧
  (∀ (s : State) (g : Fin 8) (x : Spi) (w : List Spi), (s.dev.region g).waiting = x :: w →
    Runs (.spiRetry g) s fun t => (t.dev.region g).queue = x :: (s.dev.region g).queue ∧ (t.dev.region g).waiting = w ∧
      OnlyIn [.regions] s t)

/-- The I2C controller: an acknowledged transfer hands over its bytes and completes its command; any other end is abandoned with its
bit, and a line still stuck low is noted. -/
def i2cControllerRule : Prop :=
  (∀ (s : State) (g : Fin 8) (sda : Sda) (bs : List Byte), (s.dev.region g).i2c = true → bs ≠ [] →
    Runs (.i2cTransferEnd g true sda bs) s fun t => (t.dev.region g).i2c = false ∧ Sends s t (.buffer 0 bs) ∧
      Completed s t 0 stDone ∧ OnlyIn (.regions :: recordParts) s t) ∧
  (∀ (s : State) (g : Fin 8) (sda : Sda) (bs : List Byte), (s.dev.region g).i2c = true →
    Runs (.i2cTransferEnd g false sda bs) s fun t => (t.dev.region g).i2c = false ∧ t.dev.bit (feBase g + 0xE0) 1 = true ∧
      (sda ≠ .high → Sends s t (.i2cRecover g)) ∧ (sda = .stuck → t.dev.bit (feBase g + 0xE0) 2 = true)) ∧
  (∀ (s : State) (g : Fin 8) (sda : Sda), (s.dev.region g).i2c = true →
    Runs (.i2cStretchTimeout g sda) s fun t => (t.dev.region g).i2c = false ∧ t.dev.bit (feBase g + 0xE0) 1 = true ∧
      (s.dev.grantedOp 0 0x130 = true → Completed s t 0 stRefused)) ∧
  (∀ (s : State) (m : Master) (g : Fin 8), s.dev.bit (feBase g + 0xE0) 2 = true →
    Accepted s m (feBase g + 0xE0) ((s.dev.reg (feBase g + 0xE0) &&& 8) ||| 4) { sda := some .high } →
    Runs (.sdaStuckClear m g .high) s fun t => t.dev.bit (feBase g + 0xE0) 2 = false ∧ (t.dev.region g).sda = .high ∧
      RegsBut [feBase g + 0xE0] s t ∧ OnlyIn [.regs, .regions] s t)

/-- The gain loop queues one step towards its window; the laser loops store a trim within its limit and write it to the engine. -/
def gainAndLaserLoopsRule : Prop :=
  (∀ (s : State) (c : Fin 48) (p : Nat), s.dev.bit (feBase (c / 6) + 0x50 + 4 * (c % 6)) 0 = false → s.dev.lightHold c = false →
    p < 100 * s.dev.fld (feBase (c / 6) + 0x40) ⟨8, 6⟩ → s.dev.fld (feBase (c / 6) + 0xA0 + 4 * (c % 6)) ⟨0, 5⟩ ≠ 0 →
    busLive s (c / 6) →
    Runs (.gainDwell c p) s fun t =>
      (∃ x, (t.dev.region (c / 6)).queue = (s.dev.region (c / 6)).queue ++ [x] ∧ x.gain = some c.val ∧ x.cls = 1 ∧
        x.data.toNat + 1 = s.dev.fld (feBase (c / 6) + 0xA0 + 4 * (c % 6)) ⟨0, 5⟩) ∧ OnlyIn [.regions] s t) ∧
  (∀ (s : State) (c : Fin 48), s.dev.bit (feBase (c / 6) + 0x90) 0 = true → s.dev.rxState c = rxLocked →
    (s.dev.carrier c).rep ≠ some 1 → s.dev.fld (feBase (c / 6) + 0x90) ⟨16, 8⟩ < (s.dev.carrier c).offset.natAbs →
    Runs (.loSteerUpdate c) s fun t =>
      (Fld.int ⟨0, 16⟩ (t.dev.reg (feBase (c / 6) + 0xC0 + 4 * (c % 6)))).natAbs ≤ s.dev.fld (feBase (c / 6) + 0x98) ⟨0, 12⟩ ∧
      RegsBut [feBase (c / 6) + 0xC0 + 4 * (c % 6), feBase (c / 6) + 0xA0 + 4 * (c % 6)] s t ∧
      OnlyIn (.regs :: .regions :: recordParts) s t) ∧
  (∀ (s : State) (c : Fin 48) (q : Int), s.dev.farOffset c = some q → s.dev.bit (feBase (c / 6) + 0x94) 0 = true →
    s.dev.recentBlock = true → 4 * s.dev.fld (feBase (c / 6) + 0x94) ⟨16, 8⟩ < q.natAbs →
    Runs (.txTrimPeriod c) s fun t =>
      (Fld.int ⟨16, 16⟩ (t.dev.reg (feBase (c / 6) + 0xC0 + 4 * (c % 6)))).natAbs ≤ s.dev.fld (feBase (c / 6) + 0x98) ⟨16, 12⟩ ∧
      RegsBut [feBase (c / 6) + 0xC0 + 4 * (c % 6), feBase (c / 6) + 0xA0 + 4 * (c % 6)] s t ∧
      OnlyIn (.regs :: .regions :: recordParts) s t)

/-- The housekeeping ADC: a conversion is stored with valid set, an urgent one before the sequence; a snapshot is armed by a good
lead and taken at its tick; a calibration empties the results and its factors are taken or refused. -/
def housekeepingAdcRule : Prop :=
  (∀ (s : State) (g : Fin 8) (code : BitVec 16) (i : Nat) (u : List Nat), s.dev.hkCal g = false →
    (s.dev.region g).hk.urgent = i :: u →
    Runs (.hkConversion g code) s fun t => t.dev.reg (hkResAddr g i) = BitVec.ofNat 32 (code.toNat + 2 ^ 16) ∧
      (t.dev.region g).hk.urgent = u ∧ RegsBut [hkResAddr g i] s t ∧ OnlyIn [.regs, .regions] s t) ∧
  (∀ (s : State) (g : Fin 8) (code : BitVec 16) (i : Nat), s.dev.hkCal g = false → (s.dev.region g).hk.urgent = [] →
    hkAt (s.dev.reg (feBase g + 0x100)) (s.dev.region g).hk.current = some i →
    Runs (.hkConversion g code) s fun t => t.dev.reg (hkResAddr g i) = BitVec.ofNat 32 (code.toNat + 2 ^ 16) ∧
      (t.dev.region g).hk.current = (i + 1) % 12 ∧ RegsBut [hkResAddr g i] s t ∧ OnlyIn [.regs, .regions] s t) ∧
  (∀ (s : State) (g : Fin 8) (i : Fin 12), Runs (.hkUrgentRequest g i) s fun t =>
    (t.dev.region g).hk.urgent = (s.dev.region g).hk.urgent ++ [i.val] ∧ OnlyIn [.regions] s t) ∧
  (∀ (s : State) (m : Master) (g : Fin 8) (w : Word), Accepted s m (feBase g + 0x140) (w ||| 0x80000000#32) →
    Runs (.hkSnapshotArm m g w) s fun t =>
      t.dev.bit (feBase g + 0x140) 31 = leadOk 2 (w.setWidth 16) s.dev.capTick ∧
      (leadOk 2 (w.setWidth 16) s.dev.capTick = false → t.dev.bit (feBase g + 0x144) 17 = true) ∧
      RegsBut [feBase g + 0x140, feBase g + 0x144] s t ∧ OnlyIn [.regs] s t) ∧
  (∀ (s : State) (g : Fin 8) (code : BitVec 16), s.dev.bit (feBase g + 0x140) 31 = true →
    (s.dev.reg (feBase g + 0x140)).setWidth 16 = s.dev.capTick →
    Runs (.hkSnapshot g code) s fun t => t.dev.bit (feBase g + 0x140) 31 = false ∧
      t.dev.fld (feBase g + 0x144) ⟨0, 16⟩ = code.toNat ∧ t.dev.bit (feBase g + 0x144) 16 = true ∧
      RegsBut [feBase g + 0x140, feBase g + 0x144] s t ∧ OnlyIn [.regs] s t) ∧
  (∀ (s : State) (m : Master) (g : Fin 8), s.dev.hkCal g = false →
    Accepted s m (feBase g + 0x100) ((s.dev.reg (feBase g + 0x100) &&& 0x1FFF) ||| 0x2000) →
    Runs (.hkCalibrate m g) s fun t => t.dev.hkCal g = true ∧ (∀ i < 12, t.dev.bit (hkResAddr g i) 16 = false) ∧
      OnlyIn [.regs] s t) ∧
  (∀ (s : State) (g : Fin 8) (off : Int) (gain : Nat), s.dev.hkCal g = true → off.natAbs ≤ 64 → 98 * 32768 ≤ 100 * gain →
    100 * gain ≤ 102 * 32768 →
    Runs (.hkCalibrationEnd g off gain) s fun t => t.dev.hkCal g = false ∧
      t.dev.reg (feBase g + 0x148) = BitVec.ofNat 32 (codeOf 16 off + gain * 2 ^ 16) ∧
      RegsBut [feBase g + 0x100, feBase g + 0x148] s t ∧ OnlyIn [.regs] s t) ∧
  (∀ (s : State) (g : Fin 8) (off : Int) (gain : Nat), s.dev.hkCal g = true → 64 < off.natAbs →
    Runs (.hkCalibrationEnd g off gain) s fun t => t.dev.hkCal g = false ∧ t.dev.bit (feBase g + 0x100) 14 = true ∧
      t.dev.reg (feBase g + 0x148) = s.dev.reg (feBase g + 0x148) ∧ t.dev.faultStatus g 16 = true)

/-- The engine control bus and the I2C controller. -/
def Obligations.EngineBusAndI2c : Prop :=
  engineControlBusRule ∧ i2cControllerRule

/-- The gain and laser loops, and the housekeeping ADC. -/
def Obligations.FrontEndLoopsAndAdc : Prop :=
  gainAndLaserLoopsRule ∧ housekeepingAdcRule

/-! Crosshatch (chapter 11). -/

/-- The two banks of a direction have changed roles with their headers. -/
def banksChanged (s t : State) (c : Nat) (rx : Bool) : Prop :=
  t.dev.xhAct c rx = 1 - s.dev.xhAct c rx ∧ t.dev.reg (aHdrInactive c rx) = s.dev.reg (aHdrActive c rx) ∧
    t.dev.reg (aHdrActive c rx) = s.dev.reg (aHdrInactive c rx)

/-- An arm of a transmit swap passes: table, lead and state. -/
abbrev xhArmGood (s : State) (c : Nat) : Prop :=
  s.dev.inactiveOk c false (s.dev.reg (aHdrInactive c false)) = true ∧
    leadOk 4 (s.dev.reg (aTxt c)) (s.dev.reg (aXhCbmf c)) = true ∧ s.dev.cState c = csRun

/-- A transmit swap is armed or turned away at once, with a bit for each condition and one event, and is taken at its band
multiframe and at no other; a copy makes the inactive bank and its header what the bank in use is. -/
def Obligations.CrosshatchTransmitBanks : Prop :=
  (∀ (s : State) (m : Master) (c : Fin 48), Accepted s m (aTxb c) 2 →
    Runs (.xhTxArm m c) s fun t =>
      (xhArmGood s c → t.dev.bit (aTxb c) 1 = true ∧ RegsBut [aTxb c] s t ∧ OnlyIn [.regs] s t) ∧
      (¬ xhArmGood s c → t.dev.bit (aTxb c) 1 = false ∧
        (s.dev.inactiveOk c false (s.dev.reg (aHdrInactive c false)) = false → t.dev.bit (aTxb c) 3 = true) ∧
        (leadOk 4 (s.dev.reg (aTxt c)) (s.dev.reg (aXhCbmf c)) = false ∨ s.dev.cState c ≠ csRun →
          t.dev.bit (aTxb c) 4 = true) ∧
        RegsBut [aTxb c] s t ∧ OnlyIn (.regs :: recordParts) s t ∧
        (EventRoom s 0 → ∃ why, Recorded s t 0 ⟨.other why, 0, 8 + c / 12, 0, c, []⟩))) ∧
  (∀ (s : State) (c : Fin 48), s.dev.xhTxArmed c = true → s.dev.reg (aXhCbmf c) = s.dev.reg (aTxt c) →
    Runs (.xhTxSwap c) s fun t => banksChanged s t c false ∧ t.dev.xhTxArmed c = false ∧
      RegsBut [aTxb c, aHdrInactive c false, aHdrActive c false] s t ∧ OnlyIn [.regs] s t) ∧
  (∀ (s : State) (c : Fin 48), s.dev.xhTxArmed c = false ∨ s.dev.reg (aXhCbmf c) ≠ s.dev.reg (aTxt c) →
    Runs (.xhTxSwap c) s fun t => t = s) ∧
  (∀ (s : State) (m : Master) (c : Fin 48), Accepted s m (aTxb c) 4 →
    Runs (.xhTxCopy m c) s fun t => t.dev.bit (aTxb c) 2 = true ∧ RegsBut [aTxb c] s t ∧ OnlyIn [.regs] s t) ∧
  (∀ (s : State) (m : Master) (c : Fin 48), Accepted s m (aRxb c) 4 →
    Runs (.xhRxCopy m c) s fun t => t.dev.bit (aRxb c) 2 = true ∧ RegsBut [aRxb c] s t ∧ OnlyIn [.regs] s t) ∧
  (∀ (s : State) (c : Fin 48) (dir : Dir), s.dev.bit (aXb c (dir = .rx)) 2 = true →
    Runs (.xhCopyDone c dir) s fun t => t.dev.bit (aXb c (dir = .rx)) 2 = false ∧
      (∀ i < 4096, t.dev.bankWord c (dir = .rx) (1 - s.dev.xhAct c (dir = .rx)) i =
          s.dev.bankWord c (dir = .rx) (s.dev.xhAct c (dir = .rx)) i ∧
        t.dev.bankWord c (dir = .rx) (s.dev.xhAct c (dir = .rx)) i =
          s.dev.bankWord c (dir = .rx) (s.dev.xhAct c (dir = .rx)) i) ∧
      t.dev.reg (aHdrInactive c (dir = .rx)) = s.dev.reg (aHdrActive c (dir = .rx)) ∧
      RegsBut [aXb c (dir = .rx), aHdrInactive c (dir = .rx)] s t ∧ OnlyIn [.regs, .banks] s t)

/-- The receive bank changes at the announced band multiframe, or late with late set, and the trims then return to 1.0; writing an
entry takes ld from the inactive bank, and ld is set again only over a bank that passes its check. -/
def crosshatchReceiveBanksRule : Prop :=
  (∀ (s : State) (c : Fin 48), (s.dev.carrier c).xhAt.isSome = true → (s.dev.carrier c).xhLate = none →
    Runs (.xhRxSwap c) s fun t => banksChanged s t c true ∧ t.dev.bit (aRxb c) 1 = false ∧
      (t.dev.carrier c).xhAt = none ∧ (∀ e < 5, t.dev.reg (aXhTrim c e) = 0x4000#32) ∧
      (s.dev.bit (aHdrInactive c true) 31 = false → t.dev.bit (aRxb c) 4 = true ∧ t.dev.bit (aXhStat c) 8 = true) ∧
      OnlyIn (.regs :: .carriers :: recordParts) s t) ∧
  (∀ (s : State) (c : Fin 48) (ev : Bool), (s.dev.carrier c).xhLate = some ev →
    Runs (.xhRxLateSwap c) s fun t => banksChanged s t c true ∧ t.dev.bit (aRxb c) 3 = true ∧
      (t.dev.carrier c).xhLate = none ∧ OnlyIn (.regs :: .carriers :: recordParts) s t ∧
      (ev = true → s.dev.bit (aHdrInactive c true) 31 = true → EventRoom s 0 →
        Recorded s t 0 ⟨.other .receiveLate, 0, 8 + c / 12, 0, c, []⟩)) ∧
  (∀ (s : State) (m : Master) (c : Fin 48) (i : Fin 4096) (w : Word), Accepted s m (rxBankAddr c i) w →
    Runs (.xhBankEntryWrite m c i w) s fun t => t.dev.bankWord c true (1 - s.dev.xhAct c true) i = w ∧
      t.dev.bit (aHdrInactive c true) 31 = false ∧ RegsBut [aHdrInactive c true] s t ∧ OnlyIn [.regs, .banks] s t ∧
      (∀ j < 4096, t.dev.bankWord c true (s.dev.xhAct c true) j = s.dev.bankWord c true (s.dev.xhAct c true) j)) ∧
  (∀ (s : State) (m : Master) (c : Fin 48) (w : Word), Accepted s m (xhBase c + 0x24) w →
    Runs (.xhRxhWrite m c w) s fun t => t.dev.fld (aHdrInactive c true) ⟨0, 12⟩ = Fld.get ⟨0, 12⟩ w ∧
      t.dev.bit (aHdrInactive c true) 31 = w.getLsbD 31 ∧ (w.getLsbD 31 = true → s.dev.inactiveOk c true w = true) ∧
      RegsBut [aHdrInactive c true] s t ∧ OnlyIn [.regs] s t) ∧
  (∀ (s : State) (m : Master) (c : Fin 48), Accepted s m (xhBase c + 0x28) 0x80000000 →
    Runs (.xhRxaLdWrite m c) s fun t => t.dev.bit (aHdrActive c true) 31 = true ∧ (t.dev.carrier c).xhStop = false ∧
      (s.dev.rxState c = rxLocked → (s.dev.carrier c).xhFirst = false → t.dev.bit (aXhStat c) 8 = false) ∧
      RegsBut [aHdrActive c true, aXhStat c] s t ∧ OnlyIn [.regs, .carriers] s t)

/-- A neighbour's miss bit follows its presence with an event at each change; an absent remote stream is present no longer; a
refinement step takes the moves, and one that lost more than 0.05 dB is taken back. -/
def neighboursAndRefinementRule : Prop :=
  (∀ (s : State) (c : Fin 48) (dir : Dir) (slot : Fin 4),
    Runs (.neighbourChange c dir slot) s fun t =>
      t.dev.bit (aXhStat c) (missBit slot (dir = .rx)) = !s.dev.nbPresent c slot (dir = .rx) ∧
      RegsBut [aXhStat c] s t ∧ OnlyIn (.regs :: recordParts) s t ∧
      (s.dev.bit (aXhStat c) (missBit slot (dir = .rx)) = s.dev.nbPresent c slot (dir = .rx) → EventRoom s 0 →
        Recorded s t 0 ⟨.other .neighbour, 0, 8 + c / 12, 0, c,
          [missBit slot (dir = .rx), (!s.dev.nbPresent c slot (dir = .rx)).toNat]⟩)) ∧
  (∀ (s : State) (k : Fin 4) (dir : Dir) (car : Fin 48),
    Runs (.summaryAbsent k dir car) s fun t => t.dev.streamPresent k car (dir = .rx) = false ∧ OnlyIn [.bs] s t ∧
      ∀ x, x ≠ (k.val, decide (dir = .rx), car.val) → (x ∈ t.dev.bs.streams ↔ x ∈ s.dev.bs.streams)) ∧
  (∀ (s : State) (c : Fin 48) (ws : List Word) (snr : Nat), (s.dev.actReg (xhBase c)).getLsbD 2 = true →
    (s.dev.carrier c).oldTrims = [] → ws.length = 5 → ws.all trimInLimits = true →
    (∀ e < 5, trimStepOk (s.dev.reg (aXhTrim c e)) (ws.getD e 0) = true) →
    Runs (.refinementStep c ws snr) s fun t => (∀ e < 5, t.dev.reg (aXhTrim c e) = ws.getD e 0) ∧
      (t.dev.carrier c).snrBefore = snr ∧ RegsBut ((List.range 5).map (aXhTrim c)) s t ∧ OnlyIn [.regs, .carriers] s t) ∧
  (∀ (s : State) (c : Fin 48) (snr : Nat), (s.dev.carrier c).oldTrims ≠ [] → snr + 5 < (s.dev.carrier c).snrBefore →
    Runs (.refinementEvaluation c snr) s fun t =>
      (∀ e < 5, t.dev.reg (aXhTrim c e) = (s.dev.carrier c).oldTrims.getD e 0x4000#32) ∧ (t.dev.carrier c).oldTrims = [] ∧
      t.conn = s.conn) ∧
  (∀ (s : State) (c : Fin 48) (snr : Nat), (s.dev.carrier c).oldTrims ≠ [] → (s.dev.carrier c).snrBefore ≤ snr + 5 →
    Runs (.refinementEvaluation c snr) s fun t => (t.dev.carrier c).oldTrims = [] ∧ OnlyIn [.carriers] s t)

/-! The timing core (chapter 12). -/

/-- No commit of the timing cluster is pending, so that a loop update is none (R350). -/
abbrev noTimingCommit (s : State) : Prop :=
  s.dev.cmtPending .timing = false ∧ (s.dev.cluster (clusterCode .timing)).due = false

/-- The candidate in use stays: selection runs, and the one in use is eligible and still the best. -/
abbrev useStands (s : State) : Prop :=
  s.dev.tMode = 0 ∧ s.dev.tm.inUse.any s.dev.eligible = true ∧ s.dev.bestCand = s.dev.tm.inUse

/-- The control value `x` is in force, held within ±TM_BW.lim, and TM_CV shows it (R334). -/
abbrev cvApplied (s t : State) (x : Int) : Prop :=
  t.dev.tm.cv = clampInt (-s.dev.cvLimit) s.dev.cvLimit x ∧ t.dev.reg 0x4020 = BitVec.ofInt 32 t.dev.tm.cv ∧
    (s.dev.cvLimit ≤ x.natAbs → t.dev.bit aTmStat 9 = true)

/-- Holdover is entered on a mean of at least 60 valid seconds, and free run otherwise. -/
def holdoverOrFree (s t : State) : Prop :=
  t.dev.tm.inUse = none ∧ (60 ≤ s.dev.holdEntries.length → t.dev.tState = tsHoldover) ∧
    (s.dev.holdEntries.length < 60 → t.dev.tState = tsFree ∧ t.dev.tm.cv = 0)

/-- A loop update applies the filter's value for a new phase sample within the limit and leaves the control value without one, selects
the best candidate into ACQUIRE with the control value continuous, or falls to holdover when nothing is eligible; while software
has the loop it applies what software wrote, within the limit. A phase sample counts from the offset absorbed, the first sample of
a candidate in use. Lock follows a phase error within its threshold. -/
def timingLoopRule : Prop :=
  (∀ s : State, noTimingCommit s → useStands s → s.dev.tState = tsAcquire ∨ s.dev.tState = tsLocked → s.dev.tm.sampled = true →
    Runs .loopUpdate s fun t =>
      cvApplied s t (s.dev.tm.cv + Config.cvStep s.dev.loopBandwidth s.dev.tm.perrOld s.dev.tm.perr) ∧
      t.dev.tState = s.dev.tState ∧ t.dev.tm.sampled = false ∧ t.dev.tm.cvN = s.dev.tm.cvN + 1 ∧
      RegsBut [0x4020, aTmStat] s t ∧ OnlyIn [.regs, .tm] s t) ∧
  (∀ s : State, noTimingCommit s → useStands s → s.dev.tState = tsAcquire ∨ s.dev.tState = tsLocked → s.dev.tm.sampled = false →
    Runs .loopUpdate s fun t => t.dev.tm.cv = s.dev.tm.cv ∧ t.dev.tm.inUse = s.dev.tm.inUse ∧ OnlyIn [.tm] s t) ∧
  (∀ (s : State) (n : Nat), noTimingCommit s → s.dev.tMode = 0 → s.dev.tState ≠ tsSoftware → s.dev.tm.inUse = none →
    s.dev.bestCand = some n →
    Runs .loopUpdate s fun t => t.dev.tState = tsAcquire ∧ t.dev.tm.inUse = some n ∧ t.dev.fld aTmStat ⟨3, 3⟩ = n ∧
      t.dev.tm.cv = s.dev.tm.cv ∧ RegsBut [aTmStat] s t ∧ OnlyIn [.regs, .tm] s t) ∧
  (∀ (s : State) (n : Nat), noTimingCommit s → s.dev.tMode = 0 → s.dev.tState ≠ tsSoftware → s.dev.tm.inUse = some n →
    s.dev.eligible n = false → s.dev.bestCand = none →
    Runs .loopUpdate s fun t => holdoverOrFree s t ∧ OnlyIn [.regs, .tm, .free] s t) ∧
  (∀ (s : State) (v : Int), noTimingCommit s → s.dev.tState = tsSoftware → s.dev.tm.inUse = none → s.dev.bestCand = none →
    s.dev.tm.swCv = some v →
    Runs .loopUpdate s fun t => cvApplied s t v ∧ t.dev.tm.swCv = none ∧ RegsBut [0x4020, aTmStat] s t ∧
      OnlyIn [.regs, .tm] s t) ∧
  (∀ (s : State) (err : Int) (at_ : Fin 4000) (n : Nat), s.dev.tm.inUse = some n → s.dev.candType n ≠ 3 →
    Runs (.phaseSample err at_) s fun t =>
      t.dev.tm.perr = clampInt (-(2 : Int) ^ 31) ((2 : Int) ^ 31 - 1) (err - s.dev.tm.absorbed.getD err) ∧
      t.dev.tm.absorbed = some (s.dev.tm.absorbed.getD err) ∧ t.dev.tm.sampled = true ∧
      (s.dev.tState = tsSoftware → t.dev.reg 0x4024 = BitVec.ofInt 32 t.dev.tm.perr ∧
        t.dev.fld 0x4028 ⟨0, 16⟩ = (s.dev.fld 0x4028 ⟨0, 16⟩ + 1) % 2 ^ 16) ∧
      RegsBut [0x4024, 0x4028, aTmStat] s t ∧ OnlyIn [.regs, .tm] s t) ∧
  (∀ (s : State) (err v : Int) (at_ : Fin 4000) (n : Nat), s.dev.tm.inUse = some n → s.dev.candType n = 3 →
    s.dev.tm.swPhase = some v →
    Runs (.phaseSample err at_) s fun t =>
      t.dev.tm.perr = clampInt (-(2 : Int) ^ 31) ((2 : Int) ^ 31 - 1) (v - s.dev.tm.absorbed.getD v) ∧
      t.dev.tm.swPhase = none ∧ t.dev.tm.sampled = true ∧
      RegsBut [0x4024, 0x4028, aTmStat] s t ∧ OnlyIn [.regs, .tm] s t) ∧
  (∀ s : State, s.dev.tState = tsAcquire → s.dev.tm.absorbed.isSome = true →
    s.dev.tm.perr.natAbs ≤ 4 * s.dev.actFld 0x4010 ⟨0, 10⟩ →
    Runs .timingLock s fun t => t.dev.tState = tsLocked ∧ t.dev.tm.cv = s.dev.tm.cv ∧ RegsBut [aTmStat] s t ∧
      OnlyIn [.regs, .tm] s t) ∧
  (∀ s : State, s.dev.faultClass 12 8 = 4 →
    Runs .sysoscLoss s fun t => t.dev.safe = true ∧ t.dev.faultStatus 12 8 = true ∧ t.conn = s.conn)

/-- Candidates are disqualified by their monitors, of their frequency and of their signal, and requalify with or without a wait once
all of them pass; software sets the control value and the phase while the loop is open, and loses the loop after its timeout; each
second stores one history entry. -/
def timingCandidatesAndSoftwareRule : Prop :=
  (∀ (s : State) (n : Fin 8) (ppb : Int), s.dev.candEn n = true → s.dev.inRange ppb = false →
    Runs (.candidateDisqualify n (.frq ppb)) s fun t => t.dev.fld (aCand n) ⟨18, 2⟩ = 0 ∧ t.dev.bit (aCand n) 21 = true ∧
      RegsBut [aCand n] s t ∧ OnlyIn [.regs, .tm] s t) ∧
  (∀ (s : State) (n : Fin 8), s.dev.candEn n = true → (s.dev.candType n ≠ 1 ∧ s.dev.candType n ≠ 2) ∨ s.dev.candAlive n = false →
    Runs (.candidateDisqualify n .los) s fun t => t.dev.fld (aCand n) ⟨18, 2⟩ = 0 ∧ t.dev.bit (aCand n) 20 = true ∧
      RegsBut [aCand n] s t ∧ OnlyIn [.regs, .tm] s t) ∧
  (∀ (s : State) (n : Fin 8) (ppb : Int), s.dev.candEn n = true → s.dev.bit (aCand n) 18 = false →
    s.dev.candAlive n = true → s.dev.inRange ppb = true →
    Runs (.candidateMonitorsPass n ppb) s fun t =>
      (s.dev.tm.requal.contains n.val = true → t.dev.bit (aCand n) 18 = true) ∧
      (s.dev.tm.requal.contains n.val = false → t.dev.bit (aCand n) 19 = true ∧ t.dev.bit (aCand n) 18 = false) ∧
      RegsBut [aCand n] s t ∧ OnlyIn [.regs, .tm] s t) ∧
  (∀ (s : State) (n : Fin 8), s.dev.bit (aCand n) 19 = true →
    Runs (.waitToRestoreEnd n) s fun t => t.dev.bit (aCand n) 18 = true ∧ t.dev.bit (aCand n) 19 = false ∧
      RegsBut [aCand n] s t ∧ OnlyIn [.regs] s t) ∧
  (∀ (s : State) (m : Master) (w : Word), Accepted s m 0x4020 w →
    Runs (.tmCvWrite m w) s fun t => t.dev.tm.swCv = some w.toInt ∧ t.dev.tm.cv = s.dev.tm.cv ∧ OnlyIn [.tm] s t) ∧
  (∀ (s : State) (m : Master) (w : Word), Accepted s m 0x402C w →
    Runs (.tmSwphWrite m w) s fun t => t.dev.tm.swPhase = some w.toInt ∧ OnlyIn [.tm] s t) ∧
  (∀ s : State, s.dev.tState = tsSoftware →
    Runs .softwareTimeout s fun t => holdoverOrFree s t ∧ t.dev.bit aTmStat 8 = true ∧ t.dev.tm.swCv = none ∧
      OnlyIn (.regs :: .tm :: recordParts) s t) ∧
  (∀ s : State, Runs .historyStore s fun t => t.dev.tm.cvN = 0 ∧ t.dev.tm.cvSum = 0 ∧ OnlyIn [.tm, .free] s t ∧
    ∃ e, t.dev.tm.history = (e :: s.dev.tm.history).take 7800 ∧
      (e.isSome ↔ (s.dev.tm.secondOk = true ∧ (s.dev.tState = tsLocked ∨ s.dev.tState = tsSoftware))) ∧
      (∀ v, e = some v → s.dev.tm.cvN ≠ 0 → s.dev.tm.cvSum % s.dev.tm.cvN = 0 → v = s.dev.tm.cvSum / s.dev.tm.cvN))

/-- The timing core: its loop, its candidates, and software's part. -/
def Obligations.TimingCore : Prop :=
  timingLoopRule ∧ timingCandidatesAndSoftwareRule

/-- Receive banks, neighbours and refinement. -/
def Obligations.CrosshatchReceiveSide : Prop :=
  crosshatchReceiveBanksRule ∧ neighboursAndRefinementRule

/-! The Registration link and band sets (chapter 13). -/

/-- Every lane of link `j` sends the symbols `syms`, coded on from its running disparity. -/
def laneSends (s t : State) (j : Nat) (syms : List LinkSym) : Prop :=
  ∀ lane : Fin 8, Sends s t (.lane j lane (codeLane ((s.dev.link j).rdPlus.contains lane.val) syms).1)

/-- A link trains, aligns and carries cells: taps follow the requests within their limits, all lanes ready align it, skip sets in place
bring it up and four misses take it down; it goes idle and leaves idle by a burst. -/
def Obligations.LinkTrainingAndStates : Prop :=
  (∀ (s : State) (j : Fin 3) (lane : Fin 8) (req own : Byte), s.dev.linkEn j = true → s.dev.lState j = lsTraining →
    Runs (.rlTrainingFrame j lane req own) s fun t =>
      t.dev.fld (aRlTap j lane) ⟨0, 3⟩ = (if req.getLsbD 4 then 2
        else (tapMove (req.toNat % 4) (s.dev.fld (aRlTap j lane) ⟨0, 3⟩) 7).1) ∧
      t.dev.fld (aRlTap j lane) ⟨4, 4⟩ = (if req.getLsbD 4 then 4
        else (tapMove (req.toNat / 4 % 4) (s.dev.fld (aRlTap j lane) ⟨4, 4⟩) 15).1) ∧
      (t.dev.lState j = lsAligning ↔ (t.dev.link j).readyFar.length = 8 ∧ (t.dev.link j).readyNear.length = 8) ∧
      (req.getLsbD 5 = true → lane.val ∈ (t.dev.link j).readyFar) ∧ (own.getLsbD 5 = true → lane.val ∈ (t.dev.link j).readyNear) ∧
      (∃ st, t.dev.out = .lane j lane (codeLane ((s.dev.link j).rdPlus.contains lane.val) (trainingSyms own st)).1 :: s.dev.out) ∧
      RegsBut [aRlTap j lane, aRlLink j] s t ∧ OnlyIn [.regs, .links, .out] s t) ∧
  (∀ (s : State) (j : Fin 3), s.dev.lState j = lsTraining →
    Runs (.rlTrainingTimeout j) s fun t => t.dev.bit (aRlLink j) 7 = true ∧ RegsBut [aRlLink j] s t ∧
      OnlyIn (.regs :: recordParts) s t ∧ (EventRoom s 0 → Recorded s t 0 ⟨.other .linkEvent, 0, 12, 0, j, []⟩)) ∧
  (∀ (s : State) (j : Fin 3), s.dev.lState j = lsTraining →
    Runs (.rlTrainingRestart j) s fun t => t.dev.lState j = lsTraining ∧ (t.dev.link j).readyFar = [] ∧
      (t.dev.link j).readyNear = [] ∧ RegsBut [aRlLink j, aRlCtrl j] s t ∧ OnlyIn [.regs, .links] s t) ∧
  (∀ (s : State) (m : Master) (j : Fin 3), s.dev.linkEn j = true →
    Accepted s m (aRlCtrl j) ((s.dev.reg (aRlCtrl j) &&& 1) ||| 2) →
    Runs (.rlRetrain m j) s fun t => t.dev.lState j = lsTraining ∧ t.dev.bit (aRlCtrl j) 1 = false ∧ t.conn = s.conn ∧
      (s.dev.lState j ≠ lsDown → t.dev.registered j = false ∧
        t.dev.fld (aRlLink j) ⟨16, 16⟩ = (s.dev.fld (aRlLink j) ⟨16, 16⟩ + 1) % 2 ^ 16)) ∧
  (∀ (s : State) (j : Fin 3) (fill : List Int) (v : Nat), s.dev.lState j = lsAligning →
    Runs (.skipSet j (List.replicate 8 true) fill v) s fun t => t.dev.lState j = lsUp ∧ t.conn = s.conn) ∧
  (∀ (s : State) (j : Fin 3) (found : List Bool) (fill : List Int) (i : Fin 8) (v : Nat), s.dev.lState j = lsUp →
    found.getD i false = false → 3 ≤ (s.dev.link j).misses.getD i 0 →
    Runs (.skipSet j found fill v) s fun t => t.dev.lState j = lsDown ∧ t.dev.registered j = false ∧ t.conn = s.conn) ∧
  (∀ (s : State) (j : Fin 3) (cell : List Byte), s.dev.lState j = lsUp → cell.length = 88 →
    Runs (.cellReceived j cell) s fun t => t.conn = s.conn ∧ t.dev.lState j = lsUp ∧
      (crc32 (cell.take 84) = BitVec.ofNat 32 (bytesAt cell 84 4) →
        SMap.get (t.dev.link j).lastSeq (bytesAt cell 0 1) 65536 = bytesAt cell 2 2 ∧
        t.dev.reg (aRlLink j) = s.dev.reg (aRlLink j)) ∧
      (crc32 (cell.take 84) ≠ BitVec.ofNat 32 (bytesAt cell 84 4) →
        t.dev.bit (aRlLink j) 8 = true ∧ t.dev.links = s.dev.links)) ∧
  (∀ (s : State) (m : Master) (j : Fin 3), s.dev.lState j = lsUp → s.dev.bit (aRlCtrl j) 1 = false → Accepted s m (aRlCtrl j) 1 →
    Runs (.rlIdleEnter m j) s fun t => t.dev.lState j = lsIdle ∧ (t.dev.link j).cells = (s.dev.link j).cells ∧
      laneSends s t j (List.replicate 4 .announce) ∧ OnlyIn [.regs, .links, .out] s t) ∧
  (∀ (s : State) (j : Fin 3), s.dev.lState j = lsUp →
    Runs (.idleAnnounce j) s fun t => t.dev.lState j = lsIdle ∧ OnlyIn [.regs] s t) ∧
  (∀ (s : State) (j : Fin 3), s.dev.lState j ≠ lsIdle → s.dev.lState j ≠ lsDown →
    Runs (.rlSignalLoss j) s fun t => t.dev.lState j = lsDown ∧ t.dev.registered j = false ∧ t.conn = s.conn ∧
      t.dev.fld (aRlLink j) ⟨16, 16⟩ = (s.dev.fld (aRlLink j) ⟨16, 16⟩ + 1) % 2 ^ 16) ∧
  (∀ (s : State) (j : Fin 3), s.dev.lState j = lsIdle → s.dev.bit (aRlCtrl j) 0 = false → s.dev.pw.linkIdle = false →
    Runs (.rlIdleExit j) s fun t => t.dev.lState j = lsAligning ∧ (t.dev.link j).burst = true ∧
      laneSends s t j (List.replicate 16 (trainingSyms 0x20 0x00)).flatten ∧ RegsBut [aRlLink j] s t ∧ OnlyIn [.regs, .links, .out] s t) ∧
  (∀ (s : State) (j : Fin 3), (s.dev.link j).burst = true →
    Runs (.rlIdleExitTimeout j) s fun t => t.dev.lState j = lsTraining ∧ (t.dev.link j).burst = false ∧
      RegsBut [aRlLink j, aRlCtrl j] s t ∧ OnlyIn [.regs, .links] s t)

/-- The far package of link `j` is the one wired there, offers itself, and is another package than this one. -/
abbrev goodHello (s : State) (j : Nat) (h : Hello) : Prop :=
  h.k.val = (s.dev.ownPkg + j + 1) % 4 ∧ h.en = true ∧ h.ident ≠ Config.identity

/-- A package of the set other than this one. -/
abbrev farMember (s : State) (k : Nat) : Prop := s.dev.isMember k = true ∧ k ≠ s.dev.ownPkg

/-- Packages register by HELLO and a set forms after three agreeing periods, under its lowest-numbered package; the leader grants
the set to one change at a time; configuration and time are taken from the set. -/
def Obligations.BandSetForming : Prop :=
  (∀ (s : State) (j : Fin 3) (h : Hello), s.dev.lState j = lsUp → goodHello s j h →
    Runs (.hello j h) s fun t => t.dev.registered j = true ∧ (t.dev.link j).hello = some h ∧
      t.dev.fld (aRlLink j) ⟨3, 2⟩ = h.k ∧ t.conn = s.conn ∧
      (s.dev.formed = false → t.dev.formed = true → 2 ≤ s.dev.bs.agree ∧ t.dev.isMember t.dev.ownPkg = true ∧
        ∀ k, k < 4 → t.dev.isMember k = true → t.dev.leaderPkg ≤ k)) ∧
  (∀ (s : State) (j : Fin 3) (h : Hello), s.dev.lState j = lsUp → h.k.val ≠ (s.dev.ownPkg + j + 1) % 4 →
    Runs (.hello j h) s fun t => t.dev.bit (aRlLink j) 6 = true ∧ t.dev.registered j = false ∧ t.conn = s.conn) ∧
  (∀ s : State, Runs .helloSend s fun t => OnlyIn [.links, .out] s t ∧
    ∀ j : Fin 3, s.dev.lState j = lsUp → Sends s t (.link j (.hello s.dev.ownHello))) ∧
  (∀ (s : State) (j : Fin 3), s.dev.lState j ≠ lsIdle →
    Runs (.helloTimeout j) s fun t => t.dev.registered j = false ∧ t.dev.lState j = s.dev.lState j ∧ t.conn = s.conn) ∧
  (∀ (s : State) (k : Fin 4), farMember s k → s.dev.leaderPkg = s.dev.ownPkg →
    Runs (.epochReq k) s fun t =>
      (s.dev.bs.holder = none ∨ s.dev.bs.holder = some k.val → t.dev.bs.holder = some k.val ∧
        t.dev.out = .toPkg k .grant :: s.dev.out ∧ OnlyIn [.bs, .links, .out] s t) ∧
      (∀ h, s.dev.bs.holder = some h → h ≠ k → t.dev.out = .toPkg k .busy :: s.dev.out ∧ OnlyIn [.links, .out] s t)) ∧
  (∀ (s : State) (g : Change), s.dev.chg = some g → g.granted = false → g.waiting ≠ [] →
    Runs .epochGrant s fun t => t.dev.chg = some { g with granted := true } ∧ OnlyIn [.chg] s t) ∧
  (∀ (s : State) (g : Change), s.dev.chg = some g → g.granted = false →
    Runs .epochBusy s fun t => t.dev.chg = none ∧ t.dev.bit aSwStat 6 = false ∧ RegsBut [aSwStat] s t ∧
      (s.dev.changeOwns g = true → Completed s t 0 stBusy)) ∧
  (∀ (s : State) (g : Change), s.dev.chg = some g → g.granted = false →
    Runs .epochReqTimeout s fun t => t.dev.chg = none ∧ t.dev.bit aSwStat 6 = false ∧ RegsBut [aSwStat] s t ∧
      (s.dev.changeOwns g = true → Completed s t 0 stRefused)) ∧
  (∀ (s : State) (k : Fin 4) (e : Word) (cfg : Shared), s.dev.isMember k = true →
    Runs (.epochSet k e cfg) s fun t => t.dev.bs.holder ≠ some k.val ∧ OnlyIn [.bs, .links, .out] s t ∧
      (newer e (s.dev.reg aEpoch) = true → s.dev.bs.syncAsk = none → s.dev.bs.sync = none →
        t.dev.bs.syncAsk = some k.val ∧ t.dev.out = .toPkg k .cfgSyncReq :: s.dev.out)) ∧
  (∀ (s : State) (k : Fin 4), s.dev.isMember k = true →
    Runs (.cfgSyncRequest k) s fun t =>
      t.dev.out = .toPkg k (.cfgSync (s.dev.reg aEpoch) s.dev.sharedOut) :: s.dev.out ∧ OnlyIn [.links, .out] s t) ∧
  (∀ (s : State) (k : Fin 4) (e : Word) (cfg : Shared), s.dev.bs.syncAsk = some k.val → newer e (s.dev.reg aEpoch) = true →
    Runs (.cfgSyncResponse k e cfg) s fun t => t.dev.bs.sync = some (e, cfg) ∧ t.dev.bs.syncAsk = none ∧ OnlyIn [.bs] s t) ∧
  (∀ (s : State) (k : Fin 4), s.dev.bs.syncAsk = some k.val →
    Runs .cfgSyncTimeout s fun t =>
      (s.dev.bs.syncTries < 3 → t.dev.bs.syncTries = s.dev.bs.syncTries + 1 ∧
        t.dev.out = .toPkg k .cfgSyncReq :: s.dev.out ∧ OnlyIn [.bs, .links, .out] s t) ∧
      (3 ≤ s.dev.bs.syncTries → t.dev.bs.syncAsk = none ∧ OnlyIn (.bs :: recordParts) s t ∧
        (EventRoom s 0 → Recorded s t 0 ⟨.other .bandSet, 0, 12, 0, k, []⟩))) ∧
  (∀ (s : State) (e : Word) (cfg : Shared), s.dev.bs.sync = some (e, cfg) →
    Runs .epochAdopt s fun t => t.dev.reg aEpoch = e ∧ t.dev.bs.shared = cfg ∧ t.dev.bs.sync = none ∧ RegsBut [aEpoch] s t ∧
      t.conn = s.conn) ∧
  (∀ (s : State) (k : Fin 4) (off : Int), farMember s k → s.dev.leaderPkg = k → off.natAbs < 2 ^ 31 →
    Runs (.time k off) s fun t => t.dev.reg 0x1C0000C = BitVec.ofInt 32 off ∧ RegsBut [0x1C0000C] s t ∧
      OnlyIn [.regs, .bs, .links] s t ∧
      (s.dev.bs.stepDue = false → off.natAbs ≤ 10000 → t.dev.bs.slew = -(off * 10) ∧ t.dev.bs.time = s.dev.bs.time) ∧
      (s.dev.bs.stepDue = true ∨ 10000 < off.natAbs → t.dev.bs.slew = 0 ∧ t.dev.bs.stepDue = false ∧
        t.dev.bs.time = BitVec.ofInt 64 (((s.dev.bs.time.toNat : Int) * 250 + s.dev.bs.frac - off * 10) / 250))) ∧
  (∀ s : State, Runs .timeSend s fun t => OnlyIn [.links, .out] s t ∧
    ∀ j : Fin 3, s.dev.lState j = lsUp → Sends s t (.link j .time))

/-- The PROT_SET of value `v` is granted for an existing flow with a hold-off in range, and no change runs. -/
abbrev protReady (s : State) (v : Nat) (ds : Desc) : Prop :=
  s.dev.granted 0 0x0140 = some ds ∧ ds.p8 28 = v ∧ ds.obj.toNat < 4096 ∧ (s.dev.flow ds.obj.toNat).alive = true ∧
    ds.p16 32 ≤ 1000 ∧ s.dev.chg = none ∧ s.dev.formed = false

/-- The change that PROT_SET 0 to 2 starts: no cluster takes part, it is prepared at once, and it brings the pairs that it names. -/
def protChanges (s t : State) (v : Nat) (ds : Desc) : Prop :=
  (∃ g, t.dev.chg = some g ∧ g.clusters = [] ∧ g.prepared = true ∧ g.shared = some (s.dev.protPairs ds v)) ∧
    t.dev.bit aSwStat 6 = true ∧ RegsBut [aSwStat] s t ∧ OnlyIn [.regs, .chg, .free] s t

/-- Protection: pairs change by a change procedure; a standby flow whose peer asks, or whose peer's package is silent, takes activity
when it may; an active flow asks to be taken over after its hold-off. -/
def Obligations.FlowProtection : Prop :=
  (∀ (s : State) (ds : Desc), protReady s 0 ds → Runs .protSetRemove s fun t => protChanges s t 0 ds) ∧
  (∀ (s : State) (ds : Desc), protReady s 1 ds → Runs .protSetWorking s fun t => protChanges s t 1 ds) ∧
  (∀ (s : State) (ds : Desc), protReady s 2 ds → Runs .protSetProtection s fun t => protChanges s t 2 ds) ∧
  (∀ (s : State) (ds : Desc) (p : Nat × Nat × Bool), protReady s 3 ds → (s.dev.flow ds.obj.toNat).pairInForce = some p →
    (s.dev.flow ds.obj.toNat).isReady p.2.2 = true →
    Runs .protSetForce s fun t => (t.dev.flow ds.obj.toNat).act = true ∧ Completed s t 0 stDone ∧
      OtherFlows s t ds.obj.toNat ∧ t.dev.regs = s.dev.regs) ∧
  (∀ (s : State) (k : Fin 4) (e : StateEntry) (m : StateMsg) (role : Bool), farMember s k → m.entries = [e] →
    e.inForce = true → (s.dev.flow e.peer).pairInForce = some (k.val, e.flow.val, role) → e.role ≠ role →
    Runs (.state k m) s fun t => (k.val, m) ∈ t.dev.bs.peers ∧ OtherFlows s t e.peer ∧ t.dev.regs = s.dev.regs ∧
      (e.act = true → (t.dev.flow e.peer).act = false) ∧
      (e.act = false → e.req = true → (s.dev.flow e.peer).act = false → (s.dev.flow e.peer).canTake = true →
        (t.dev.flow e.peer).act = true) ∧
      (e.act = false → e.req = true → (s.dev.flow e.peer).act = false → (s.dev.flow e.peer).canTake = false →
        (t.dev.flow e.peer).nak = true)) ∧
  (∀ s : State, Runs .stateSend s fun t => OnlyIn [.links, .out] s t ∧
    ∀ k ∈ s.dev.otherMembers, ∃ m, Sends s t (.toPkg k (.state m)) ∧ m.epoch = s.dev.reg aEpoch) ∧
  (∀ (s : State) (k : Fin 4) (f g : Nat) (role : Bool), (s.dev.flow f).pairInForce = some (k.val, g, role) →
    (s.dev.flow f).isStandby = true → (s.dev.flow f).canTake = true →
    Runs (.stateTimeout k) s fun t => (t.dev.flow f).act = true ∧ t.dev.regs = s.dev.regs ∧ t.conn = s.conn) ∧
  (∀ (s : State) (f : Fin 4096) (p : Nat × Nat × Bool), (s.dev.flow f).pairInForce = some p → (s.dev.flow f).act = true →
    (s.dev.flow f).isClear = false →
    Runs (.protectionHoldoff f) s fun t => (t.dev.flow f).askTakeover = true ∧ OtherFlows s t f ∧
      (∃ m, Sends s t (.toPkg (Fin.ofNat 4 p.1) (.state m))) ∧ OnlyIn [.flows, .links, .out] s t)

/-- Summaries are served on request and make their streams present; context records are taken when they unwrap and are answered. -/
def Obligations.SummariesAndContexts : Prop :=
  (∀ (s : State) (k : Fin 4) (tx rx : List (Fin 48)), s.dev.isMember k = true →
    Runs (.sumReq k tx rx) s fun t => t.dev.out = .toPkg k .sumAck :: s.dev.out ∧
      t.dev.bs.sumServe.head? = some ⟨k, Fin.ofNat 4 s.dev.ownPkg, tx.take 2, rx.take 2⟩ ∧ OnlyIn [.bs, .links, .out] s t) ∧
  (∀ (s : State) (k : Fin 4), Runs (.sumAck k) s fun t => k.val ∉ t.dev.bs.sumWait ∧ OnlyIn [.bs] s t) ∧
  (∀ (s : State) (k : Fin 4), s.dev.formed = true → s.dev.bs.sumWait.contains k.val = true →
    Runs (.sumReqRepeat k) s fun t => (∃ r, t.dev.out = .toPkg k (.sumReq r) :: s.dev.out) ∧
      t.dev.bs.sumWait.contains k.val = true ∧ OnlyIn [.bs, .links, .out] s t) ∧
  (∀ (s : State) (k : Fin 4) (dir : Dir) (i : Fin 2) (stamp : BitVec 64) (va vb : Bool) (a b : List Byte) (u : Nat),
    s.dev.isMember k = true → (s.dev.remoteNamed [] k)[2 * i.val]? = some u →
    Runs (.summary k dir i stamp va vb a b) s fun t => t.dev.streamPresent k u (dir = .rx) = va ∧ t.conn = s.conn) ∧
  (∀ (s : State) (k : Fin 4) (rec : List Byte) (key : BitVec 256), s.dev.tc.dwk = some key → s.dev.keysServed = true →
    Runs (.ctx k rec) s fun t => t.dev.regs = s.dev.regs ∧ t.conn = s.conn ∧
      (∀ b, Config.aesKwUnwrap key rec = some b → b.length = 88 → (s.dev.flow (bytesAt b 80 2)).alive = true →
        t.dev.flow (bytesAt b 80 2) = (s.dev.flow (bytesAt b 80 2)).importRecord b ∧ OtherFlows s t (bytesAt b 80 2) ∧
        t.dev.out = .toPkg k (.ctxAck (bytesAt b 80 2) (if (b.getD 82 0).getLsbD 0 then .tx else .rx) true) :: s.dev.out) ∧
      (Config.aesKwUnwrap key rec = none → t.dev.flows = s.dev.flows ∧ ∃ f d, Sends s t (.toPkg k (.ctxAck f d false)))) ∧
  (∀ (s : State) (f : Fin 4096) (dir : Dir) (ok : Bool) (g : Nat), s.dev.ctxFlow f dir = some g →
    Runs (.ctxAck f dir ok) s fun t => OtherFlows s t g ∧ OnlyIn (.flows :: recordParts) s t ∧
      (if dir = .tx then (t.dev.flow g).ctxWaitTx else (t.dev.flow g).ctxWaitRx) = false ∧
      (ok = false → EventRoom s 0 → Recorded s t 0 ⟨.other .context, 0, 12, 0, g, []⟩)) ∧
  (∀ (s : State) (f : Fin 4096) (dir : Dir), (if dir = .tx then (s.dev.flow f).ctxWaitTx else (s.dev.flow f).ctxWaitRx) = true →
    Runs (.ctxAckTimeout f dir) s fun t => OtherFlows s t f ∧ OnlyIn (.flows :: recordParts) s t ∧
      (if dir = .tx then (t.dev.flow f).ctxWaitTx else (t.dev.flow f).ctxWaitRx) = false ∧
      (EventRoom s 0 → Recorded s t 0 ⟨.other .context, 0, 12, 0, f, []⟩))

/-! Host rings (chapter 14). -/

/-- The host reaches the ring: its BARs answer, the device is awake, the tenant is bound and the ring exists. -/
abbrev ringOpen (s : State) (t : Nat) (k : RingKind) : Prop :=
  s.dev.barOpen = true ∧ s.dev.asleep = false ∧ s.dev.bound t = true ∧ ringAt t k = true

/-- Every ring but one stands. -/
def OtherRings (s t : State) (n : Nat) (k : RingKind) : Prop :=
  ∀ m j, 8 * m + ringCode j ≠ 8 * n + ringCode k → t.dev.ring m j = s.dev.ring m j

/-- Doorbells, descriptor reads and cancels: an index in range is taken and its descriptors are requested, one out of range sets
the error bit; a descriptor joins its ring, a cancelled one completes, and a failed read halts the ring. -/
def Obligations.DoorbellsReadsAndCancels : Prop :=
  (∀ (s : State) (n : Fin 4096) (k : RingKind) (i : BitVec 16), ringOpen s n k → ringProduced k = false →
    (s.dev.ring n k).doorbellOk k i = true → (s.dev.ring n k).en = true → (s.dev.ring n k).halted = false →
    Runs (.doorbell n k i) s fun t => (t.dev.ring n k).db = i ∧ t.conn = s.conn ∧
      (t.dev.ring n k).fetched = (s.dev.ring n k).fetched ∧
      ∀ j, j < (i - (s.dev.ring n k).db).toNat →
        Sends s t (.fetch n k ((s.dev.ring n k).db + BitVec.ofNat 16 j))) ∧
  (∀ (s : State) (n : Fin 4096) (k : RingKind) (i : BitVec 16), ringOpen s n k → (s.dev.ring n k).doorbellOk k i = false →
    Runs (.doorbell n k i) s fun t => (t.dev.ring n k).db = (s.dev.ring n k).db ∧ (t.dev.ring n k).stat.getLsbD 1 = true ∧
      OnlyIn recordParts s t) ∧
  (∀ (s : State) (n : Fin 4096) (k : RingKind) (i : BitVec 16), ringOpen s n k → ringProduced k = true →
    (s.dev.ring n k).doorbellOk k i = true →
    Runs (.doorbell n k i) s fun t => (t.dev.ring n k).db = i ∧ t.conn = s.conn ∧ t.dev.flows = s.dev.flows) ∧
  (∀ (s : State) (n : Fin 4096) (ds : Desc), (s.dev.ring n .command).en = true → (s.dev.ring n .command).halted = false →
    (s.dev.ring n .command).idx ≠ (s.dev.ring n .command).db →
    Runs (.hostReadCompletion n .command (.data ds)) s fun t =>
      (t.dev.ring n .command).idx = (s.dev.ring n .command).idx + 1 ∧ t.conn = s.conn ∧
      ((s.dev.ring n .command).cancelled.contains (s.dev.ring n .command).idx = false →
        (t.dev.ring n .command).fetched = (s.dev.ring n .command).fetched ++ [((s.dev.ring n .command).idx, ds)]) ∧
      ((s.dev.ring n .command).cancelled.contains (s.dev.ring n .command).idx = true →
        (t.dev.ring n .command).fetched = (s.dev.ring n .command).fetched ∧
        Sends s t (.st n .command (s.dev.ring n .command).idx (BitVec.ofNat 8 stCancelled)))) ∧
  (∀ (s : State) (n : Fin 4096) (k : RingKind), ringProduced k = false → s.dev.readsDesc n k = true →
    Runs (.hostReadCompletion n k .error) s fun t => (t.dev.ring n k).halted = true ∧ t.dev.faultStatus 12 16 = true ∧
      OnlyIn (.regs :: recordParts) s t) ∧
  (∀ (s : State) (n : Fin 4096) (k : RingKind), ringProduced k = false → s.dev.readsDesc n k = true →
    Runs (.hostReadTimeout n k) s fun t => (t.dev.ring n k).halted = true ∧ t.dev.faultStatus 12 16 = true ∧
      OnlyIn (.regs :: recordParts) s t) ∧
  (∀ (s : State) (n : Fin 4096) (i : BitVec 16) (ds : Desc), ringOpen s n .command →
    (i, ds) ∈ (s.dev.ring n .command).fetched →
    Runs (.cancel n i) s fun t => Sends s t (.st n .command i (BitVec.ofNat 8 stCancelled)) ∧
      (t.dev.ring n .command).fetched = (s.dev.ring n .command).fetched.filter (fun e => decide (e.1 ≠ i)) ∧
      OnlyIn recordParts s t) ∧
  (∀ (s : State) (n : Fin 4096) (g : Granted), ringOpen s n .command → (s.dev.ring n .command).fetched = [] →
    (s.dev.ring n .command).granted = some g →
    Runs (.cancel n g.idx) s fun t => (t.dev.ring n .command).granted = some { g with late := true } ∧
      OnlyIn [.rings] s t ∧ OtherRings s t n .command) ∧
  (∀ (s : State) (n : Fin 4096) (k : RingKind) (g : Bool), (s.dev.ring n k).modBusy = true → (s.dev.ring n k).modHeld = g →
    Runs (.msixModerationEnd n k) s fun t => (t.dev.ring n k).modHeld = false ∧ (t.dev.ring n k).modBusy = g ∧
      t.dev.out = (if g then .msix (s.dev.fnOf n) (s.dev.ring n k).vec :: s.dev.out else s.dev.out) ∧
      OnlyIn [.rings, .out] s t ∧ OtherRings s t n k)

/-- Rings are enabled at index 0 and are disabled with their function; arbitration grants the next command or completes one that
fails its checks; a reset engine refuses what it had granted. -/
def Obligations.RingsAndArbitration : Prop :=
  (∀ (s : State) (n : Fin 4096) (k : RingKind) (w : Word), ringOpen s n k → s.dev.ringCfgBad n k w = false →
    w.getLsbD 5 = true → (s.dev.ring n k).en = false → s.dev.readyDue = false →
    Runs (.ringEnable n k w) s fun t => (t.dev.ring n k).cfg = w ∧ (t.dev.ring n k).idx = 0 ∧ (t.dev.ring n k).db = 0 ∧
      (t.dev.ring n k).fetched = [] ∧ (t.dev.ring n k).stat = 0 ∧ OnlyIn [.rings] s t ∧ OtherRings s t n k) ∧
  (∀ (s : State) (k : RingKind) (w : Word), ringOpen s 0 k → s.dev.ringCfgBad 0 k w = false → w.getLsbD 5 = true →
    (s.dev.ring 0 .event).en = false → s.dev.readyDue = true → k = .event →
    Runs (.ringEnable 0 k w) s fun t => t.dev.readyDue = false ∧ Recorded s t 0 ⟨.other .ready, 0, 12, 0, 0, []⟩) ∧
  (∀ (s : State) (fn : Fin 257), fn.val ≠ 0 →
    Runs (.functionLevelReset fn) s fun t => OnlyIn [.rings] s t ∧
      ∀ n k, n < 4096 → s.dev.bound n = true → s.dev.fnOf n = fn → (t.dev.ring n k).en = false) ∧
  (∀ s : State, Runs (.functionLevelReset 0) s fun t => OnlyIn [.rings] s t ∧
    ∀ n k, n < 4096 → s.dev.bound n = true → s.dev.fnOf n ≤ 256 → (t.dev.ring n k).en = false) ∧
  (∀ (s : State) (fn : Fin 257), Runs (.busMasterDisable fn) s fun t => OnlyIn [.rings] s t ∧
    (∀ n k, n < 4096 → s.dev.bound n = true → s.dev.fnOf n = fn → (t.dev.ring n k).en = false) ∧
    (∀ n k, s.dev.bound n = false ∨ s.dev.fnOf n ≠ fn → t.dev.ring n k = s.dev.ring n k)) ∧
  (∀ (s : State) (e : Fin 2) (n : Nat) (i : BitVec 16) (ds : Desc) (r : List (BitVec 16 × Desc)),
    s.dev.bit aMxFence (5 + e) = false → s.dev.nextGrant e = some n → (s.dev.ring n .command).fetched = (i, ds) :: r →
    Runs (.commandGrant e) s fun t => t.conn = s.conn ∧ t.dev.regs = s.dev.regs ∧
      (ds.badOp .command = false → s.dev.cmdDenied n ds = false →
        (t.dev.ring n .command).granted = some ⟨i, ds, false, false⟩ ∧ t.dev.out = s.dev.out ∧ OnlyIn [.rings, .engines] s t) ∧
      (ds.badOp .command = true → (t.dev.ring n .command).granted = none ∧
        Sends s t (.st n .command i (BitVec.ofNat 8 stBadop))) ∧
      (ds.badOp .command = false → s.dev.cmdDenied n ds = true → (t.dev.ring n .command).granted = none ∧
        Sends s t (.st n .command i (BitVec.ofNat 8 stDenied)))) ∧
  (∀ (s : State) (e : Fin 2), s.dev.bit aMxFence (5 + e) = true →
    Runs (.ringEngineReset e) s fun t => t.dev.bit aMxFence (5 + e) = false ∧ RegsBut [aMxFence] s t ∧
      OnlyIn (.regs :: recordParts) s t ∧ ∀ n, n % 2 = e.val → Completed s t n stRefused) ∧
  (∀ s : State, s.dev.bit aMxFence 8 = true →
    Runs .linkAgentReset s fun t => t.dev.bit aMxFence 8 = false ∧ t.conn = s.conn ∧
      ∀ j < 3, t.dev.registered j = false)

/-- Line slots are free for a new flow and its entries pass the check of the standby page: the state that FLOW_CREATE arms. -/
def createdPage (s : State) (ds : Desc) (tx rx : List Nat) : Conn :=
  ((s.copyActive true true).conn.addFlow (s.dev.standby false) false ds.obj.toNat tx).addFlow (s.dev.standby true) true
    ds.obj.toNat rx

/-- The new flow as FLOW_CREATE makes it, in cluster `x`. -/
def createdFlow (n x : Nat) (ds : Desc) : Flow :=
  { coming := true, owner := n, port := ds.p8 28, slots := ds.p16 30, hold := decide (ds.p8 29 = 1),
    standby := decide (ds.p8 32 = 1), cl := x }

/-- A new flow's entries stand in the standby pages, the active pages stand, and the swap that brings it is armed 20 ODU multiframes
ahead; a deleted flow's entries are gone there. -/
def Obligations.FlowCreateAndDelete : Prop :=
  (∀ (s : State) (n : Fin 4096) (ds : Desc) (tx rx : List Nat) (x : Nat), Inv s → s.dev.granted n 0x0010 = some ds →
    (s.dev.flow ds.obj.toNat).coming = false → s.createBad n ds.obj.toNat (ds.p8 28) (ds.p16 30) tx rx = false →
    s.dev.swapBusy = false → s.dev.placeFlow (ds.p16 30) = some (x, s.dev) →
    ({ s with conn := createdPage s ds tx rx, dev := s.dev.onFlow ds.obj.toNat fun _ => createdFlow n x ds }).pageCheck
      (s.dev.standby false) false = true →
    Runs (.flowCreate n tx rx) s fun t => t.dev.bit aSwCtrl 0 = true ∧ t.dev.reg aSwTgt = s.dev.reg aTxOmf + 20 ∧
      t.dev.flow ds.obj.toNat = createdFlow n x ds ∧ OtherFlows s t ds.obj.toNat ∧
      (∀ j < ds.p16 30, t.conn.entry (s.dev.standby false) false (tx.getD j 0) = entryOf ds.obj.toNat j ∧
        t.conn.entry (s.dev.standby true) true (rx.getD j 0) = entryOf ds.obj.toNat j) ∧
      (∀ r i, i < 2 ^ 14 → t.conn.entry (s.dev.actPage r) r i = s.conn.entry (s.dev.actPage r) r i) ∧
      RegsBut [aSwCtrl, aSwTgt] s t ∧ OnlyIn [.regs, .flows, .conn] s t) ∧
  (∀ (s : State) (n : Fin 4096) (ds : Desc) (tx rx : List Nat), s.dev.granted n 0x0010 = some ds →
    (s.dev.flow ds.obj.toNat).coming = false → s.createBad n ds.obj.toNat (ds.p8 28) (ds.p16 30) tx rx = true →
    Runs (.flowCreate n tx rx) s fun t => Completed s t n stRefused ∧ t.conn = s.conn ∧ OnlyIn recordParts s t) ∧
  (∀ (s : State) (n : Fin 4096) (ds : Desc), Inv s → s.dev.granted n 0x0011 = some ds →
    (s.dev.flow ds.obj.toNat).deleting = false → s.dev.bs.shared.pairs = [] → s.dev.swapBusy = false →
    Runs (.flowDelete n) s fun t =>
      (∀ r i, i < 2 ^ 14 → t.conn.entry (s.dev.actPage r) r i = s.conn.entry (s.dev.actPage r) r i) ∧
      (∀ r i, i < 2 ^ 14 → (t.conn.entry (s.dev.standby r) r i).getLsbD 0 = true →
        entryFlow (t.conn.entry (s.dev.standby r) r i) ≠ ds.obj.toNat ∧
        t.conn.entry (s.dev.standby r) r i = s.conn.entry (s.dev.actPage r) r i) ∧
      (t.dev.bit aSwCtrl 0 = true → (t.dev.flow ds.obj.toNat).deleting = true ∧
        t.dev.reg aSwTgt = s.dev.reg aTxOmf + 20) ∧
      (t.dev.bit aSwCtrl 0 = false → (t.dev.flow ds.obj.toNat).deleting = false ∧ Completed s t n stRefused))

/-- The command of operation `op` is granted to tenant `n`. -/
abbrev hasCommand (s : State) (n op : Nat) (ds : Desc) : Prop := s.dev.granted n op = some ds

/-- The commands that complete at once: what each changes, with its completion; the owner's need their authorisation in the approved
mode. -/
def Obligations.TenantAndOwnerCommands : Prop :=
  (∀ (s : State) (n : Fin 4096) (ds : Desc), hasCommand s n 0x0000 ds →
    Runs (.nop n) s fun t => Completed s t n stDone ∧ OnlyIn recordParts s t) ∧
  (∀ (s : State) (ds : Desc) (a : Option Auth) (d : Dev) (slots : List Nat), hasCommand s 0 0x0100 ds →
    s.dev.authorised a = some d → ds.obj.toNat < 4096 → (∀ x ∈ slots, x < 5120) →
    Runs (.grant slots a) s fun t => Completed s t 0 stDone ∧ OnlyIn (.tenants :: .tc :: recordParts) s t ∧
      (t.dev.tenant ds.obj.toNat).grants = (s.dev.tenant ds.obj.toNat).grants ++ [(ds.p16 28, ds.p8 30, slots)]) ∧
  (∀ (s : State) (ds : Desc) (a : Option Auth) (slots : List Nat), hasCommand s 0 0x0100 ds → s.dev.authorised a = none →
    Runs (.grant slots a) s fun t => Completed s t 0 stDenied ∧ OnlyIn recordParts s t) ∧
  (∀ (s : State) (ds : Desc) (a : Option Auth) (d : Dev), hasCommand s 0 0x0101 ds → s.dev.authorised a = some d →
    ds.obj.toNat < 4096 → (s.dev.flow (ds.p16 28)).alive = false → (s.dev.flow (ds.p16 28)).coming = false →
    Runs (.revoke a) s fun t => Completed s t 0 stDone ∧ OnlyIn (.tenants :: .tc :: recordParts) s t ∧
      ∀ g ∈ (t.dev.tenant ds.obj.toNat).grants, g.1 ≠ ds.p16 28 ∧ g ∈ (s.dev.tenant ds.obj.toNat).grants) ∧
  (∀ (s : State) (ds : Desc) (a : Option Auth) (d : Dev), hasCommand s 0 0x0102 ds → s.dev.authorised a = some d →
    0 < ds.obj.toNat → ds.obj.toNat < 4096 → s.dev.anyRing ds.obj.toNat = false → ds.p16 28 ≤ s.dev.numVfs →
    ds.p16 28 ≤ 256 → ds.p8 30 < 16 →
    (∀ u < 4096, u ≠ ds.obj.toNat → s.dev.bound u = true → s.dev.fnOf u = ds.p16 28 →
      s.dev.fld (aTenBind u) ⟨9, 4⟩ ≠ ds.p8 30 ∨ ds.p16 28 = 0) →
    Runs (.bind a) s fun t => Completed s t 0 stDone ∧ t.dev.bound ds.obj.toNat = true ∧
      t.dev.fnOf ds.obj.toNat = ds.p16 28 ∧ RegsBut [aTenBind ds.obj.toNat] s t ∧
      OnlyIn (.regs :: .tc :: recordParts) s t) ∧
  (∀ (s : State) (ds : Desc) (a : Option Auth) (d : Dev), hasCommand s 0 0x0103 ds → s.dev.authorised a = some d →
    0 < ds.obj.toNat → ds.obj.toNat < 4096 → s.dev.anyRing ds.obj.toNat = false → s.dev.fnOf ds.obj.toNat ≤ s.dev.numVfs →
    Runs (.unbind a) s fun t => Completed s t 0 stDone ∧ t.dev.bound ds.obj.toNat = false ∧
      RegsBut [aTenBind ds.obj.toNat] s t ∧ OnlyIn (.regs :: .tc :: recordParts) s t) ∧
  (∀ (s : State) (n : Fin 4096) (ds : Desc), hasCommand s n 0x0030 ds → ds.p8 28 = 0 →
    (s.dev.flow ds.obj.toNat).alive = true →
    Runs (.statRead n) s fun t => Completed s t n stDone ∧ OnlyIn recordParts s t ∧
      Sends s t (.buffer n ((((s.dev.fdefWord ds.obj.toNat).toNat :: (s.dev.flow ds.obj.toNat).snap.figures).flatMap le4).take
        ds.len.toNat))) ∧
  (∀ (s : State) (ds : Desc), hasCommand s 0 0x0120 ds → ds.p8 28 ≠ 0 → ds.p8 29 ≠ 0 →
    Runs .telemSub s fun t => Completed s t 0 stDone ∧ t.dev.telem = some (ds.p8 28, ds.p8 29) ∧
      OnlyIn (.telem :: recordParts) s t) ∧
  (∀ (s : State) (c : Fin 48) (p : Nat), s.dev.telem = some (2, p) → (s.dev.ring 0 .telemetry).en = true →
    (s.dev.ring 0 .telemetry).used + 48 ≤ 2 ^ (s.dev.ring 0 .telemetry).lsize → s.dev.cEnabled c = true →
    Runs .telemetryPeriod s fun t => OnlyIn recordParts s t ∧
      ∃ i q ph st, Sends s t (.record 0 .telemetry i q ph st ⟨.est, 0, 8 + c / 12, 0, c,
        (List.range 8).map fun e => (s.dev.reg (carrBase c + 0x260 + 4 * e)).toNat⟩)) ∧
  (∀ (s : State) (ds : Desc) (data : List Byte), hasCommand s 0 0x0130 ds → s.dev.regions = [] → ds.obj.toNat < 8 →
    s.dev.busDead ds.obj.toNat = false → ds.p8 28 = 0 → s.dev.addressOwned ds.obj.toNat (ds.p16 30) = false →
    Runs (.engine data) s fun t => OnlyIn [.regions] s t ∧ (t.dev.region ds.obj.toNat).queue =
      [⟨3, decide (ds.p8 29 = 1), BitVec.ofNat 16 (ds.p16 30), BitVec.ofNat 16 (ds.p16 32), true, none, false⟩]) ∧
  (∀ (s : State) (ds : Desc) (data : List Byte), hasCommand s 0 0x0130 ds → s.dev.regions = [] → ds.obj.toNat < 8 →
    s.dev.busDead ds.obj.toNat = false → ds.p8 28 = 1 → ds.p8 29 = 1 → s.dev.bit (feBase ds.obj.toNat + 0xE0) 2 = false →
    Runs (.engine data) s fun t => OnlyIn [.regions, .out] s t ∧ (t.dev.region ds.obj.toNat).i2c = true ∧
      t.dev.out = .i2c ds.obj.toNat (s.dev.bit (feBase ds.obj.toNat + 0xE0) 3) true (ds.p16 30) (ds.p16 32) [] :: s.dev.out) ∧
  (∀ (s : State) (i : BitVec 16) (ds : Desc), (s.dev.ring 0 .capture).fetched = [(i, ds)] → s.dev.capLeft = 0 →
    0 < ds.len.toNat → ds.len.toNat % 4096 = 0 → ds.len.toNat ≤ 2 ^ 24 →
    Runs .capBuf s fun t => (t.dev.ring 0 .capture).fetched = [] ∧ OtherRings s t 0 .capture ∧ OnlyIn [.rings] s t ∧
      (t.dev.ring 0 .capture).recvs = (s.dev.ring 0 .capture).recvs ++ [(i, ds, [], false)])

/-- The head of tenant `n`'s overhead ring is `ds` at index `i`, of operation `op`. -/
abbrev atHead (s : State) (n op : Nat) (i : BitVec 16) (ds : Desc) : Prop := s.dev.ohHead n op = some (i, ds)

/-- The overhead ring: values to send are taken for their object and complete; receive descriptors are posted, and one that holds
bytes completes after its timeout. -/
def Obligations.OverheadRing : Prop :=
  (∀ (s : State) (n : Fin 4096) (i : BitVec 16) (ds : Desc) (buf : List Byte), atHead s n 0x0200 i ds → buf.length = 64 →
    Runs (.txTti n buf) s fun t => (t.dev.overhead ds.ohKey).txTtiNext = some buf ∧
      Sends s t (.st n .overhead i (BitVec.ofNat 8 stDone)) ∧ OnlyIn (.oh :: recordParts) s t) ∧
  (∀ (s : State) (n : Fin 4096) (i : BitVec 16) (ds : Desc) (buf : List Byte), atHead s n 0x0201 i ds → buf.length = 64 →
    Runs (.expTti n buf) s fun t => (t.dev.overhead ds.ohKey).expTtiNext = some (buf, ds.p8 28) ∧
      Sends s t (.st n .overhead i (BitVec.ofNat 8 stDone)) ∧ OnlyIn (.oh :: recordParts) s t) ∧
  (∀ (s : State) (n : Fin 4096) (i : BitVec 16) (ds : Desc) (buf : List Byte), atHead s n 0x0202 i ds →
    Runs (.txField n buf) s fun t =>
      (t.dev.overhead ds.ohKey).txFields.head? = some (ds.p8 28, ds.p8 29, if ds.len = 0 then ds.par.drop 4 else buf) ∧
      Sends s t (.st n .overhead i (BitVec.ofNat 8 stDone)) ∧ OnlyIn (.oh :: recordParts) s t) ∧
  (∀ (s : State) (n : Fin 4096) (i : BitVec 16) (ds : Desc) (buf : List Byte), atHead s n 0x0203 i ds →
    Runs (.txGcc n buf) s fun t =>
      SMap.get (t.dev.overhead ds.ohKey).gccTx (ds.p8 28) [] = SMap.get (s.dev.overhead ds.ohKey).gccTx (ds.p8 28) [] ++ buf ∧
      Sends s t (.st n .overhead i (BitVec.ofNat 8 stDone)) ∧ OnlyIn (.oh :: recordParts) s t) ∧
  (∀ (s : State) (n : Fin 4096) (i : BitVec 16) (ds : Desc), atHead s n 0x0210 i ds →
    Runs (.recv n) s fun t =>
      (t.dev.ring n .overhead).recvs = (s.dev.ring n .overhead).recvs ++ [(i, ds, [], false)] ∧ OnlyIn recordParts s t) ∧
  (∀ (s : State) (n : Fin 4096) (i : BitVec 16) (ds : Desc) (b : Byte) (bs : List Byte) (gap : Bool),
    (s.dev.ring n .overhead).recvs = [(i, ds, b :: bs, gap)] → 2 ≤ ds.p8 28 → ds.p8 28 ≤ 4 →
    Runs (.gccRecvTimeout n i) s fun t => Sends s t (.buffer n (b :: bs)) ∧ (t.dev.ring n .overhead).recvs = [] ∧
      Sends s t (.st n .overhead i (BitVec.ofNat 8 stDone)) ∧ OnlyIn recordParts s t)

/-! The control matrix, the Stylus cores and the console (chapter 15). -/

/-- Timeouts, late completions and fences: the first error is recorded, every one is counted, the stalled party is fenced; resets
release fences and leave a core at its start. -/
def matrixErrorsAndFencesRule : Prop :=
  (∀ (s : State) (m : Master) (u : Unanswered), s.dev.oldestOf m = some u →
    Runs (.matrixTimeout m) s fun t => t.dev.mx.unanswered = s.dev.mx.unanswered.erase u ∧ t.conn = s.conn ∧
      t.dev.fld 0x60D4 ⟨0, 16⟩ = min 0xFFFF (s.dev.fld 0x60D4 ⟨0, 16⟩ + 1) ∧
      (s.dev.fld 0x60CC ⟨4, 2⟩ = 0 → t.dev.reg 0x60CC = BitVec.ofNat 32 (masterNo m + 16) ∧ t.dev.reg 0x60D0 = u.adr) ∧
      (s.dev.fld 0x60CC ⟨4, 2⟩ ≠ 0 → t.dev.reg 0x60CC = s.dev.reg 0x60CC ∧ t.dev.reg 0x60D0 = s.dev.reg 0x60D0) ∧
      (m = .pcie → u.read = true → Sends s t (.reply .pcie 0xFFFFFFFF#32))) ∧
  (∀ (s : State) (m : Master), Runs (.lateCompletion m) s fun t =>
    t.dev.fld 0x60D4 ⟨16, 16⟩ = min 0xFFFF (s.dev.fld 0x60D4 ⟨16, 16⟩ + 1) ∧ OnlyIn countParts s t) ∧
  (∀ (s : State) (m : Master) (x : Fin 16) (a : Addr) (who : Stalled), logOrSafe s 12 9 → logOrSafe s 12 10 →
    Runs (.pathWatchdog m x a who) s fun t => t.conn = s.conn ∧ t.dev.faultStatus 12 10 = true ∧
      (who ≠ .target → t.dev.masterFenced m = true) ∧ (who ≠ .master → t.dev.bit aMxFence (16 + x) = true)) ∧
  (∀ s : State, Runs .fenceRelease s fun t => t.dev.masterFenced .pcie = false ∧ RegsBut [aMxFence] s t ∧ OnlyIn [.regs] s t) ∧
  (∀ (s : State) (n : Fin 3), Runs (.coreReset n) s fun t =>
    t.dev.core n = { clock := true, running := true } ∧ t.dev.masterFenced (.core (n.castLE (by decide))) = false ∧
      t.dev.held n = false ∧ RegsBut [aMxFence] s t ∧ OnlyIn [.regs, .cores, .ic, .mx] s t) ∧
  (∀ (s : State) (m : Master), Accepted s m 0xA000 1 →
    Runs (.core3Reset m) s fun t => (t.dev.core 3).stack = [] ∧ (t.dev.core 3).saved = [] ∧ (t.dev.core 3).pc = 0 ∧
      (t.dev.core 3).running = ((s.dev.tc.choose 2).isSome && !s.dev.core3Bad) ∧ t.dev.masterFenced (.core 3) = false ∧
      RegsBut [aMxFence, aTcStat] s t ∧ t.conn = s.conn) ∧
  (∀ (s : State) (x : Fin 16), s.dev.bit aMxFence (16 + x) = true →
    Runs (.dieWindowReset x) s fun t => t.dev.bit aMxFence (16 + x) = false ∧ (t.dev.die x).reset = true ∧ t.conn = s.conn ∧
      ∀ k, clusterDie k = x → (t.dev.cluster (clusterCode k)).reset = true) ∧
  (∀ (s : State) (x : Fin 16), (s.dev.die x).reset = true → s.dev.mx.windowWait = [] →
    Runs (.dieWindowResetEnd x) s fun t => (t.dev.die x).reset = false ∧ OnlyIn [.dies] s t)

/-- A source of its own line; no core that takes it or its copy holds. -/
abbrev ownLine (s : State) (i : Nat) : Prop :=
  sourceReserved i = false ∧ isCopy i = false ∧ ∀ j ∈ lineSources i, s.dev.held (s.dev.sourceCore j) = false

/-- The interrupt controller: an edge or a high level pends its source, the eligible source of the highest priority that pre-empts is
delivered to its vector and pushed, its completion pops it, and any other completion freezes the core; holds delay, a thaw empties. -/
def Obligations.InterruptController : Prop :=
  (∀ (s : State) (i : Fin 512), ownLine s i → s.dev.lines.contains i.val = false →
    Runs (.interruptSource i true) s fun t => (∀ j ∈ lineSources i, t.dev.pendBit j = true) ∧ i.val ∈ t.dev.lines ∧
      OnlyIn [.lines, .ic] s t ∧ ∀ j, j < 512 → j ∉ lineSources i → t.dev.pendBit j = s.dev.pendBit j) ∧
  (∀ (s : State) (i : Fin 512), ownLine s i →
    Runs (.interruptSource i false) s fun t => i.val ∉ t.dev.lines ∧ OnlyIn [.lines] s t) ∧
  (∀ (s : State) (n : Fin 4) (i : Nat) (wfi : Bool), (s.dev.core n).running = true → s.dev.held n = false → s.dev.icFrozen n = false →
    s.dev.icChoice n (wfi && decide ((s.dev.core n).stack = [])) = some i → s.dev.icPreempts n i = true → (s.dev.core n).stack.length < 16 →
    Runs (.interruptDelivery n wfi true) s fun t => (t.dev.core n).stack = i :: (s.dev.core n).stack ∧
      (t.dev.core n).pc = s.dev.icReg (aIcVbase n) + BitVec.ofNat 32 (16 * i) ∧
      (t.dev.core n).saved = ((s.dev.core n).pc, true) :: (s.dev.core n).saved ∧ (t.dev.core n).ie = false ∧
      Sends s t (.vector n (s.dev.icReg (aIcVbase n) + BitVec.ofNat 32 (16 * i))) ∧
      t.dev.pendBit i = (s.dev.pendBit i && !s.dev.icEdge i) ∧ t.conn = s.conn) ∧
  (∀ (s : State) (n : Fin 4) (i : BitVec 9) (rest : List Nat), s.dev.icFrozen n = false →
    (s.dev.core n).stack = i.toNat :: rest →
    Runs (.eoi n i) s fun t => (t.dev.core n).stack = rest ∧
      ((t.dev.core n).pc, (t.dev.core n).ie) = (s.dev.core n).saved.headD ((s.dev.core n).pc, (s.dev.core n).ie) ∧
      t.dev.icFrozen n = false ∧ OnlyIn [.cores, .ic] s t) ∧
  (∀ (s : State) (n : Fin 4) (i : BitVec 9), s.dev.icFrozen n = false → (s.dev.core n).stack.head? ≠ some i.toNat →
    Runs (.eoi n i) s fun t => t.dev.icFrozen n = true ∧ (t.dev.core n).stack = (s.dev.core n).stack ∧
      (t.dev.core n).pc = s.dev.icReg (aIcVbase n) + 0x2000#32 ∧ OnlyIn [.cores, .ic, .out] s t) ∧
  (∀ (s : State) (n : Fin 4), Runs (.thaw n) s fun t => (t.dev.core n).stack = [] ∧ t.dev.icFrozen n = false ∧
    OnlyIn [.cores, .ic] s t) ∧
  (∀ (s : State) (n : Fin 4), Runs (.hold n true) s fun t => t.dev.held n = true ∧ OnlyIn [.ic] s t) ∧
  (∀ (s : State) (n : Fin 4), (∀ e ∈ (s.dev.core n).held, e.1 < 512) → Runs (.hold n false) s fun t => t.dev.held n = false ∧ (t.dev.core n).held = [] ∧
    (∀ i, (i, true) ∈ (s.dev.core n).held → t.dev.pendBit i = true) ∧ OnlyIn [.cores, .ic] s t) ∧
  (∀ (s : State) (n : Fin 4), s.dev.held n = true → (∀ e ∈ (s.dev.core n).held, e.1 < 512) →
    Runs (.holdTimeout n) s fun t => t.dev.held n = false ∧ (t.dev.icReg (aIcStat n)).getLsbD 8 = true ∧
      (t.dev.core n).held = [] ∧ OnlyIn [.cores, .ic] s t) ∧
  (∀ (s : State) (n : Fin 4) (w : Fin 16) (v : Word), s.dev.masterFenced (.core n) = false →
    icReach n (0x200 + 4 * w.val) = true →
    Runs (.icPendWrite n true w v) s fun t => t.dev.icReg (0x200 + 4 * w.val) = v ∧ OnlyIn [.ic] s t) ∧
  (∀ (s : State) (n : Fin 4) (w : Fin 16) (v : Word), s.dev.masterFenced (.core n) = false →
    icReach n (0x100 + 4 * w.val) = true → s.dev.lines = [] →
    Runs (.icPendWrite n false w v) s fun t => t.dev.icReg (0x100 + 4 * w.val) = v ∧ OnlyIn [.ic] s t) ∧
  (∀ (s : State) (i : Fin 512), Runs (.moderationEnd i) s fun t => i.val ∉ t.dev.modBusy ∧ OnlyIn [.modBusy] s t ∧
    ∀ j, j ≠ i.val → (j ∈ t.dev.modBusy ↔ j ∈ s.dev.modBusy))

/-- The console's FIFOs hold 64 bytes in order; a byte that finds one full is lost and counted. -/
def uartConsoleRule : Prop :=
  (∀ (s : State) (b : Byte), s.dev.uart.rx.length < 64 →
    Runs (.uartRxByte b true) s fun t => t.dev.uart.rx = s.dev.uart.rx ++ [b] ∧
      t.dev.fld aUartStat ⟨0, 7⟩ = s.dev.uart.rx.length + 1 ∧ RegsBut [aUartStat] s t ∧ OnlyIn [.uart, .regs] s t) ∧
  (∀ (s : State) (b : Byte), 64 ≤ s.dev.uart.rx.length →
    Runs (.uartRxByte b true) s fun t => t.dev.uart = s.dev.uart ∧
      t.dev.fld aUartStat ⟨16, 16⟩ = min 0xFFFF (s.dev.fld aUartStat ⟨16, 16⟩ + 1) ∧ OnlyIn [.regs] s t) ∧
  (∀ (s : State) (b : Byte), Runs (.uartRxByte b false) s fun t => t.dev.bit aUartStat 7 = true ∧ t.dev.uart = s.dev.uart ∧
    RegsBut [aUartStat] s t ∧ OnlyIn [.regs] s t) ∧
  (∀ s : State, Runs .uartBreak s fun t => t.dev.bit aUartStat 8 = true ∧ RegsBut [aUartStat] s t ∧ OnlyIn [.regs] s t) ∧
  (∀ (s : State) (m : Master) (w : Word), Accepted s m 0xC004 w → s.dev.uart.tx.length < 64 →
    Runs (.uartDataWrite m w) s fun t => t.dev.uart.tx = s.dev.uart.tx ++ [w.setWidth 8] ∧ RegsBut [aUartStat] s t ∧
      OnlyIn [.uart, .regs] s t) ∧
  (∀ (s : State) (m : Master) (b : Byte) (r : List Byte), Readable s m 0xC004 → s.dev.uart.rx = b :: r →
    Runs (.uartDataRead m) s fun t => t.dev.uart.rx = r ∧
      t.dev.out = .reply m (BitVec.ofNat 32 (b.toNat + 256)) :: s.dev.out ∧ RegsBut [aUartStat] s t ∧
      OnlyIn [.uart, .regs, .out] s t) ∧
  (∀ (s : State) (b : Byte) (r : List Byte), s.dev.uart.tx = b :: r →
    Runs .uartByteSent s fun t => t.dev.uart.tx = r ∧ t.dev.out = .uart b :: s.dev.out ∧ RegsBut [aUartStat] s t ∧
      OnlyIn [.uart, .regs, .out] s t)

/-- The control matrix with its fences and resets, and the console. -/
def Obligations.MatrixAndConsole : Prop :=
  matrixErrorsAndFencesRule ∧ uartConsoleRule

/-! The trust core (chapter 16). -/

/-- The mailbox is open and idle: a request that the host makes runs at once. -/
abbrev mbIdle (s : State) : Prop := s.dev.boot = .ready ∧ s.dev.tc.req = none ∧ s.dev.mbBusy = false

/-- The request completed with status `st`: MB_RSP carries it with the request's tag, and vector 255 of PF0 is sent. -/
def mbDone (s t : State) (st : Nat) : Prop :=
  t.dev.tc.rsp = BitVec.ofNat 32 (st + 2 ^ 16 * Fld.get ⟨16, 16⟩ s.dev.tc.svc) ∧ t.dev.mbBusy = false ∧ Sends s t (.msix 0 255)

/-- An owner authorisation block that verifies and is newer than the one accepted last. -/
abbrev authGood (s : State) (a : Auth) : Prop :=
  s.dev.tc.ownerHash.isSome = true ∧ a.ecdsa = true ∧ a.mldsa = true ∧ s.dev.tc.counter < a.counter

/-- The mailbox services on status, keys and ownership: each completes with its answer and takes what its authorisation allows. -/
def Obligations.MailboxServices : Prop :=
  (∀ s : State, mbIdle s → Runs .status s fun t => mbDone s t stDone ∧
    Sends s t (.mailbox 0x01 s.dev.mbBuffer ((s.dev.reg aTcStat).toNat :: s.dev.tc.images)) ∧ OnlyIn [.tc, .out, .free] s t) ∧
  (∀ (s : State) (nonce : List Byte), mbIdle s → s.dev.tc.drawing = false →
    Runs (.attest nonce) s fun t => mbDone s t stDone ∧ t.dev.tc.nonces = nonce :: s.dev.tc.nonces ∧
      Sends s t (.mailbox 0x02 s.dev.mbBuffer (s.dev.report nonce)) ∧ OnlyIn [.tc, .out, .free] s t) ∧
  (∀ (s : State) (pass : Bool), mbIdle s →
    Runs (.selftest pass) s fun t => mbDone s t stDone ∧ Sends s t (.mailbox 0x03 s.dev.mbBuffer [pass.toNat]) ∧ t.conn = s.conn ∧
      (pass = true → OnlyIn [.tc, .out, .free] s t) ∧ (pass = false → t.dev.bit aTcStat 4 = true)) ∧
  (∀ s : State, Runs .entropyHealthFailure s fun t => t.dev.bit aTcStat 4 = true ∧ t.dev.faultStatus 12 15 = true ∧
    t.conn = s.conn ∧ ∀ f, (t.dev.flow f).ka = none ∧ (t.dev.flow f).rot = none) ∧
  (∀ (s : State) (h : BitVec 384) (nonce : List Byte) (ap : Bool) (a : Auth), mbIdle s → s.dev.tc.ownerHash = none →
    nonce ∈ s.dev.tc.nonces →
    a.ecdsa = true → a.mldsa = true → s.dev.tc.counter < a.counter →
    Runs (.enrol h nonce ap a) s fun t => mbDone s t stDone ∧ t.dev.tc.ownerHash = some h ∧ t.dev.tc.counter = a.counter ∧
      t.dev.bit aTcStat 1 = true ∧
      (s.dev.tc.provisioned = false → t.dev.tc.provisioned = true ∧ t.dev.tc.dwk.isSome = true ∧
        t.dev.tc.approved = (Config.isFips || ap)) ∧
      (s.dev.tc.provisioned = true → t.dev.tc.dwk = s.dev.tc.dwk ∧ t.dev.tc.approved = s.dev.tc.approved) ∧
      RegsBut [aTcStat] s t ∧ OnlyIn [.tc, .regs, .out, .free] s t) ∧
  (∀ (s : State) (ids : List (BitVec 64)) (a : Auth), mbIdle s → authGood s a → ids.length ≤ 64 →
    Runs (.peerList ids a) s fun t => mbDone s t stDone ∧ t.dev.tc.peers = ids ∧ t.dev.tc.counter = a.counter ∧
      OnlyIn [.tc, .out] s t) ∧
  (∀ (s : State) (ids : List (BitVec 64)) (a : Auth), mbIdle s → ¬ authGood s a →
    Runs (.peerList ids a) s fun t => mbDone s t stDenied ∧ t.dev.tc.peers = s.dev.tc.peers ∧
      t.dev.tc.counter = s.dev.tc.counter ∧ OnlyIn [.tc, .out] s t) ∧
  (∀ (s : State) (p : Signed) (h : BitVec 384) (kwk k : BitVec 256) (a : Auth), mbIdle s → authGood s a →
    s.dev.tc.drawing = false → s.dev.tc.tripHeld = false → s.dev.bit aTcStat 4 = false → s.dev.verified p = true →
    s.dev.tc.ownerHash = some h → s.dev.tc.dwk = some k →
    Runs (.wrapOut p h kwk a) s fun t => mbDone s t stDone ∧ t.dev.tc.dwk = some k ∧ OnlyIn [.tc, .out, .free] s t ∧
      ∀ b, b = Config.wrapPublic s.dev.free ++ Config.aesKwWrap kwk (bytesOf 32 k.toNat) → b ≠ [] →
        Sends s t (.mailbox 0x12 s.dev.mbBuffer ((b ++ Config.idkSign b).map fun (v : Byte) => v.toNat))) ∧
  (∀ (s : State) (p : Signed) (kwk : BitVec 256) (w : List Byte) (a : Auth), mbIdle s → authGood s a →
    s.dev.tc.drawing = false → s.dev.tc.tripHeld = false → s.dev.keysServed = true → s.dev.verified p = true →
    Runs (.wrapIn p s.dev.tc.pair kwk w a) s fun t => OnlyIn [.tc, .out] s t ∧
      (∀ b, Config.aesKwUnwrap kwk w = some b → mbDone s t stDone ∧ t.dev.tc.drawing = true ∧
        t.dev.tc.dwk = some (BitVec.ofNat 256 (ofBytes b))) ∧
      (Config.aesKwUnwrap kwk w = none → mbDone s t stRefused ∧ t.dev.tc.dwk = s.dev.tc.dwk)) ∧
  (∀ s : State, Runs .ephemeralDrawn s fun t => t.dev.tc.drawing = false ∧ OnlyIn [.tc] s t)

/-- Images and zeroization: an image goes to the slot that does not run and becomes its trial, a commit confirms it; a zeroization
clears its scope and is shown and counted; ZEROIZE_N and a sensor trip start one of the keys. -/
def Obligations.ImagesAndZeroization : Prop :=
  (∀ (s : State) (img : Image) (k r : Nat), mbIdle s → Fld.get ⟨8, 8⟩ s.dev.tc.svc = k → k ≤ 2 → s.dev.tc.runs k = some r →
    Runs (.imageWrite img) s fun t => t.dev.tc.writing = some (2 * k + (1 - r), img) ∧
      t.dev.tc.slot (2 * k + (1 - r)) = {} ∧ t.dev.mbBusy = true ∧ t.dev.tc.running = s.dev.tc.running ∧
      (∀ i, i ≠ 2 * k + (1 - r) → t.dev.tc.slot i = s.dev.tc.slot i) ∧ t.conn = s.conn) ∧
  (∀ (s : State) (i : Nat) (img : Image), s.dev.tc.writing = some (i, img) →
    Runs .imageWriteDone s fun t => mbDone s t stDone ∧ t.dev.tc.writing = none ∧
      t.dev.tc.slot i = { img := some img, trial := true } ∧ t.conn = s.conn) ∧
  (∀ (s : State) (a : Auth) (k i : Nat), mbIdle s → authGood s a → Fld.get ⟨8, 8⟩ s.dev.tc.svc = k → k ≤ 2 →
    s.dev.tc.trialSlot k = some i →
    Runs (.imageCommit a) s fun t => mbDone s t stDone ∧ (t.dev.tc.slot (2 * k + i)).trial = false ∧
      (t.dev.tc.slot (2 * k + i)).img = (s.dev.tc.slot (2 * k + i)).img ∧ s.dev.tc.floor k ≤ t.dev.tc.floor k ∧
      (∀ img, (s.dev.tc.slot (2 * k + i)).img = some img → img.minVersion.toNat ≤ t.dev.tc.floor k) ∧
      OnlyIn [.tc, .out] s t) ∧
  (∀ (s : State) (a : Auth), mbIdle s → authGood s a → s.dev.tc.zscope = none →
    Runs (.zeroizeFlows a) s fun t => t.dev.tc.zscope = some (0, true) ∧ t.dev.bit aTcStat 5 = true ∧ t.dev.mbBusy = true ∧
      RegsBut [aTcStat] s t ∧ OnlyIn [.tc, .regs] s t) ∧
  (∀ (s : State) (a : Auth), mbIdle s → authGood s a → s.dev.tc.zscope = none →
    Runs (.zeroizeKeys a) s fun t => t.dev.tc.zscope = some (1, true) ∧ t.dev.bit aTcStat 5 = true ∧ t.dev.mbBusy = true ∧
      RegsBut [aTcStat] s t ∧ OnlyIn [.tc, .regs] s t) ∧
  (∀ (s : State) (a : Auth), mbIdle s → authGood s a → s.dev.tc.zscope = none →
    Runs (.zeroizeDevice a) s fun t => t.dev.tc.zscope = some (2, true) ∧ t.dev.bit aTcStat 5 = true ∧ t.dev.mbBusy = true ∧
      RegsBut [aTcStat] s t ∧ OnlyIn [.tc, .regs] s t) ∧
  (∀ (s : State) (scope : Nat), s.dev.tc.zscope = some (scope, false) → s.dev.tc.zqueue = [] → s.dev.tc.resetAfter = none →
    Runs .zeroizationDone s fun t => t.dev.tc.zscope = none ∧ t.dev.bit aTcStat 6 = true ∧ t.dev.bit aTcStat 5 = false ∧
      t.dev.fld aTcStat ⟨16, 16⟩ = (s.dev.fld aTcStat ⟨16, 16⟩ + 1) % 2 ^ 16 ∧ t.conn = s.conn ∧
      (∀ f i, (t.dev.flow f).tx i = {} ∧ (t.dev.flow f).rx i = {} ∧ (t.dev.flow f).ka = none) ∧
      (1 ≤ scope → t.dev.tc.dwk = none) ∧
      (2 ≤ scope → t.dev.tc.ownerHash = none ∧ t.dev.tc.peers = []) ∧
      (scope = 0 → t.dev.tc.dwk = s.dev.tc.dwk) ∧ (scope ≤ 1 → t.dev.tc.ownerHash = s.dev.tc.ownerHash)) ∧
  (∀ s : State, s.dev.tc.zLow = false → s.dev.boot ≠ .off → s.dev.tc.zscope = none →
    Runs .zeroizeNFall s fun t => t.dev.tc.zLow = true ∧ t.dev.tc.zscope = some (1, false) ∧ t.dev.bit aTcStat 7 = true ∧
      t.dev.bit aTcStat 5 = true ∧ RegsBut [aTcStat] s t ∧ OnlyIn [.tc, .regs] s t) ∧
  (∀ s : State, Runs .zeroizeNRise s fun t => t.dev.tc.zLow = false ∧ t.dev.bit aTcStat 7 = false ∧
    RegsBut [aTcStat] s t ∧ OnlyIn [.tc, .regs] s t) ∧
  (∀ (s : State) (i : Fin 3), Runs (.sensorTrip i) s fun t => t.dev.bit aTcStat (8 + i) = true ∧ t.dev.tc.tripHeld = true ∧
    t.dev.tc.zscope.isSome = true ∧ t.dev.bit aTcStat 5 = true ∧ t.dev.faultStatus 12 14 = true ∧
    OnlyIn (.tc :: .regs :: recordParts) s t)

/-! Drypoint and counters (chapter 17). -/

/-- A chain whose samples are taken: it runs, and its region is in RUN. -/
abbrev chainLive (s : State) (g : Nat) : Prop := s.dev.dpRunning g = true ∧ s.dev.regState g = 0

/-- A tap of the bank in use. -/
def tapInUse (s : State) (g i : Nat) : BitVec 16 := SMap.get (s.dev.region g).taps i (tapReset i)

/-- A chain's control, banks, detectors, alarm and captures: a stop clears the delay lines and takes valid away, a swap exchanges the
banks and keeps the samples, a window's end publishes its results under one sequence number. -/
def Obligations.DrypointChain : Prop :=
  (∀ (s : State) (m : Master) (g : Fin 8) (w : Word), Accepted s m (dpBase g) w →
    Runs (.dpCtrlWrite m g w) s fun t => t.dev.dpRunning g = w.getLsbD 0 ∧ t.dev.dpStages g = Fld.get ⟨7, 4⟩ w ∧
      (s.dev.dpRunning g = true → w.getLsbD 0 = false → (t.dev.region g).dp.stages = [] ∧
        (∀ o ∈ [0x24, 0x28, 0x2C], t.dev.bit (dpBase g + o) 24 = false) ∧
        (s.dev.bit (dpBase g + 0x40) 31 = true → t.dev.bit (dpBase g + 0x40) 31 = false ∧
          t.dev.bit (dpBase g + 0x40) 5 = true)) ∧
      (w.getLsbD 0 = true → t.dev.regions = s.dev.regions) ∧
      RegsBut [dpBase g, dpBase g + 0x24, dpBase g + 0x28, dpBase g + 0x2C, dpBase g + 0x34, dpBase g + 0x40] s t ∧
      OnlyIn [.regs, .regions] s t) ∧
  (∀ (s : State) (m : Master) (g : Fin 8), Accepted s m (dpBase g + 0xC) 2 →
    Runs (.dpBankSwap m g) s fun t =>
      (s.dev.dpSwapBad g = false → t.dev.bit (dpBase g + 0xC) 0 = !s.dev.bit (dpBase g + 0xC) 0 ∧
        (∀ i < 31, tapInUse t g i = (s.dev.reg (dpBase g + 0x100 + 4 * i)).setWidth 16 ∧
          t.dev.reg (dpBase g + 0x100 + 4 * i) = (tapInUse s g i).setWidth 32) ∧
        t.dev.bit (dpBase g + 0xC) 2 = s.dev.bit (dpBase g + 0x10) 0 ∧ (t.dev.region g).dp = (s.dev.region g).dp ∧
        t.dev.fld (dpBase g + 0x34) ⟨16, 16⟩ = (s.dev.fld (dpBase g + 0x34) ⟨16, 16⟩ + 1) % 2 ^ 16 ∧
        OnlyIn [.regs, .regions] s t) ∧
      (s.dev.dpSwapBad g = true → t.dev.bit (dpBase g + 0xC) 3 = true ∧ RegsBut [dpBase g + 0xC] s t ∧
        OnlyIn [.regs] s t)) ∧
  (∀ (s : State) (g : Fin 8) (zeros : Nat) (x : Int × Int), chainLive s g → s.dev.dpStages g = 0 → s.dev.dpComp g = 3 →
    s.dev.cState (6 * g + s.dev.fld (dpBase g) ⟨1, 3⟩) ≠ csOff → (s.dev.region g).dp.input = [x] →
    2 ^ s.dev.fld (dpBase g + 0x20) ⟨0, 5⟩ ≤ (s.dev.region g).dp.n + 1 →
    Runs (.detectorWindowEnd g zeros) s fun t =>
      t.dev.reg (dpBase g + 0x24) = BitVec.ofNat 32 (min (max (s.dev.region g).dp.peak x.1.natAbs) 0xFFFF +
        2 ^ 16 * ((s.dev.fld (dpBase g + 0x24) ⟨16, 8⟩ + 1) % 256) + 2 ^ 24) ∧
      (∀ o ∈ [0x28, 0x2C], t.dev.fld (dpBase g + o) ⟨16, 9⟩ = (s.dev.fld (dpBase g + 0x24) ⟨16, 8⟩ + 1) % 256 + 256) ∧
      (t.dev.region g).dp.n = 0 ∧ (t.dev.region g).dp.peak = 0 ∧ (t.dev.region g).dp.input = [] ∧
      RegsBut [dpBase g + 0x24, dpBase g + 0x28, dpBase g + 0x2C] s t ∧ OnlyIn [.regs, .regions, .dpBuf, .free] s t) ∧
  (∀ (s : State) (g : Fin 8), s.dev.dpRunning g = true → s.dev.bit (dpBase g) 11 = true → s.dev.ptaOn g = false →
    s.dev.envHigh g = true →
    Runs (.ptaEnter g) s fun t => t.dev.ptaOn g = true ∧ t.dev.bit (dpBase g + 0x34) 2 = true ∧ RegsBut [dpBase g + 0x34] s t ∧
      OnlyIn (.regs :: .ic :: .cores :: recordParts) s t ∧
      (EventRoom s 0 → Recorded s t 0 ⟨.other .dpEvent, 0, 8 + g / 2, 0, g, []⟩)) ∧
  (∀ (s : State) (g : Fin 8), s.dev.ptaOn g = true → s.dev.envHigh g = false →
    Runs (.ptaExit g) s fun t => t.dev.ptaOn g = false ∧ RegsBut [dpBase g + 0x34] s t ∧ OnlyIn [.regs] s t) ∧
  (∀ (s : State) (m : Master) (g : Fin 8) (w : Word), Accepted s m (dpBase g + 0x40) (w ||| 0x80000000#32) →
    Runs (.dpCaptureArm m g w) s fun t => t.dev.bit (dpBase g + 0x40) 31 = true ∧ (t.dev.region g).dp.stored = 0 ∧
      t.dev.fld (dpBase g + 0x40) ⟨0, 4⟩ = Fld.get ⟨0, 4⟩ w ∧ RegsBut [dpBase g + 0x40] s t ∧ OnlyIn [.regs, .regions] s t) ∧
  (∀ (s : State) (g : Fin 8) (zeros : Nat), s.dev.bit (dpBase g + 0x40) 31 = true →
    2 ^ s.dev.fld (dpBase g + 0x40) ⟨0, 4⟩ ≤ (s.dev.region g).dp.stored →
    Runs (.dpCaptureDone g zeros) s fun t => t.dev.bit (dpBase g + 0x40) 31 = false ∧ t.dev.bit (dpBase g + 0x40) 4 = true ∧
      (t.dev.region g).dp.stored = (s.dev.region g).dp.stored ∧ RegsBut [dpBase g + 0x40] s t ∧ OnlyIn [.regs, .regions] s t)

/-- The carriers and the flows are listed once each. -/
abbrev listedOnce (s : State) : Prop :=
  SMap.wf (fun _ => {}) s.dev.carriers = true ∧ SMap.wf (fun _ => {}) s.dev.flows = true

/-- The read latch that a LO cell at offset `o` of block `b` leaves for master `m`. -/
def latched (t : State) (m : Master) (b o : Nat) : Nat := SMap.get (t.dev.pc b).latch (latchKey m (o + 4)) 0

/-- Transport counters are latched each second with their defect second; counter cells are read with their upper halves latched;
a counter overflows once; snapshot, clear and freeze of every block act at the capture tick, those of one block at once. -/
def Obligations.CountersAndTime : Prop :=
  (∀ s : State, listedOnce s → Runs .pmSecond s fun t => OnlyIn [.carriers, .flows] s t ∧
    (∀ c, (t.dev.carrier c).snap = (t.dev.carrier c).pm ∧ (t.dev.carrier c).pm.corrected = (s.dev.carrier c).pm.corrected ∧
      (t.dev.carrier c).pm.defectSeconds = min (2 ^ 32 - 1) ((s.dev.carrier c).pm.defectSeconds +
        ((s.dev.carrier c).pm.seen || (s.dev.carrier c).rep.isSome).toNat)) ∧
    (∀ f, (t.dev.flow f).snap = (t.dev.flow f).pm ∧ (t.dev.flow f).raw = (s.dev.flow f).raw)) ∧
  (∀ (s : State) (b : Fin 66), s.dev.pcFrozen b = false → (s.dev.pc b).cyc = 2 ^ 64 - 1 →
    Runs (.counterOverflow b 8) s fun t => (t.dev.pc b).cyc = 0 ∧ t.dev.bit (pcBase b + 0x74) 8 = true ∧
      RegsBut [pcBase b + 0x74] s t ∧ OnlyIn countParts s t ∧
      (EventRoom s 0 → Recorded s t 0 ⟨.block, 16 * b + 8, pcDie b, b, 0, []⟩)) ∧
  (∀ (s : State) (b : Fin 66) (i : Fin 9), i.val < 8 → s.dev.pcFrozen b = false → (s.dev.pcSel b i).getLsbD 14 = true →
    (s.dev.pcSel b i).getLsbD 16 = false → s.dev.pcOddChained b i = false → s.dev.pcEvenChained b i = false →
    SMap.get (s.dev.pc b).cnt i 0 = 2 ^ 48 - 1 →
    Runs (.counterOverflow b i) s fun t => SMap.get (t.dev.pc b).cnt i 0 = 0 ∧ t.dev.bit (pcBase b + 0x74) i = true ∧
      RegsBut [pcBase b + 0x74] s t ∧ OnlyIn countParts s t ∧
      (EventRoom s 0 → Recorded s t 0 ⟨.block, 16 * b + i, pcDie b, b, 0, []⟩)) ∧
  (∀ (s : State) (m : Master) (b : Fin 66) (i : Fin 9) (snap : Bool), Readable s m (loCell b i snap) →
    s.dev.pcOddChained b i = false ∨ i.val = 8 →
    Runs (.counterLoRead m b i snap) s fun t =>
      t.dev.out = .reply m (BitVec.ofNat 32 (s.dev.pcLive b (loCell b i snap - pcBase b))) :: s.dev.out ∧
      latched t m b (loCell b i snap - pcBase b) = s.dev.pcLive b (loCell b i snap - pcBase b + 4) ∧
      OnlyIn [.pcs, .out] s t) ∧
  (∀ (s : State) (m : Master), Readable s m 0x10 →
    Runs (.glbTimeLoRead m) s fun t => t.dev.out = .reply m (BitVec.ofNat 32 s.dev.time) :: s.dev.out ∧
      SMap.get t.dev.timeLatch (masterNo m) 0 = BitVec.ofNat 32 (s.dev.time / 2 ^ 32) ∧ OnlyIn [.timeLatch, .out] s t) ∧
  (∀ (s : State) (m : Master), Accepted s m 0x8C00 ((s.dev.reg 0x8C00 &&& 1) ||| 2) →
    Runs (.pcGlbSnap m) s fun t => t.dev.bit 0x8C00 1 = true ∧ t.dev.bit 0x8C00 0 = s.dev.bit 0x8C00 0 ∧
      RegsBut [0x8C00] s t ∧ OnlyIn [.regs] s t) ∧
  (∀ (s : State) (m : Master), Accepted s m 0x8C00 1 →
    Runs (.pcGlbFreeze m) s fun t => t.dev.bit 0x8C00 0 = true ∧ RegsBut [0x8C00] s t ∧ OnlyIn [.regs] s t) ∧
  (∀ (s : State) (m : Master), Accepted s m 0x8C00 ((s.dev.reg 0x8C00 &&& 1) ||| 4) →
    Runs (.pcGlbClear m) s fun t => t.dev.pcGlbClr = true ∧ t.dev.bit 0x8C00 0 = s.dev.bit 0x8C00 0 ∧
      RegsBut [0x8C00] s t ∧ OnlyIn [.regs, .pcGlb] s t) ∧
  (∀ s : State, s.dev.bit 0x8C00 1 = true →
    Runs .pcGlbTick s fun t => t.dev.bit 0x8C00 1 = false ∧ t.dev.pcGlbFrz = s.dev.bit 0x8C00 0 ∧ t.dev.pcGlbClr = false ∧
      ∀ b < 66, (t.dev.pc b).snapCyc = (s.dev.pc b).cyc ∧ (t.dev.pc b).snap = (s.dev.pc b).cnt ∧
        (t.dev.pc b).cyc = (if s.dev.pcGlbClr then 0 else (s.dev.pc b).cyc) ∧
        (t.dev.pc b).cnt = (if s.dev.pcGlbClr then [] else (s.dev.pc b).cnt)) ∧
  (∀ (s : State) (m : Master) (b : Fin 66) (on : Bool), s.dev.bit (aPcCtrl b) 1 = false →
    Accepted s m (aPcCtrl b) (Fld.set ⟨0, 1⟩ on.toNat (s.dev.reg (aPcCtrl b))) →
    Runs (.blockFreeze m b on) s fun t => t.dev.bit (aPcCtrl b) 0 = on ∧ RegsBut [aPcCtrl b] s t ∧ OnlyIn [.regs] s t) ∧
  (∀ (s : State) (m : Master) (b : Fin 66), Accepted s m (aPcCtrl b) (s.dev.reg (aPcCtrl b) ||| 2) →
    Runs (.blockClear m b) s fun t => (t.dev.pc b).cyc = 0 ∧ (t.dev.pc b).cnt = [] ∧ (t.dev.pc b).latch = [] ∧
      (t.dev.pc b).snap = (s.dev.pc b).snap ∧ t.dev.reg (pcBase b + 0x74) = 0 ∧
      RegsBut [aPcCtrl b, pcBase b + 0x74] s t ∧ OnlyIn [.regs, .pcs] s t)

/-! Power (chapter 18). -/

/-- A request for state `st` has started: busy, with the transition that leads there. -/
def requested (s t : State) (st : Nat) : Prop :=
  t.dev.pwrBusy = true ∧ t.dev.pw.to_ = some st ∧ t.dev.pw.window = false ∧ t.dev.pwrState = s.dev.pwrState ∧
    RegsBut [aPwrStat] s t ∧ OnlyIn [.regs, .pw] s t

/-- The device is in SLEEP or DEEP, no transition and no voltage step runs. -/
abbrev restsGated (s : State) : Prop :=
  (s.dev.pwrState = 2 ∨ s.dev.pwrState = 3) ∧ s.dev.pwrBusy = false ∧ s.dev.pw.steps = []

/-- A wake by source `src` has started, to the state that PWR_CFG.wake_to names. -/
def woken (s t : State) (src : Nat) : Prop :=
  t.dev.pwrBusy = true ∧ t.dev.fld aPwrStat ⟨8, 3⟩ = src ∧ t.dev.pw.to_ = some (s.dev.fld aPwrCfg ⟨0, 1⟩) ∧ t.conn = s.conn

/-- Requests start transitions, which end in their state; an event of the management class wakes a gated device, and stops an entry
before its window; a WAKE in OFF raises PWR_REQ. -/
def Obligations.DeviceStates : Prop :=
  (∀ (s : State) (m : Master), s.dev.pw.steps = [] → Accepted s m 0x2000 0 → Runs (.reqRun m) s fun t => requested s t 0) ∧
  (∀ (s : State) (m : Master), s.dev.pw.steps = [] → Accepted s m 0x2000 1 → Runs (.reqIdle m) s fun t => requested s t 1) ∧
  (∀ (s : State) (m : Master), s.dev.pw.steps = [] → Accepted s m 0x2000 2 → Runs (.reqSleep m) s fun t => requested s t 2) ∧
  (∀ (s : State) (m : Master), s.dev.pw.steps = [] → Accepted s m 0x2000 3 → Runs (.reqDeep m) s fun t => requested s t 3) ∧
  (∀ (s : State) (m : Master), s.dev.pw.steps = [] → Accepted s m 0x2000 4 → Runs (.reqOff m) s fun t => requested s t 4) ∧
  (∀ (s : State) (m : Master), s.dev.pw.steps ≠ [] → Accepted s m 0x2000 0 →
    Runs (.reqRun m) s fun t => t.dev.pwrBusy = true ∧ t.dev.pw.after = some 0 ∧ t.dev.pw.to_ = s.dev.pw.to_ ∧
      RegsBut [aPwrStat] s t ∧ OnlyIn [.regs, .pw] s t) ∧
  (∀ (s : State) (st : Nat), s.dev.pw.to_ = some st → 2 ≤ st → s.dev.pwrBusy = true →
    Runs .entryWindow s fun t => t.dev.pw.window = true ∧ OnlyIn [.pw] s t) ∧
  (∀ (s : State) (st : Nat), s.dev.pw.to_ = some st → st < 2 → s.dev.pwrBusy = true → s.dev.mx.regionWait = [] →
    Runs .stateTransitionDone s fun t => t.dev.pwrState = st ∧ t.dev.pwrBusy = false ∧ t.dev.pw.to_ = none ∧ t.conn = s.conn ∧
      ∀ n < 4, (t.dev.core n).clock = decide (st = 0)) ∧
  (∀ (s : State) (st : Nat), s.dev.pw.to_ = some st → 2 ≤ st → st ≤ 4 → s.dev.pwrBusy = true → s.dev.pw.window = true →
    s.dev.pw.wakeDue = none → s.dev.mx.regionWait = [] →
    Runs .stateTransitionDone s fun t => t.dev.pwrState = st ∧ t.dev.pwrBusy = false ∧ t.dev.pw.to_ = none ∧ t.conn = s.conn ∧
      (∀ n < 4, (t.dev.core n).clock = false) ∧ (st = 4 → t.dev.bit aPwrStat 7 = true ∧ t.dev.pwrReq = false)) ∧
  (∀ (s : State) (db : Bool), restsGated s → Runs (.hostAccessWake db) s fun t => woken s t 1) ∧
  (∀ (s : State) (st : Nat) (db : Bool), s.dev.pwrBusy = true → s.dev.pw.to_ = some st → 2 ≤ st → s.dev.pw.window = false →
    Runs (.hostAccessWake db) s fun t => t.dev.pwrBusy = false ∧ t.dev.bit aPwrStat 5 = true ∧ t.dev.pw.to_ = none ∧
      t.dev.pwrState = s.dev.pwrState ∧ RegsBut [aPwrStat] s t ∧ OnlyIn (.regs :: .pw :: recordParts) s t ∧
      (EventRoom s 0 → Recorded s t 0 ⟨.other .entryAbort, 0, 12, 0, 0, []⟩)) ∧
  (∀ s : State, restsGated s → s.dev.bit aPwrCfg 4 = true →
    Runs .wakeTimerExpiry s fun t => woken s t 2 ∧ t.dev.reg 0x2014 = 0) ∧
  (∀ s : State, restsGated s → s.dev.bit aPwrCfg 3 = true → s.dev.bit aPwrCfg 1 = false →
    Runs .wakeEdge s fun t => woken s t 3) ∧
  (∀ s : State, restsGated s → s.dev.bit aPwrCfg 3 = true → s.dev.bit aPwrCfg 1 = true →
    Runs .wakeLevel s fun t => woken s t 6) ∧
  (∀ (s : State) (g : Fin 8) (v : BitVec 16), restsGated s → s.dev.bit aPwrCfg (16 + g) = true →
    s.dev.fld 0x201C ⟨0, 16⟩ < v.toNat → Runs (.lightDetect g v) s fun t => woken s t 4) ∧
  (∀ (s : State) (j : Fin 3), restsGated s → s.dev.bit aPwrCfg 5 = true → s.dev.lState j = lsIdle →
    Runs (.linkSignalWake j) s fun t => woken s t 5) ∧
  (∀ s : State, s.dev.boot = .off → Runs .offWake s fun t => t.dev.pwrReq = true ∧ OnlyIn [.pins] s t)

/-- VOUT_COMMAND of rail `n` for `mv` millivolts: its address, mode bit and ULINEAR16 code. -/
def voutSent (s : State) (n mv : Nat) : Out :=
  .pmbus n (s.dev.fld (aAvsRail n) ⟨0, 7⟩) (s.dev.bit 0x2020 1) (s.dev.quotOf (mv * 4096) 1000).1

/-- Regions are gated and come back, pads are released, rails are stepped within their limits and judged by their readings, and the
board controller reads and writes its registers. -/
def Obligations.RegionsRailsAndBoard : Prop :=
  (∀ (s : State) (m : Master) (g : Fin 8) (st : Fin 3), st.val ≠ 0 → s.dev.regState g = 0 →
    Accepted s m 0x200C (Fld.set ⟨2 * g, 2⟩ st (s.dev.reg 0x200C)) →
    Runs (.regionGate m g st) s fun t => t.dev.regState g = st ∧ t.dev.regGate g = st ∧ t.dev.capArmed g = false ∧
      t.conn = s.conn) ∧
  (∀ (s : State) (m : Master) (g : Fin 8), s.dev.regState g = 1 ∨ s.dev.regState g = 2 →
    Accepted s m 0x200C (Fld.set ⟨2 * g, 2⟩ 0 (s.dev.reg 0x200C)) →
    Runs (.regionGate m g 0) s fun t => t.dev.regState g = 3 ∧ t.dev.regGate g = 0 ∧ t.conn = s.conn) ∧
  (∀ (s : State) (g : Fin 8), s.dev.regState g = 3 → s.dev.mx.regionWait = [] →
    Runs (.regionReady g) s fun t => t.dev.regState g = 0 ∧ (t.dev.region g).dp.stages = [] ∧ RegsBut [aPwrRstat] s t ∧
      OnlyIn [.regs, .regions] s t) ∧
  (∀ (s : State) (g : Fin 8), s.dev.regGate g ≠ 0 → s.dev.regState g = 0 → s.dev.regionOff g = true →
    Runs (.lingerExpiry g) s fun t => t.dev.regState g = s.dev.regGate g ∧ t.conn = s.conn) ∧
  (∀ (s : State) (m : Master) (rs : BitVec 8) (dev : Bool),
    Accepted s m 0x2018 (BitVec.ofNat 32 (rs.toNat + 256 * dev.toNat)) →
    Runs (.padRelease m rs dev) s fun t => t.dev.bit aPwrRstat 24 = (s.dev.bit aPwrRstat 24 && !dev) ∧
      (∀ g < 8, t.dev.bit aPwrRstat (16 + g) = (s.dev.bit aPwrRstat (16 + g) && !rs.getLsbD g)) ∧
      RegsBut [aPwrRstat] s t ∧ OnlyIn [.regs] s t) ∧
  (∀ (s : State) (n : Fin 8) (v : Nat), v < 2 ^ 11 → s.dev.avsAllowed n v = true →
    Runs (.avsStep n v) s fun t => t.dev.out = voutSent s n v :: s.dev.out ∧ t.dev.fld (aAvsVout n) ⟨11, 11⟩ = v ∧
      t.dev.stepOf n = some ⟨s.dev.railNow n, v, decide (s.dev.railNow n ≤ v), false⟩ ∧
      RegsBut [aAvsVout n] s t ∧ OnlyIn [.regs, .pw, .out, .free] s t) ∧
  (∀ (s : State) (n : Fin 8) (v : BitVec 16) (x : AvsStep), s.dev.stepOf n = some x → voutNear x.target v = true →
    Runs (.readVoutPoll n v) s fun t => t.dev.stepOf n = none ∧
      t.dev.fld (aAvsVout n) ⟨0, 11⟩ = min (s.dev.quotOf (v.toNat * 1000) 4096).1 2047 ∧
      RegsBut [aAvsVout n] s t ∧ OnlyIn [.regs, .pw, .free] s t) ∧
  (∀ (s : State) (n : Fin 8) (x : AvsStep), s.dev.stepOf n = some x → x.raise = false → x.prev < 2 ^ 11 →
    Runs (.avsStepTimeout n) s fun t => t.dev.stepOf n = none ∧ t.dev.fld (aAvsVout n) ⟨11, 11⟩ = x.prev ∧
      t.dev.bit aPwrStat 6 = true ∧ Sends s t (voutSent s n x.prev) ∧ RegsBut [aAvsVout n, aPwrStat] s t ∧ t.conn = s.conn) ∧
  (∀ (s : State) (n : Fin 8) (x : AvsStep), s.dev.stepOf n = some x → x.raise = true → x.again = false →
    Runs (.avsStepTimeout n) s fun t => t.dev.stepOf n = some { x with again := true } ∧
      t.dev.out = voutSent s n x.target :: s.dev.out ∧ RegsBut [aAvsVout n] s t) ∧
  (∀ (s : State) (fr : BcFrame), s.dev.bcUp = true → s.dev.boot ≠ .off → fr.cmd = 0x0B → fr.clocks = 64 →
    fr.addr.toNat < 0x10 →
    Runs (.bcRead fr) s fun t => t.dev.out = .bc (bcMiso fr (s.dev.bcReg fr.addr.toNat)) :: s.dev.out ∧ OnlyIn [.out] s t) ∧
  (∀ (s : State) (fr : BcFrame), s.dev.bcUp = true → s.dev.boot ≠ .off → fr.cmd = 0x02 → fr.clocks = 56 → fr.addr = 0x40 →
    Runs (.bcWrite fr) s fun t => t.dev.bcReg 0x40 = fr.data ∧ t.dev.out = .bc (bcMiso fr 0) :: s.dev.out ∧
      OnlyIn [.bc, .out] s t)

/-! Faults, memory protection and calibration (chapter 19). -/

/-- A source asserts: its status bit is set with a record at its change, and its class acts. -/
def faultActs (s t : State) (x i : Nat) : Prop :=
  t.dev.faultStatus x i = true ∧ t.conn = s.conn ∧
    (s.dev.faultClass x i = 0 → RegsBut [0x3000 + 8 * x + 4 * (i / 32)] s t ∧ OnlyIn (.regs :: recordParts) s t ∧
      (s.dev.faultStatus x i = false → EventRoom s 0 → Recorded s t 0 ⟨.fault, i, x, 0, 0, []⟩)) ∧
    (s.dev.faultClass x i = 1 → ∀ c, sourceCarrier x i = some c → (t.dev.carrier c).squelch = true) ∧
    (s.dev.faultClass x i = 2 → ∀ c, sourceCarrier x i = some c → (t.dev.cluster c).reset = true) ∧
    (s.dev.faultClass x i = 4 → t.dev.safe = true)

/-- Fault sources: an assertion, from its line or injected, is recorded and acts by its class; a clear ends it; memory errors are
counted and reset their scope. -/
def Obligations.FaultsAndMemoryErrors : Prop :=
  (∀ (s : State) (x : Fin 16) (i : Fin 64), s.dev.lineIgnored x i = false → s.dev.faultClass x i ≤ 4 → s.dev.faultClass x i ≠ 3 →
    Runs (.faultAssert x i) s fun t => faultActs s t x i) ∧
  (∀ (s : State) (x : Fin 16) (i : Fin 64), s.dev.lineIgnored x i = true → Runs (.faultAssert x i) s fun t => t = s) ∧
  (∀ (s : State) (m : Master) (x : Fin 16) (i : Fin 64), s.dev.lineIgnored x i = false → s.dev.faultClass x i ≤ 4 →
    s.dev.faultClass x i ≠ 3 → Accepted s m 0x3384 (BitVec.ofNat 32 (0x80000000 + 64 * x.val + i.val)) { maint := true } →
    Runs (.faultInject m true x i) s fun t => faultActs s t x i) ∧
  (∀ (s : State) (m : Master) (x : Fin 16) (i : Fin 64),
    Accepted s m (0x3000 + 8 * x + 4 * (i.val / 32)) (BitVec.ofNat 32 (2 ^ (i.val % 32))) →
    Runs (.faultStatusClear m x i) s fun t => t.dev.faultStatus x i = false ∧ t.conn = s.conn ∧
      (∀ c, sourceCarrier x i = some c → (t.dev.carrier c).squelch = false) ∧
      RegsBut [0x3000 + 8 * x + 4 * (i.val / 32), 0x3300 + 8 * x + 4 * (i.val / 32)] s t) ∧
  (∀ s : State, s.dev.alive = .wave → Runs .collectorClockLoss s fun t => t.dev.alive = .undefined ∧ OnlyIn [.alive] s t) ∧
  (∀ (s : State) (x : Fin 16), logOrSafe s x 4 →
    Runs (.correctedError x) s fun t => t.dev.fld (aFcEcc x) ⟨0, 16⟩ = min 0xFFFF (s.dev.fld (aFcEcc x) ⟨0, 16⟩ + 1) ∧
      t.dev.faultStatus x 4 = true ∧ t.conn = s.conn) ∧
  (∀ (s : State) (c : Fin 48), logOrSafe s (8 + c / 12) 3 →
    Runs (.uncorrectableError (.carrier c)) s fun t => t.dev.faultStatus (8 + c / 12) 3 = true ∧
      (t.dev.cluster c).reset = true ∧ t.conn = s.conn ∧
      t.dev.fld (aFcEcc (8 + c / 12)) ⟨16, 16⟩ = min 0xFFFF (s.dev.fld (aFcEcc (8 + c / 12)) ⟨16, 16⟩ + 1)) ∧
  (∀ (s : State) (a : Word), logOrSafe s 12 3 →
    Runs (.uncorrectableError (.core3Data a)) s fun t => t.dev.faultStatus 12 3 = true ∧ (t.dev.core 3).stack = [] ∧
      (∀ j < 4, Mem.read t.dev.mem (3 * 2 ^ 32 + a.toNat / 4 * 4 + j) = some 0) ∧ t.conn = s.conn)

/-- The hub datapath reset holds framer, switch and cipher and leaves connection memory, the active pages, the host's claim on the
standby page and the keys of every flow that exists as they were. -/
def hubDatapathResetRule : Prop :=
  (∀ (s : State) (m : Master), Accepted s m 0x20 2 →
    Runs (.hubDatapathReset m) s fun t => t.dev.hubReset = true ∧ t.conn = s.conn ∧
      (∀ rx, t.dev.actPage rx = s.dev.actPage rx) ∧ t.dev.bit aSwCtrl 2 = s.dev.bit aSwCtrl 2 ∧
      t.dev.bit aSwCtrl 0 = false ∧
      ∀ f, (s.dev.flow f).coming = false →
        ∀ i, (t.dev.flow f).tx i = (s.dev.flow f).tx i ∧ (t.dev.flow f).rx i = (s.dev.flow f).rx i) ∧
  (∀ s : State, s.dev.hubReset = true →
    Runs .hubDatapathResetEnd s fun t => t.conn = s.conn ∧ t.dev.regs = s.dev.regs ∧
      ∀ k ∈ hubClusters, (t.dev.cluster (clusterCode k)).reset = false)

/-- Calibration: a full one runs on an idle region and takes both reference temperatures; a background run begins when the temperature
has moved; a stored record that reads back is the newest. -/
def Obligations.Calibration : Prop :=
  (∀ (s : State) (m : Master) (g : Fin 8), s.dev.regionOff g = true → (s.dev.region g).full = false →
    Accepted s m 0x3800 ((s.dev.reg 0x3800 &&& 0x100#32) ||| (BitVec.ofNat 8 (2 ^ g.val)).setWidth 32) { refsOk := some true } →
    Runs (.fullCalibration m (BitVec.ofNat 8 (2 ^ g.val)) true) s fun t => (t.dev.region g).full = true ∧
      t.dev.bit 0x3800 g = true ∧ t.dev.fld (aCvtCal g) ⟨0, 2⟩ = 2 ∧ t.conn = s.conn) ∧
  (∀ (s : State) (g : Fin 8) (ms : List (Nat × List Int)) (temp : BitVec 16), (s.dev.region g).full = true →
    (s.dev.factorsJudged g temp (ms.filter fun m => m.1 < setCount)).2 = true ∨ logOrSafe s g 6 →
    Runs (.fullCalibrationEnd g ms temp) s fun t =>
      (t.dev.region g).factors = putAll (s.dev.region g).factors
        (s.dev.factorsJudged g temp (ms.filter fun m => m.1 < setCount)).1 ∧ (t.dev.region g).full = false ∧ t.dev.bit 0x3800 g = false ∧
      t.dev.reg (aBnTref g) = BitVec.ofNat 32 (temp.toNat + 2 ^ 16 * temp.toNat) ∧ t.dev.bit aBnStat (8 + g) = false ∧
      (t.dev.bn.storing.isSome = true ∨ t.dev.bn.queued = true) ∧ t.conn = s.conn) ∧
  (∀ (s : State) (g : Fin 8) (temp : BitVec 16), tempDist temp (s.dev.trefFull g) ≤ 2000 → s.dev.runDue g temp = true →
    Runs (.burnishSample g temp true) s fun t => (∃ cs, (t.dev.region g).run = some ⟨temp, 0, false, cs, []⟩) ∧
      t.dev.fld (aCvtCal g) ⟨0, 2⟩ = 1 ∧ RegsBut [aCvtCal g] s t ∧ OnlyIn [.regs, .regions] s t) ∧
  (∀ (s : State) (g : Fin 8) (temp : BitVec 16), tempDist temp (s.dev.trefFull g) ≤ 2000 → s.dev.runDue g temp = true →
    logOrSafe s g 6 →
    Runs (.burnishSample g temp false) s fun t => (t.dev.region g).run = none ∧ t.dev.bit aBnStat 0 = true ∧
      t.dev.faultStatus g 6 = true) ∧
  (∀ (s : State) (b : Bool) (r : CalRec), s.dev.bn.storing = some (b, r) → s.dev.bn.queued = false →
    Runs (.calStoreDone true) s fun t => (if b then t.dev.bn.slotB else t.dev.bn.slotA) = some r ∧ t.dev.bn.storing = none ∧
      t.dev.bn.lastStore = some s.dev.time ∧
      t.dev.fld aBnStat ⟨16, 16⟩ = (s.dev.fld aBnStat ⟨16, 16⟩ + 1) % 2 ^ 16 ∧ OnlyIn [.regs, .bn] s t)

/-! Start-up and reset (chapter 20). -/

/-- A kind of image has a slot that can boot. -/
abbrev kindBoots (s : State) (k : Nat) : Prop := (s.dev.tc.choose k).isSome = true

/-- Power-on returns everything to reset but what OTP and the store die hold; a device reset keeps the always-on islands too; the boot
runs the newest bootable images or stops in recovery; a region reset takes its carriers. -/
def startupAndResetRule : Prop :=
  (∀ s : State, Runs .powerOnReset s fun t => t.dev.boot = .held ∧ t.dev.resetLow = true ∧ t.dev.reg aEpoch = 0 ∧
    t.conn = State.reset.conn ∧ t.pools = [] ∧ t.dev.flows = [] ∧ t.dev.act = [] ∧ t.dev.tc.slots = s.dev.tc.slots ∧
    t.dev.tc.ownerHash = s.dev.tc.ownerHash ∧ t.dev.tc.dwk = s.dev.tc.dwk ∧ t.dev.bn.slotA = s.dev.bn.slotA ∧
    t.dev.time = 0 ∧ RegsBut [aTcStat] State.reset t) ∧
  (∀ s : State, s.dev.bit aPwrStat 7 = true → Runs .suppliesRemoved s fun t => t.dev.boot = .off ∧
    t.dev.pwrReq = s.dev.pwrReq ∧ t.conn = State.reset.conn ∧ RegsBut [aTcStat] State.reset t) ∧
  (∀ s : State, s.dev.boot ≠ .off → s.dev.resetLow = false → s.dev.tc.zscope = none →
    Runs .resetNFall s fun t => t.dev.boot = .held ∧ t.dev.resetLow = true ∧ t.dev.reg aEpoch = s.dev.reg aEpoch ∧
      t.dev.bit aRstStat 2 = true ∧ t.dev.fld aRstStat ⟨16, 16⟩ = (s.dev.fld aRstStat ⟨16, 16⟩ + 1) % 2 ^ 16 ∧
      t.conn = State.reset.conn ∧ t.dev.flows = [] ∧ t.dev.rings = [] ∧ t.dev.act = [] ∧
      ∀ x < 16, ∀ i < 64, t.dev.faultStatus x i = s.dev.faultStatus x i) ∧
  (∀ s : State, s.dev.boot = .held → s.dev.resetLow = true →
    Runs (.resetNRise [] false) s fun t => t.dev.resetLow = false ∧ t.conn = s.conn ∧ t.dev.bcUp = true ∧
      (kindBoots s 0 → kindBoots s 1 → t.dev.boot = .running ∧ (∀ n < 3, (t.dev.core n).running = true) ∧
        (s.dev.core3Bad = false → (t.dev.core 3).running = (s.dev.tc.choose 2).isSome) ∧
        t.dev.tc.runs 0 = s.dev.tc.choose 0 ∧ t.dev.tc.runs 1 = s.dev.tc.choose 1) ∧
      (¬ kindBoots s 0 ∨ ¬ kindBoots s 1 → t.dev.boot = .recovery)) ∧
  (∀ s : State, s.dev.boot = .running → Runs .bootComplete s fun t => t.dev.boot = .ready ∧ t.dev.readyDue = true ∧
    t.dev.bit aRstStat 0 = true ∧ (s.dev.safe = false → t.dev.alive = .wave) ∧ RegsBut [aRstStat] s t ∧
    OnlyIn [.regs, .boot, .alive] s t) ∧
  (∀ (s : State) (m : Master), Accepted s m 0x20 1 → s.dev.resetLow = false → s.dev.tc.zscope = none → s.dev.proof = [] →
    Runs (.deviceResetCommand m) s fun t => t.dev.reg aEpoch = s.dev.reg aEpoch ∧ t.dev.bit aRstStat 3 = true ∧
      t.dev.bit aRstStat 0 = false ∧ t.dev.fld aRstStat ⟨16, 16⟩ = (s.dev.fld aRstStat ⟨16, 16⟩ + 1) % 2 ^ 16 ∧
      t.conn = State.reset.conn ∧ t.dev.flows = [] ∧ (t.dev.boot = .running ∨ t.dev.boot = .recovery)) ∧
  (∀ (s : State) (m : Master) (g : Fin 8), Accepted s m 0x20 (BitVec.ofNat 32 (2 ^ (8 + g.val))) →
    Runs (.regionReset m g) s fun t => (∀ c, c / 6 = g.val → c < 48 → (t.dev.cluster c).reset = true) ∧
      (t.dev.region g).full = false ∧ (t.dev.region g).taps = [] ∧ (t.dev.region g).run = none ∧ t.conn = s.conn)

/-- Power-on, resets and the boot, the hub datapath reset among them. -/
def Obligations.StartupAndReset : Prop :=
  hubDatapathResetRule ∧ startupAndResetRule
end

