-- ==== Sys2Proof/Laws/Access.lean ====
section
/-!
SUPPORT. Accesses to BAR0: an access that is open to its master and reaches a register is one write, one reject or one read of
that register, whatever else the device does; and what an address that names a register looks like.
-/
namespace Sys2Proof.Machine
open RegMap

/-! Addresses of the register table. -/

/-- Indices found for an offset lie within the counts of their dimensions. -/
theorem matchDims_bound {ds : List (Nat × Nat)} {off : Nat} {is : List Nat} (h : matchDims ds off = some is) :
    is.length = ds.length ∧ ∀ p ∈ ds.zip is, p.2 < p.1.2 := by
  induction ds generalizing off is with
  | nil =>
    simp only [matchDims] at h
    split at h
    · cases h; simp
    · cases h
  | cons e ds ih =>
    obtain ⟨st, n⟩ := e
    simp only [matchDims] at h
    split at h
    · next hlt =>
      obtain ⟨js, hj, rfl⟩ := Option.map_eq_some_iff.1 h
      refine ⟨by simp [(ih hj).1], ?_⟩
      intro p hp
      rcases List.mem_cons.1 (by simpa using hp) with rfl | hp
      · exact hlt
      · exact (ih hj).2 p hp
    · cases h

theorem matchDims_aligned {ds : List (Nat × Nat)} {off : Nat} {is : List Nat} (hd : ∀ e ∈ ds, e.1 % 4 = 0)
    (h : matchDims ds off = some is) : off % 4 = 0 := by
  induction ds generalizing off is with
  | nil =>
    simp only [matchDims] at h
    split at h
    · next h0 => rw [h0]
    · cases h
  | cons e ds ih =>
    obtain ⟨st, n⟩ := e
    simp only [matchDims] at h
    split at h
    · obtain ⟨js, hj, -⟩ := Option.map_eq_some_iff.1 h
      have hr := ih (fun e he => hd e (by simp [he])) hj
      have hs : st % 4 = 0 := hd (st, n) (by simp)
      rw [← Nat.div_add_mod off st, Nat.add_mod, Nat.mul_mod, hs, hr]; simp
    · cases h

/-- Every base and stride of a register table is a multiple of four bytes. -/
def wordTable (t : List RegDesc) : Bool := t.all fun e => decide (e.base % 4 = 0) && e.dims.all fun q => decide (q.1 % 4 = 0)

theorem wordTable_table : wordTable table = true := by decide +kernel

theorem find_spec {t : List RegDesc} {a : Nat} {e : RegDesc} {is : List Nat} (h : find t a = some (e, is)) :
    e ∈ t ∧ e.base ≤ a ∧ matchDims e.dims (a - e.base) = some is := by
  obtain ⟨q, hq, hf⟩ := List.exists_of_findSome?_eq_some h
  split at hf
  · next hb =>
    obtain ⟨js, hj, he⟩ := Option.map_eq_some_iff.1 hf
    cases he
    exact ⟨hq, hb, hj⟩
  · cases hf

/-- A register stands at a word address. -/
theorem find_aligned {a : Nat} {e : RegDesc} {is : List Nat} (h : find table a = some (e, is)) : a % 4 = 0 := by
  obtain ⟨he, hb, hm⟩ := find_spec h
  have hw := List.all_eq_true.1 wordTable_table e he
  simp only [Bool.and_eq_true, decide_eq_true_eq, List.all_eq_true] at hw
  have := matchDims_aligned hw.2 hm
  omega

theorem windowOf_lt {a : Nat} {w : Window} (h : windowOf a = some w) : a < 0x1E00000 := by
  simp only [windowOf] at h
  repeat' split at h
  all_goals first | omega | cases h

/-! One access. -/

/-- An access that reaches a register: what its target and its address are. -/
theorem State.reaches_spec {s : State} {m : Master} {a : Nat} {e : RegDesc} {is : List Nat} (h : s.reaches m a = some (e, is)) :
    (s.open m = true ∧ s.dev.behindBroadcast ⟨m, BitVec.ofNat 26 a, none, none⟩ = false) ∧ s.dev.target m a = .reg e is ∧ find table a = some (e, is) ∧ a % 4 = 0 ∧ a < 0x1E00000 := by
  simp only [State.reaches] at h
  split at h
  · next ho =>
    split at h
    · next e' is' ht =>
      cases h
      have hf : find table a = some (e, is) ∧ ∃ w, windowOf a = some w := by
        simp only [Dev.target] at ht
        split at ht
        · next w q js hw hfind =>
          repeat' split at ht
          all_goals cases ht
          all_goals exact ⟨hfind, w, hw⟩
        · cases ht
      obtain ⟨w, hw⟩ := hf.2
      exact ⟨by simpa using ho, ht, hf.1, find_aligned hf.1, windowOf_lt hw⟩
    · cases h
  · cases h

/-- Nothing wakes a device that is awake. -/
theorem Dev.wake_of_awake {d : Dev} (h : d.asleep = false) (src : Nat) (management edge : Bool) : d.wake src management edge = d := by
  simp only [Dev.asleep, Bool.or_eq_false_iff, decide_eq_false_iff_not] at h
  simp [Dev.wake, h.2, Dev.wakeNow, h.1]

theorem State.access_of_reaches {s : State} {m : Master} {a : Nat} {e : RegDesc} {is : List Nat} (h : s.reaches m a = some (e, is))
    (v : Option Word) (x : Aux) : s.access ⟨m, BitVec.ofNat 26 a, v, none⟩ x = s.serve m a v e is x := by
  obtain ⟨⟨ho, hq⟩, ht, -, ha, hlt⟩ := State.reaches_spec h
  have hq' : s.dev.behindBroadcast ⟨m, BitVec.ofNat 26 a, v, none⟩ = false := hq
  have hn : (BitVec.ofNat 26 a).toNat = a := by simp; omega
  simp only [State.open, Bool.and_eq_true, Bool.not_eq_true', Bool.or_eq_true, bne_iff_ne, ne_eq, decide_eq_true_eq] at ho
  obtain ⟨⟨⟨hb, hf⟩, hs⟩, hid⟩ := ho
  have hid' : ¬16 ≤ s.dev.outstanding m := by omega
  have hap : apertureOf a = none := by simp only [apertureOf]; rw [if_neg (by omega), if_neg (by omega)]
  have hbar : ¬(m = Master.pcie ∧ s.dev.barOpen = false) := by
    rintro ⟨rfl, hc⟩; simp [hc] at hb
  have hw : (if m = Master.pcie then s.on fun d => d.wake 1 true false else s) = s := by
    split
    · have hsw : s.on (fun d => d.wake 1 true false) = s := by
        show { s with dev := s.dev.wake 1 true false } = s
        rw [Dev.wake_of_awake hs]
      exact hsw
    · rfl
  simp [State.access, State.atMatrix, hn, hbar, ha, hf, hw, hs, hap, hid', hq', State.single, ht]

/-- An accepted write is performed, a rejected one is recorded and does nothing else. -/
theorem State.write0_of_reaches {s : State} {m : Master} {a : Nat} {e : RegDesc} {is : List Nat}
    (h : s.reaches m a = some (e, is)) (w : Word) (x : Aux) :
    s.write0 m a w x = if s.dev.writeBad m e is a w x then s.on (fun d => d.reject a a w) else s.written e is a w x := by
  rw [State.write0, State.access_of_reaches h]; rfl

/-- A read answers the register's word and does what reading it does. -/
theorem State.read0_of_reaches {s : State} {m : Master} {a : Nat} {e : RegDesc} {is : List Nat}
    (h : s.reaches m a = some (e, is)) :
    s.read0 m a = (s.readReg m e is a).2.on fun d => d.emit (.reply m (s.readReg m e is a).1) := by
  rw [State.read0, State.access_of_reaches h]; rfl

theorem Option.any_true_witness {α : Type} {o : Option α} {p : α → Bool} (h : o.any p = true) : ∃ q, o = some q ∧ p q = true := by
  cases o with
  | none => simp at h
  | some q => exact ⟨q, rfl, h⟩

/-- An accepted write, with the register it reaches. -/
theorem State.write0_accepted {s : State} {m : Master} {a : Nat} {w : Word} {x : Aux} (h : Accepted s m a w x) :
    ∃ e is, s.reaches m a = some (e, is) ∧ s.dev.writeBad m e is a w x = false ∧ s.write0 m a w x = s.written e is a w x := by
  obtain ⟨⟨e, is⟩, hq, hb⟩ := Option.any_true_witness h
  simp only [Bool.not_eq_true'] at hb
  exact ⟨e, is, hq, hb, by rw [State.write0_of_reaches hq, hb]; rfl⟩

/-- A rejected write. -/
theorem State.write0_rejected {s : State} {m : Master} {a : Nat} {w : Word} {x : Aux} (h : Rejected s m a w x) :
    s.write0 m a w x = s.on fun d => d.reject a a w := by
  obtain ⟨⟨e, is⟩, hq, hb⟩ := Option.any_true_witness h
  rw [State.write0_of_reaches hq, hb]; rfl

end Sys2Proof.Machine
end

