-- ==== Sys2Proof/Laws/Bits.lean ====
section
/-!
SUPPORT. Bit fields: the bits of a field that was set, and what other fields of the word read.
-/
namespace Sys2Proof.Machine

theorem Fld.testBit_get (f : Fld) (w : Word) (i : Nat) :
    (f.get w).testBit i = (decide (i < f.width) && w.getLsbD (f.lsb + i)) := by
  simp [Fld.get, Nat.testBit_mod_two_pow, Nat.testBit_shiftRight, BitVec.getLsbD]

/-- A bit of a word after a field was set: of the value within the field, else as before. -/
theorem Fld.getLsbD_set (f : Fld) (v : Nat) (w : Word) (i : Nat) :
    (f.set v w).getLsbD i =
      if i < 32 ∧ f.lsb ≤ i ∧ i < f.lsb + f.width then v.testBit (i - f.lsb) else w.getLsbD i := by
  simp only [Fld.set, BitVec.getLsbD_or, BitVec.getLsbD_and, BitVec.getLsbD_not, BitVec.getLsbD_ofNat, Nat.testBit_shiftLeft,
    Nat.testBit_mod_two_pow, Nat.testBit_two_pow_sub_one]
  by_cases h32 : i < 32
  · by_cases hl : f.lsb ≤ i
    · by_cases hw : i < f.lsb + f.width
      · have h2 : i - f.lsb < f.width := by omega
        simp [h32, hl, hw, h2]
      · have h2 : ¬ i - f.lsb < f.width := by omega
        simp [h32, hl, hw, h2]
    · simp [h32, hl]
  · simp [h32, BitVec.getLsbD_of_ge w i (by omega)]

/-- A field reads what was set in it. -/
theorem Fld.get_set_same {f : Fld} (hf : f.lsb + f.width ≤ 32) (v : Nat) (w : Word) : f.get (f.set v w) = v % 2 ^ f.width := by
  apply Nat.eq_of_testBit_eq
  intro i
  rw [Fld.testBit_get, Fld.getLsbD_set, Nat.testBit_mod_two_pow]
  by_cases hi : i < f.width
  · have h1 : f.lsb + i < 32 := by omega
    have h2 : f.lsb + i < f.lsb + f.width := by omega
    simp [hi, h1]
  · simp [hi]

/-- A field that shares no bit with the one set reads as before. -/
theorem Fld.get_set_disjoint {f g : Fld} (h : g.lsb + g.width ≤ f.lsb ∨ f.lsb + f.width ≤ g.lsb) (v : Nat) (w : Word) :
    g.get (f.set v w) = g.get w := by
  apply Nat.eq_of_testBit_eq
  intro i
  rw [Fld.testBit_get, Fld.testBit_get, Fld.getLsbD_set]
  by_cases hi : i < g.width
  · rw [if_neg fun h' => by omega]
  · simp [hi]

theorem Fld.get_lt (f : Fld) (w : Word) : f.get w < 2 ^ f.width := Nat.mod_lt _ (Nat.two_pow_pos _)

/-- One bit set or cleared. -/
theorem Fld.getLsbD_setBit (i j : Nat) (hi : i < 32) (b : Bool) (w : Word) :
    (Fld.set ⟨i, 1⟩ b.toNat w).getLsbD j = if j = i then b else w.getLsbD j := by
  rw [Fld.getLsbD_set]
  by_cases h : j = i
  · subst h; cases b <;> simp [hi]
  · rw [if_neg (by simp only; omega), if_neg h]

end Sys2Proof.Machine
end

