-- ==== Sys2Proof/Laws/Coding.lean ====
section
/-!
SUPPORT. Byte strings: a number written out reads back, and a GCC2 message comes back from its escaped form with its CRC-32.
-/
namespace Sys2Proof.Machine

theorem ofBytes_append (a b : List Byte) : ofBytes (a ++ b) = ofBytes a * 256 ^ b.length + ofBytes b := by
  unfold ofBytes
  rw [List.foldl_append]
  generalize List.foldl (fun (a : Nat) (b : Byte) => 256 * a + b.toNat) 0 a = x
  induction b generalizing x with
  | nil => simp
  | cons y l ih =>
    simp only [List.foldl_cons, List.length_cons]
    rw [ih (256 * x + y.toNat), ih (256 * 0 + y.toNat), Nat.pow_succ, Nat.add_mul, Nat.mul_zero, Nat.zero_add,
      Nat.mul_comm 256 x, Nat.mul_assoc, Nat.mul_comm 256]
    omega

@[simp] theorem length_bytesOf (n v : Nat) : (bytesOf n v).length = n := by simp [bytesOf]

theorem bytesOf_succ (n v : Nat) : bytesOf (n + 1) v = bytesOf n (v / 256) ++ [BitVec.ofNat 8 v] := by
  simp only [bytesOf, List.range_succ, List.map_append, List.map_cons, List.map_nil]
  congr 1
  · apply List.map_congr_left
    intro i hi
    have hi : i < n := List.mem_range.1 hi
    rw [show 8 * (n + 1 - 1 - i) = 8 + 8 * (n - 1 - i) by omega, Nat.shiftRight_add, Nat.shiftRight_eq_div_pow v 8]
  · simp

/-- A number written in enough bytes reads back. -/
theorem ofBytes_bytesOf (n : Nat) : ∀ v, v < 256 ^ n → ofBytes (bytesOf n v) = v := by
  induction n with
  | zero => intro v h; simp at h; subst h; rfl
  | succ n ih =>
    intro v h
    rw [bytesOf_succ, ofBytes_append, ih _ (by rw [Nat.pow_succ] at h; omega)]
    simp [ofBytes]; omega

/-- Bytes that were escaped come back. -/
theorem unescape_escape (bs : List Byte) : unescape (escape bs) = bs := by
  induction bs with
  | nil => rfl
  | cons b r ih =>
    have hx : (b ^^^ 0x20#8) ^^^ 0x20#8 = b := by rw [BitVec.xor_assoc]; simp
    by_cases h : b = 0x7E ∨ b = 0x7D
    · simp only [escape, List.flatMap_cons, if_pos h, List.cons_append, List.nil_append, unescape, if_true]
      rw [show (List.flatMap _ r) = escape r from rfl, ih]
      exact congrArg (· :: r) hx
    · have hb : b ≠ 0x7D := fun e => h (.inr e)
      simp only [escape, List.flatMap_cons, if_neg h, List.cons_append, List.nil_append]
      rw [show (List.flatMap _ r) = escape r from rfl]
      cases he : escape r with
      | nil => rw [he] at ih; simp [unescape] at ih ⊢; exact ih
      | cons e t => rw [he] at ih; simp [unescape, show b ≠ 125#8 from hb, ih]

end Sys2Proof.Machine

/-- The content of a message that came as it was sent (R452). -/
theorem Sys2Proof.KaMsg.content_sent (c : List Sys2Proof.Byte) (p : Sys2Proof.Signed) (z : List Sys2Proof.Byte) :
    KaMsg.content ⟨Machine.escape (c ++ Machine.bytesOf 4 (Machine.crc32 c).toNat), p, z⟩ = some c := by
  have hl : (c ++ Machine.bytesOf 4 (Machine.crc32 c).toNat).length - 4 = c.length := by simp
  have hv := Machine.ofBytes_bytesOf 4 (Machine.crc32 c).toNat (by have := (Machine.crc32 c).isLt; omega)
  simp [KaMsg.content, Machine.unescape_escape, hv]
end

