-- ==== Sys2Proof/Laws/Maps.lean ====
section
/-!
SUPPORT. Sparse maps and the memories: what a key reads after an update, and that every update keeps the canonical form.
-/
namespace Sys2Proof.Machine

variable {α : Type} [DecidableEq α]

/-! Reads after updates. -/

omit [DecidableEq α] in
theorem SMap.get_erase (m : SMap α) (k j : Nat) (v : α) :
    SMap.get (SMap.erase m k) j v = if j = k then v else SMap.get m j v := by
  induction m with
  | nil => simp [SMap.erase, SMap.get]
  | cons e r ih =>
    obtain ⟨i, w⟩ := e
    by_cases h : i = k
    · subst h
      by_cases hj : j = i
      · subst hj; simpa [SMap.erase] using ih
      · simpa [SMap.erase, SMap.get, Ne.symm hj, hj] using ih
    · by_cases hj : i = j
      · subst hj; simp [SMap.erase, SMap.get, h]
      · simp [SMap.erase, SMap.get, h, hj, ih]

omit [DecidableEq α] in
/-- An inserted entry is found where the map did not list its key. -/
theorem SMap.get_insert (m : SMap α) (k j : Nat) (v w : α) (hk : ∀ e ∈ m, e.1 ≠ k) :
    SMap.get (SMap.insert m k v) j w = if j = k then v else SMap.get m j w := by
  induction m with
  | nil => by_cases h : k = j <;> simp [SMap.insert, SMap.get, h, eq_comm]
  | cons e r ih =>
    obtain ⟨i, x⟩ := e
    have hik : i ≠ k := hk (i, x) (by simp)
    have hr : ∀ e ∈ r, e.1 ≠ k := fun e he => hk e (by simp [he])
    by_cases hlt : k < i
    · by_cases h : j = k
      · subst h; simp [SMap.insert, SMap.get, hlt]
      · simp [SMap.insert, SMap.get, hlt, h, Ne.symm h]
    · by_cases h : i = j
      · subst h; simp [SMap.insert, SMap.get, hlt, hik]
      · simp [SMap.insert, SMap.get, hlt, h, ih hr]

omit [DecidableEq α] in
theorem SMap.erase_keys (m : SMap α) (k : Nat) : ∀ e ∈ SMap.erase m k, e.1 ≠ k ∧ e ∈ m := by
  induction m with
  | nil => simp [SMap.erase]
  | cons e r ih =>
    obtain ⟨i, x⟩ := e
    intro q hq
    by_cases h : i = k
    · simp only [SMap.erase, h, if_true] at hq
      exact ⟨(ih q hq).1, by simp [(ih q hq).2]⟩
    · simp only [SMap.erase, h, if_false, List.mem_cons] at hq
      rcases hq with rfl | hq
      · exact ⟨h, by simp⟩
      · exact ⟨(ih q hq).1, by simp [(ih q hq).2]⟩

@[simp] theorem SMap.get_put (m : SMap α) (k j : Nat) (v : α) (w : α) :
    SMap.get (SMap.put m k v w) j v = if j = k then w else SMap.get m j v := by
  by_cases h : w = v
  · subst h; simp [SMap.put, SMap.get_erase]
  · rw [SMap.put, if_neg h, SMap.get_insert _ _ _ _ _ fun e he => (SMap.erase_keys m k e he).1, SMap.get_erase]
    by_cases hj : j = k <;> simp [hj]

/-! The canonical form. -/

omit [DecidableEq α] in
theorem SMap.erase_of_lt (m : SMap α) (k : Nat) (h : ∀ e ∈ m, k < e.1) : SMap.erase m k = m := by
  induction m with
  | nil => rfl
  | cons e r ih =>
    obtain ⟨i, x⟩ := e
    have hi : k < i := h (i, x) (by simp)
    simp only [SMap.erase, if_neg (Nat.ne_of_gt hi), ih fun e he => h e (by simp [he])]

theorem SMap.wfFrom_le {d : Nat → α} {lo : Nat} {m : SMap α} (h : SMap.wfFrom d lo m = true) : ∀ e ∈ m, lo ≤ e.1 := by
  induction m generalizing lo with
  | nil => simp
  | cons e r ih =>
    obtain ⟨k, v⟩ := e
    simp only [SMap.wfFrom, Bool.and_eq_true, decide_eq_true_eq] at h
    intro q hq
    rcases List.mem_cons.1 hq with rfl | hq
    · exact h.1.1
    · exact Nat.le_trans (Nat.le_trans h.1.1 (Nat.le_succ k)) (ih h.2 q hq)

theorem SMap.wfFrom_mono {d : Nat → α} {lo lo' : Nat} {m : SMap α} (hl : lo' ≤ lo) (h : SMap.wfFrom d lo m = true) :
    SMap.wfFrom d lo' m = true := by
  cases m with
  | nil => rfl
  | cons e r =>
    simp only [SMap.wfFrom, Bool.and_eq_true, decide_eq_true_eq] at h ⊢
    exact ⟨⟨Nat.le_trans hl h.1.1, h.1.2⟩, h.2⟩

theorem SMap.wfFrom_erase {d : Nat → α} {lo : Nat} {m : SMap α} (k : Nat) (h : SMap.wfFrom d lo m = true) :
    SMap.wfFrom d lo (SMap.erase m k) = true := by
  induction m generalizing lo with
  | nil => rfl
  | cons e r ih =>
    obtain ⟨i, v⟩ := e
    simp only [SMap.wfFrom, Bool.and_eq_true, decide_eq_true_eq] at h
    by_cases hi : i = k
    · simp only [SMap.erase, hi, if_true]
      exact SMap.wfFrom_mono (Nat.le_trans h.1.1 (Nat.le_succ i)) (by simpa [hi] using ih h.2)
    · simp only [SMap.erase, hi, if_false, SMap.wfFrom, Bool.and_eq_true, decide_eq_true_eq]
      exact ⟨h.1, ih h.2⟩

theorem SMap.wfFrom_insert {d : Nat → α} {lo : Nat} {m : SMap α} {k : Nat} {v : α} (hk : lo ≤ k) (hv : v ≠ d k)
    (hm : ∀ e ∈ m, e.1 ≠ k) (h : SMap.wfFrom d lo m = true) : SMap.wfFrom d lo (SMap.insert m k v) = true := by
  induction m generalizing lo with
  | nil => simp [SMap.insert, SMap.wfFrom, hk, hv]
  | cons e r ih =>
    obtain ⟨i, w⟩ := e
    have hik : i ≠ k := hm (i, w) (by simp)
    simp only [SMap.wfFrom, Bool.and_eq_true, decide_eq_true_eq] at h
    by_cases hlt : k < i
    · simp only [SMap.insert, hlt, if_true, SMap.wfFrom, Bool.and_eq_true, decide_eq_true_eq]
      exact ⟨⟨hk, hv⟩, ⟨hlt, h.1.2⟩, h.2⟩
    · simp only [SMap.insert, hlt, if_false, SMap.wfFrom, Bool.and_eq_true, decide_eq_true_eq]
      exact ⟨h.1, ih (by omega) (fun e he => hm e (by simp [he])) h.2⟩

/-- An update keeps the canonical form. -/
theorem SMap.wf_put {d : Nat → α} {m : SMap α} (k : Nat) (v : α) (h : SMap.wf d m = true) :
    SMap.wf d (SMap.put m k (d k) v) = true := by
  by_cases hv : v = d k
  · simpa [SMap.put, hv, SMap.wf] using SMap.wfFrom_erase k h
  · simpa [SMap.put, hv, SMap.wf] using
      SMap.wfFrom_insert (Nat.zero_le k) hv (fun e he => (SMap.erase_keys m k e he).1) (SMap.wfFrom_erase k h)

theorem SMap.wf_erase {d : Nat → α} {m : SMap α} (k : Nat) (h : SMap.wf d m = true) : SMap.wf d (SMap.erase m k) = true :=
  SMap.wfFrom_erase k h

/-- What an update lists was listed, or is the new entry. -/
theorem SMap.mem_put {m : SMap α} {k : Nat} {v w : α} : ∀ e ∈ SMap.put m k v w, (e ∈ m ∧ e.1 ≠ k) ∨ (e = (k, w) ∧ w ≠ v) := by
  have ins : ∀ (r : SMap α), ∀ e ∈ SMap.insert r k w, e ∈ r ∨ e = (k, w) := by
    intro r
    induction r with
    | nil => simp [SMap.insert]
    | cons q r ih =>
      obtain ⟨i, x⟩ := q
      intro e he
      by_cases hlt : k < i
      · simp only [SMap.insert, hlt, if_true, List.mem_cons] at he ⊢
        rcases he with he | he
        · exact .inr he
        · exact .inl he
      · simp only [SMap.insert, hlt, if_false, List.mem_cons] at he ⊢
        rcases he with he | he
        · exact .inl (.inl he)
        · rcases ih e he with h | h <;> simp [h]
  intro e he
  by_cases hv : w = v
  · simp only [SMap.put, hv, if_true] at he
    exact .inl ⟨(SMap.erase_keys m k e he).2, (SMap.erase_keys m k e he).1⟩
  · simp only [SMap.put, hv, if_false] at he
    rcases ins _ e he with h | h
    · exact .inl ⟨(SMap.erase_keys m k e h).2, (SMap.erase_keys m k e h).1⟩
    · exact .inr ⟨h, hv⟩

/-! The Stylus memories. -/

theorem Mem.read_eq_get (m : List Host.Cell) (k : Nat) : Mem.read m k = SMap.get (m.map fun e => (e.1, some e.2)) k none := by
  induction m with
  | nil => rfl
  | cons e r ih => obtain ⟨i, b⟩ := e; simp [Mem.read, SMap.get, ih]

theorem Mem.read_erase (m : List Host.Cell) (k j : Nat) :
    Mem.read (SMap.erase m k) j = if j = k then none else Mem.read m j := by
  induction m with
  | nil => simp [SMap.erase, Mem.read]
  | cons e r ih =>
    obtain ⟨i, w⟩ := e
    by_cases h : i = k
    · subst h
      by_cases hj : j = i
      · subst hj; simpa [SMap.erase] using ih
      · simpa [SMap.erase, Mem.read, Ne.symm hj, hj] using ih
    · by_cases hj : i = j
      · subst hj; simp [SMap.erase, Mem.read, h]
      · simp [SMap.erase, Mem.read, h, hj, ih]

/-- A byte reads as written, every other byte as before. -/
@[simp] theorem Mem.read_write (m : List Host.Cell) (k j : Nat) (b : Byte) :
    Mem.read (Mem.write m k b) j = if j = k then some b else Mem.read m j := by
  have ins : ∀ r : List Host.Cell, (∀ e ∈ r, e.1 ≠ k) → Mem.read (SMap.insert r k b) j = if j = k then some b else Mem.read r j := by
    intro r hr
    induction r with
    | nil => by_cases h : k = j <;> simp [SMap.insert, Mem.read, h, eq_comm]
    | cons e r ih =>
      obtain ⟨i, x⟩ := e
      have hik : i ≠ k := hr (i, x) (by simp)
      by_cases hlt : k < i
      · by_cases h : j = k
        · subst h; simp [SMap.insert, Mem.read, hlt]
        · simp [SMap.insert, Mem.read, hlt, h, Ne.symm h]
      · by_cases h : i = j
        · subst h; simp [SMap.insert, Mem.read, hlt, hik]
        · simp [SMap.insert, Mem.read, hlt, h, ih fun e he => hr e (by simp [he])]
  rw [Mem.write, ins _ fun e he => (SMap.erase_keys m k e he).1, Mem.read_erase]
  by_cases hj : j = k <;> simp [hj]

theorem Mem.wfFrom_le {lo : Nat} {m : List Host.Cell} (h : Mem.wfFrom lo m = true) : ∀ e ∈ m, lo ≤ e.1 := by
  induction m generalizing lo with
  | nil => simp
  | cons e r ih =>
    obtain ⟨k, v⟩ := e
    simp only [Mem.wfFrom, Bool.and_eq_true, decide_eq_true_eq] at h
    intro q hq
    rcases List.mem_cons.1 hq with rfl | hq
    · exact h.1
    · exact Nat.le_trans (Nat.le_trans h.1 (Nat.le_succ k)) (ih h.2 q hq)

theorem Mem.wfFrom_mono {lo lo' : Nat} {m : List Host.Cell} (hl : lo' ≤ lo) (h : Mem.wfFrom lo m = true) :
    Mem.wfFrom lo' m = true := by
  cases m with
  | nil => rfl
  | cons e r =>
    simp only [Mem.wfFrom, Bool.and_eq_true, decide_eq_true_eq] at h ⊢
    exact ⟨Nat.le_trans hl h.1, h.2⟩

theorem Mem.wfFrom_erase {lo : Nat} {m : List Host.Cell} (k : Nat) (h : Mem.wfFrom lo m = true) :
    Mem.wfFrom lo (SMap.erase m k) = true := by
  induction m generalizing lo with
  | nil => rfl
  | cons e r ih =>
    obtain ⟨i, v⟩ := e
    simp only [Mem.wfFrom, Bool.and_eq_true, decide_eq_true_eq] at h
    by_cases hi : i = k
    · simp only [SMap.erase, hi, if_true]
      exact Mem.wfFrom_mono (Nat.le_trans h.1 (Nat.le_succ i)) (by simpa [hi] using ih h.2)
    · simp only [SMap.erase, hi, if_false, Mem.wfFrom, Bool.and_eq_true, decide_eq_true_eq]
      exact ⟨h.1, ih h.2⟩

theorem Mem.wfFrom_insert {lo : Nat} {m : List Host.Cell} {k : Nat} {b : Byte} (hk : lo ≤ k)
    (hm : ∀ e ∈ m, e.1 ≠ k) (h : Mem.wfFrom lo m = true) : Mem.wfFrom lo (SMap.insert m k b) = true := by
  induction m generalizing lo with
  | nil => simp [SMap.insert, Mem.wfFrom, hk]
  | cons e r ih =>
    obtain ⟨i, w⟩ := e
    have hik : i ≠ k := hm (i, w) (by simp)
    simp only [Mem.wfFrom, Bool.and_eq_true, decide_eq_true_eq] at h
    by_cases hlt : k < i
    · simp only [SMap.insert, hlt, if_true, Mem.wfFrom, Bool.and_eq_true, decide_eq_true_eq]
      exact ⟨hk, hlt, h.2⟩
    · simp only [SMap.insert, hlt, if_false, Mem.wfFrom, Bool.and_eq_true, decide_eq_true_eq]
      exact ⟨h.1, ih (by omega) (fun e he => hm e (by simp [he])) h.2⟩

/-- A write keeps the canonical form. -/
theorem Mem.wf_write {m : List Host.Cell} (k : Nat) (b : Byte) (h : Mem.wf m = true) : Mem.wf (Mem.write m k b) = true :=
  Mem.wfFrom_insert (Nat.zero_le k) (fun e he => (SMap.erase_keys m k e he).1) (Mem.wfFrom_erase k h)

theorem Mem.wf_zeroWord {m : List Host.Cell} (k : Nat) (h : Mem.wf m = true) : Mem.wf (Mem.zeroWord m k) = true := by
  simp only [Mem.zeroWord, List.range, List.range.loop, List.foldl]
  exact Mem.wf_write _ _ (Mem.wf_write _ _ (Mem.wf_write _ _ (Mem.wf_write _ _ h)))

theorem Mem.read_zeroWord (m : List Host.Cell) (k j : Nat) :
    Mem.read (Mem.zeroWord m k) j = if k ≤ j ∧ j < k + 4 then some 0 else Mem.read m j := by
  simp only [Mem.zeroWord, List.range, List.range.loop, List.foldl, Mem.read_write]
  by_cases h : k ≤ j ∧ j < k + 4
  · have : j = k + 3 ∨ j = k + 2 ∨ j = k + 1 ∨ j = k + 0 := by omega
    rcases this with h | h | h | h <;> simp [h]
  · have h0 : j ≠ k + 0 := by omega
    have h1 : j ≠ k + 1 := by omega
    have h2 : j ≠ k + 2 := by omega
    have h3 : j ≠ k + 3 := by omega
    simp only [h, h0, h1, h2, h3, if_false]

/-- The memory is in canonical form at reset. -/
theorem Mem.wf_reset : Mem.wf State.reset.dev.mem = true := rfl

end Sys2Proof.Machine
end

