-- ==== Sys2Proof/Laws/State.lean ====
section
/-!
SUPPORT. What each named update of the state leaves as it was, one conjunct for each field, true by `rfl`; simp takes the conjuncts
one by one. The field an update changes is left to the file that says what it becomes.
-/
namespace Sys2Proof.Machine

/-! The parts of State. -/

@[simp] theorem State.on_parts (s : State) (f : Dev → Dev) :
    (s.on f).dev = f s.dev ∧ (s.on f).conn = s.conn ∧ (s.on f).pools = s.pools ∧ (s.on f).pending = s.pending :=
  ⟨rfl, rfl, rfl, rfl⟩

@[simp] theorem State.onPool_parts (s : State) (m : Nat) (f : Pool → Pool) :
    (s.onPool m f).dev = s.dev ∧ (s.onPool m f).conn = s.conn ∧ (s.onPool m f).pending = s.pending :=
  ⟨rfl, rfl, rfl⟩

theorem State.nextOn_eq (s : State) (f : Dev → Dev) : s.nextOn f = .next (s.on f) := rfl

/-! The fields of Dev. -/

@[simp] theorem Dev.setReg_frame (d : Dev) (a : Nat) (w : Word) :
    (d.setReg a w).time = d.time ∧ (d.setReg a w).free = d.free ∧ (d.setReg a w).capTick = d.capTick ∧
    (d.setReg a w).bmfAt = d.bmfAt ∧ (d.setReg a w).act = d.act ∧ (d.setReg a w).actRx = d.actRx ∧ (d.setReg a w).ic = d.ic ∧
    (d.setReg a w).lines = d.lines ∧ (d.setReg a w).modBusy = d.modBusy ∧ (d.setReg a w).clus = d.clus ∧
    (d.setReg a w).dies = d.dies ∧ (d.setReg a w).lanes = d.lanes ∧ (d.setReg a w).ports = d.ports ∧
    (d.setReg a w).carriers = d.carriers ∧ (d.setReg a w).txm = d.txm ∧ (d.setReg a w).rxm = d.rxm ∧
    (d.setReg a w).otuMfas = d.otuMfas ∧ (d.setReg a w).otuOmfi = d.otuOmfi ∧ (d.setReg a w).flows = d.flows ∧
    (d.setReg a w).spotFree = d.spotFree ∧ (d.setReg a w).oh = d.oh ∧ (d.setReg a w).banks = d.banks ∧
    (d.setReg a w).dpBuf = d.dpBuf ∧ (d.setReg a w).ofsLast = d.ofsLast ∧ (d.setReg a w).ofsSeq = d.ofsSeq ∧
    (d.setReg a w).bridgeRetry = d.bridgeRetry ∧ (d.setReg a w).binFence = d.binFence ∧ (d.setReg a w).sw = d.sw ∧
    (d.setReg a w).chg = d.chg ∧ (d.setReg a w).regions = d.regions ∧ (d.setReg a w).tm = d.tm ∧
    (d.setReg a w).links = d.links ∧ (d.setReg a w).bs = d.bs ∧ (d.setReg a w).tenants = d.tenants ∧
    (d.setReg a w).rings = d.rings ∧ (d.setReg a w).engines = d.engines ∧ (d.setReg a w).numVfs = d.numVfs ∧
    (d.setReg a w).capLeft = d.capLeft ∧ (d.setReg a w).capCount = d.capCount ∧ (d.setReg a w).telem = d.telem ∧
    (d.setReg a w).mx = d.mx ∧ (d.setReg a w).cores = d.cores ∧ (d.setReg a w).uart = d.uart ∧ (d.setReg a w).tc = d.tc ∧
    (d.setReg a w).pcs = d.pcs ∧ (d.setReg a w).pcGlbFrz = d.pcGlbFrz ∧ (d.setReg a w).pcGlbClr = d.pcGlbClr ∧
    (d.setReg a w).timeLatch = d.timeLatch ∧ (d.setReg a w).pw = d.pw ∧ (d.setReg a w).fc = d.fc ∧ (d.setReg a w).bn = d.bn ∧
    (d.setReg a w).boot = d.boot ∧ (d.setReg a w).alive = d.alive ∧ (d.setReg a w).safe = d.safe ∧
    (d.setReg a w).resetLow = d.resetLow ∧ (d.setReg a w).readyDue = d.readyDue ∧ (d.setReg a w).proof = d.proof ∧
    (d.setReg a w).core3Bad = d.core3Bad ∧ (d.setReg a w).pwrReq = d.pwrReq ∧ (d.setReg a w).bcUp = d.bcUp ∧
    (d.setReg a w).bcRegs = d.bcRegs ∧ (d.setReg a w).mem = d.mem ∧ (d.setReg a w).out = d.out := by
  and_intros <;> rfl

@[simp] theorem Dev.setFld_frame (d : Dev) (a : Nat) (f : Fld) (v : Nat) :
    (d.setFld a f v).time = d.time ∧ (d.setFld a f v).free = d.free ∧ (d.setFld a f v).capTick = d.capTick ∧
    (d.setFld a f v).bmfAt = d.bmfAt ∧ (d.setFld a f v).act = d.act ∧ (d.setFld a f v).actRx = d.actRx ∧
    (d.setFld a f v).ic = d.ic ∧ (d.setFld a f v).lines = d.lines ∧ (d.setFld a f v).modBusy = d.modBusy ∧
    (d.setFld a f v).clus = d.clus ∧ (d.setFld a f v).dies = d.dies ∧ (d.setFld a f v).lanes = d.lanes ∧
    (d.setFld a f v).ports = d.ports ∧ (d.setFld a f v).carriers = d.carriers ∧ (d.setFld a f v).txm = d.txm ∧
    (d.setFld a f v).rxm = d.rxm ∧ (d.setFld a f v).otuMfas = d.otuMfas ∧ (d.setFld a f v).otuOmfi = d.otuOmfi ∧
    (d.setFld a f v).flows = d.flows ∧ (d.setFld a f v).spotFree = d.spotFree ∧ (d.setFld a f v).oh = d.oh ∧
    (d.setFld a f v).banks = d.banks ∧ (d.setFld a f v).dpBuf = d.dpBuf ∧ (d.setFld a f v).ofsLast = d.ofsLast ∧
    (d.setFld a f v).ofsSeq = d.ofsSeq ∧ (d.setFld a f v).bridgeRetry = d.bridgeRetry ∧
    (d.setFld a f v).binFence = d.binFence ∧ (d.setFld a f v).sw = d.sw ∧ (d.setFld a f v).chg = d.chg ∧
    (d.setFld a f v).regions = d.regions ∧ (d.setFld a f v).tm = d.tm ∧ (d.setFld a f v).links = d.links ∧
    (d.setFld a f v).bs = d.bs ∧ (d.setFld a f v).tenants = d.tenants ∧ (d.setFld a f v).rings = d.rings ∧
    (d.setFld a f v).engines = d.engines ∧ (d.setFld a f v).numVfs = d.numVfs ∧ (d.setFld a f v).capLeft = d.capLeft ∧
    (d.setFld a f v).capCount = d.capCount ∧ (d.setFld a f v).telem = d.telem ∧ (d.setFld a f v).mx = d.mx ∧
    (d.setFld a f v).cores = d.cores ∧ (d.setFld a f v).uart = d.uart ∧ (d.setFld a f v).tc = d.tc ∧
    (d.setFld a f v).pcs = d.pcs ∧ (d.setFld a f v).pcGlbFrz = d.pcGlbFrz ∧ (d.setFld a f v).pcGlbClr = d.pcGlbClr ∧
    (d.setFld a f v).timeLatch = d.timeLatch ∧ (d.setFld a f v).pw = d.pw ∧ (d.setFld a f v).fc = d.fc ∧
    (d.setFld a f v).bn = d.bn ∧ (d.setFld a f v).boot = d.boot ∧ (d.setFld a f v).alive = d.alive ∧
    (d.setFld a f v).safe = d.safe ∧ (d.setFld a f v).resetLow = d.resetLow ∧ (d.setFld a f v).readyDue = d.readyDue ∧
    (d.setFld a f v).proof = d.proof ∧ (d.setFld a f v).core3Bad = d.core3Bad ∧ (d.setFld a f v).pwrReq = d.pwrReq ∧
    (d.setFld a f v).bcUp = d.bcUp ∧ (d.setFld a f v).bcRegs = d.bcRegs ∧ (d.setFld a f v).mem = d.mem ∧
    (d.setFld a f v).out = d.out := by
  and_intros <;> rfl

@[simp] theorem Dev.setBit_frame (d : Dev) (a i : Nat) (b : Bool) :
    (d.setBit a i b).time = d.time ∧ (d.setBit a i b).free = d.free ∧ (d.setBit a i b).capTick = d.capTick ∧
    (d.setBit a i b).bmfAt = d.bmfAt ∧ (d.setBit a i b).act = d.act ∧ (d.setBit a i b).actRx = d.actRx ∧
    (d.setBit a i b).ic = d.ic ∧ (d.setBit a i b).lines = d.lines ∧ (d.setBit a i b).modBusy = d.modBusy ∧
    (d.setBit a i b).clus = d.clus ∧ (d.setBit a i b).dies = d.dies ∧ (d.setBit a i b).lanes = d.lanes ∧
    (d.setBit a i b).ports = d.ports ∧ (d.setBit a i b).carriers = d.carriers ∧ (d.setBit a i b).txm = d.txm ∧
    (d.setBit a i b).rxm = d.rxm ∧ (d.setBit a i b).otuMfas = d.otuMfas ∧ (d.setBit a i b).otuOmfi = d.otuOmfi ∧
    (d.setBit a i b).flows = d.flows ∧ (d.setBit a i b).spotFree = d.spotFree ∧ (d.setBit a i b).oh = d.oh ∧
    (d.setBit a i b).banks = d.banks ∧ (d.setBit a i b).dpBuf = d.dpBuf ∧ (d.setBit a i b).ofsLast = d.ofsLast ∧
    (d.setBit a i b).ofsSeq = d.ofsSeq ∧ (d.setBit a i b).bridgeRetry = d.bridgeRetry ∧
    (d.setBit a i b).binFence = d.binFence ∧ (d.setBit a i b).sw = d.sw ∧ (d.setBit a i b).chg = d.chg ∧
    (d.setBit a i b).regions = d.regions ∧ (d.setBit a i b).tm = d.tm ∧ (d.setBit a i b).links = d.links ∧
    (d.setBit a i b).bs = d.bs ∧ (d.setBit a i b).tenants = d.tenants ∧ (d.setBit a i b).rings = d.rings ∧
    (d.setBit a i b).engines = d.engines ∧ (d.setBit a i b).numVfs = d.numVfs ∧ (d.setBit a i b).capLeft = d.capLeft ∧
    (d.setBit a i b).capCount = d.capCount ∧ (d.setBit a i b).telem = d.telem ∧ (d.setBit a i b).mx = d.mx ∧
    (d.setBit a i b).cores = d.cores ∧ (d.setBit a i b).uart = d.uart ∧ (d.setBit a i b).tc = d.tc ∧
    (d.setBit a i b).pcs = d.pcs ∧ (d.setBit a i b).pcGlbFrz = d.pcGlbFrz ∧ (d.setBit a i b).pcGlbClr = d.pcGlbClr ∧
    (d.setBit a i b).timeLatch = d.timeLatch ∧ (d.setBit a i b).pw = d.pw ∧ (d.setBit a i b).fc = d.fc ∧
    (d.setBit a i b).bn = d.bn ∧ (d.setBit a i b).boot = d.boot ∧ (d.setBit a i b).alive = d.alive ∧
    (d.setBit a i b).safe = d.safe ∧ (d.setBit a i b).resetLow = d.resetLow ∧ (d.setBit a i b).readyDue = d.readyDue ∧
    (d.setBit a i b).proof = d.proof ∧ (d.setBit a i b).core3Bad = d.core3Bad ∧ (d.setBit a i b).pwrReq = d.pwrReq ∧
    (d.setBit a i b).bcUp = d.bcUp ∧ (d.setBit a i b).bcRegs = d.bcRegs ∧ (d.setBit a i b).mem = d.mem ∧
    (d.setBit a i b).out = d.out := by
  and_intros <;> rfl

@[simp] theorem Dev.satFld_frame (d : Dev) (a : Nat) (f : Fld) :
    (d.satFld a f).time = d.time ∧ (d.satFld a f).free = d.free ∧ (d.satFld a f).capTick = d.capTick ∧
    (d.satFld a f).bmfAt = d.bmfAt ∧ (d.satFld a f).act = d.act ∧ (d.satFld a f).actRx = d.actRx ∧ (d.satFld a f).ic = d.ic ∧
    (d.satFld a f).lines = d.lines ∧ (d.satFld a f).modBusy = d.modBusy ∧ (d.satFld a f).clus = d.clus ∧
    (d.satFld a f).dies = d.dies ∧ (d.satFld a f).lanes = d.lanes ∧ (d.satFld a f).ports = d.ports ∧
    (d.satFld a f).carriers = d.carriers ∧ (d.satFld a f).txm = d.txm ∧ (d.satFld a f).rxm = d.rxm ∧
    (d.satFld a f).otuMfas = d.otuMfas ∧ (d.satFld a f).otuOmfi = d.otuOmfi ∧ (d.satFld a f).flows = d.flows ∧
    (d.satFld a f).spotFree = d.spotFree ∧ (d.satFld a f).oh = d.oh ∧ (d.satFld a f).banks = d.banks ∧
    (d.satFld a f).dpBuf = d.dpBuf ∧ (d.satFld a f).ofsLast = d.ofsLast ∧ (d.satFld a f).ofsSeq = d.ofsSeq ∧
    (d.satFld a f).bridgeRetry = d.bridgeRetry ∧ (d.satFld a f).binFence = d.binFence ∧ (d.satFld a f).sw = d.sw ∧
    (d.satFld a f).chg = d.chg ∧ (d.satFld a f).regions = d.regions ∧ (d.satFld a f).tm = d.tm ∧
    (d.satFld a f).links = d.links ∧ (d.satFld a f).bs = d.bs ∧ (d.satFld a f).tenants = d.tenants ∧
    (d.satFld a f).rings = d.rings ∧ (d.satFld a f).engines = d.engines ∧ (d.satFld a f).numVfs = d.numVfs ∧
    (d.satFld a f).capLeft = d.capLeft ∧ (d.satFld a f).capCount = d.capCount ∧ (d.satFld a f).telem = d.telem ∧
    (d.satFld a f).mx = d.mx ∧ (d.satFld a f).cores = d.cores ∧ (d.satFld a f).uart = d.uart ∧ (d.satFld a f).tc = d.tc ∧
    (d.satFld a f).pcs = d.pcs ∧ (d.satFld a f).pcGlbFrz = d.pcGlbFrz ∧ (d.satFld a f).pcGlbClr = d.pcGlbClr ∧
    (d.satFld a f).timeLatch = d.timeLatch ∧ (d.satFld a f).pw = d.pw ∧ (d.satFld a f).fc = d.fc ∧ (d.satFld a f).bn = d.bn ∧
    (d.satFld a f).boot = d.boot ∧ (d.satFld a f).alive = d.alive ∧ (d.satFld a f).safe = d.safe ∧
    (d.satFld a f).resetLow = d.resetLow ∧ (d.satFld a f).readyDue = d.readyDue ∧ (d.satFld a f).proof = d.proof ∧
    (d.satFld a f).core3Bad = d.core3Bad ∧ (d.satFld a f).pwrReq = d.pwrReq ∧ (d.satFld a f).bcUp = d.bcUp ∧
    (d.satFld a f).bcRegs = d.bcRegs ∧ (d.satFld a f).mem = d.mem ∧ (d.satFld a f).out = d.out := by
  and_intros <;> rfl

@[simp] theorem Dev.incFld_frame (d : Dev) (a : Nat) (f : Fld) :
    (d.incFld a f).time = d.time ∧ (d.incFld a f).free = d.free ∧ (d.incFld a f).capTick = d.capTick ∧
    (d.incFld a f).bmfAt = d.bmfAt ∧ (d.incFld a f).act = d.act ∧ (d.incFld a f).actRx = d.actRx ∧ (d.incFld a f).ic = d.ic ∧
    (d.incFld a f).lines = d.lines ∧ (d.incFld a f).modBusy = d.modBusy ∧ (d.incFld a f).clus = d.clus ∧
    (d.incFld a f).dies = d.dies ∧ (d.incFld a f).lanes = d.lanes ∧ (d.incFld a f).ports = d.ports ∧
    (d.incFld a f).carriers = d.carriers ∧ (d.incFld a f).txm = d.txm ∧ (d.incFld a f).rxm = d.rxm ∧
    (d.incFld a f).otuMfas = d.otuMfas ∧ (d.incFld a f).otuOmfi = d.otuOmfi ∧ (d.incFld a f).flows = d.flows ∧
    (d.incFld a f).spotFree = d.spotFree ∧ (d.incFld a f).oh = d.oh ∧ (d.incFld a f).banks = d.banks ∧
    (d.incFld a f).dpBuf = d.dpBuf ∧ (d.incFld a f).ofsLast = d.ofsLast ∧ (d.incFld a f).ofsSeq = d.ofsSeq ∧
    (d.incFld a f).bridgeRetry = d.bridgeRetry ∧ (d.incFld a f).binFence = d.binFence ∧ (d.incFld a f).sw = d.sw ∧
    (d.incFld a f).chg = d.chg ∧ (d.incFld a f).regions = d.regions ∧ (d.incFld a f).tm = d.tm ∧
    (d.incFld a f).links = d.links ∧ (d.incFld a f).bs = d.bs ∧ (d.incFld a f).tenants = d.tenants ∧
    (d.incFld a f).rings = d.rings ∧ (d.incFld a f).engines = d.engines ∧ (d.incFld a f).numVfs = d.numVfs ∧
    (d.incFld a f).capLeft = d.capLeft ∧ (d.incFld a f).capCount = d.capCount ∧ (d.incFld a f).telem = d.telem ∧
    (d.incFld a f).mx = d.mx ∧ (d.incFld a f).cores = d.cores ∧ (d.incFld a f).uart = d.uart ∧ (d.incFld a f).tc = d.tc ∧
    (d.incFld a f).pcs = d.pcs ∧ (d.incFld a f).pcGlbFrz = d.pcGlbFrz ∧ (d.incFld a f).pcGlbClr = d.pcGlbClr ∧
    (d.incFld a f).timeLatch = d.timeLatch ∧ (d.incFld a f).pw = d.pw ∧ (d.incFld a f).fc = d.fc ∧ (d.incFld a f).bn = d.bn ∧
    (d.incFld a f).boot = d.boot ∧ (d.incFld a f).alive = d.alive ∧ (d.incFld a f).safe = d.safe ∧
    (d.incFld a f).resetLow = d.resetLow ∧ (d.incFld a f).readyDue = d.readyDue ∧ (d.incFld a f).proof = d.proof ∧
    (d.incFld a f).core3Bad = d.core3Bad ∧ (d.incFld a f).pwrReq = d.pwrReq ∧ (d.incFld a f).bcUp = d.bcUp ∧
    (d.incFld a f).bcRegs = d.bcRegs ∧ (d.incFld a f).mem = d.mem ∧ (d.incFld a f).out = d.out := by
  and_intros <;> rfl

@[simp] theorem Dev.setAct_frame (d : Dev) (a : Nat) (w : Word) :
    (d.setAct a w).time = d.time ∧ (d.setAct a w).free = d.free ∧ (d.setAct a w).capTick = d.capTick ∧
    (d.setAct a w).bmfAt = d.bmfAt ∧ (d.setAct a w).regs = d.regs ∧ (d.setAct a w).actRx = d.actRx ∧
    (d.setAct a w).ic = d.ic ∧ (d.setAct a w).lines = d.lines ∧ (d.setAct a w).modBusy = d.modBusy ∧
    (d.setAct a w).clus = d.clus ∧ (d.setAct a w).dies = d.dies ∧ (d.setAct a w).lanes = d.lanes ∧
    (d.setAct a w).ports = d.ports ∧ (d.setAct a w).carriers = d.carriers ∧ (d.setAct a w).txm = d.txm ∧
    (d.setAct a w).rxm = d.rxm ∧ (d.setAct a w).otuMfas = d.otuMfas ∧ (d.setAct a w).otuOmfi = d.otuOmfi ∧
    (d.setAct a w).flows = d.flows ∧ (d.setAct a w).spotFree = d.spotFree ∧ (d.setAct a w).oh = d.oh ∧
    (d.setAct a w).banks = d.banks ∧ (d.setAct a w).dpBuf = d.dpBuf ∧ (d.setAct a w).ofsLast = d.ofsLast ∧
    (d.setAct a w).ofsSeq = d.ofsSeq ∧ (d.setAct a w).bridgeRetry = d.bridgeRetry ∧ (d.setAct a w).binFence = d.binFence ∧
    (d.setAct a w).sw = d.sw ∧ (d.setAct a w).chg = d.chg ∧ (d.setAct a w).regions = d.regions ∧ (d.setAct a w).tm = d.tm ∧
    (d.setAct a w).links = d.links ∧ (d.setAct a w).bs = d.bs ∧ (d.setAct a w).tenants = d.tenants ∧
    (d.setAct a w).rings = d.rings ∧ (d.setAct a w).engines = d.engines ∧ (d.setAct a w).numVfs = d.numVfs ∧
    (d.setAct a w).capLeft = d.capLeft ∧ (d.setAct a w).capCount = d.capCount ∧ (d.setAct a w).telem = d.telem ∧
    (d.setAct a w).mx = d.mx ∧ (d.setAct a w).cores = d.cores ∧ (d.setAct a w).uart = d.uart ∧ (d.setAct a w).tc = d.tc ∧
    (d.setAct a w).pcs = d.pcs ∧ (d.setAct a w).pcGlbFrz = d.pcGlbFrz ∧ (d.setAct a w).pcGlbClr = d.pcGlbClr ∧
    (d.setAct a w).timeLatch = d.timeLatch ∧ (d.setAct a w).pw = d.pw ∧ (d.setAct a w).fc = d.fc ∧ (d.setAct a w).bn = d.bn ∧
    (d.setAct a w).boot = d.boot ∧ (d.setAct a w).alive = d.alive ∧ (d.setAct a w).safe = d.safe ∧
    (d.setAct a w).resetLow = d.resetLow ∧ (d.setAct a w).readyDue = d.readyDue ∧ (d.setAct a w).proof = d.proof ∧
    (d.setAct a w).core3Bad = d.core3Bad ∧ (d.setAct a w).pwrReq = d.pwrReq ∧ (d.setAct a w).bcUp = d.bcUp ∧
    (d.setAct a w).bcRegs = d.bcRegs ∧ (d.setAct a w).mem = d.mem ∧ (d.setAct a w).out = d.out := by
  and_intros <;> rfl

@[simp] theorem Dev.setIc_frame (d : Dev) (a : Nat) (w : Word) :
    (d.setIc a w).time = d.time ∧ (d.setIc a w).free = d.free ∧ (d.setIc a w).capTick = d.capTick ∧
    (d.setIc a w).bmfAt = d.bmfAt ∧ (d.setIc a w).regs = d.regs ∧ (d.setIc a w).act = d.act ∧ (d.setIc a w).actRx = d.actRx ∧
    (d.setIc a w).lines = d.lines ∧ (d.setIc a w).modBusy = d.modBusy ∧ (d.setIc a w).clus = d.clus ∧
    (d.setIc a w).dies = d.dies ∧ (d.setIc a w).lanes = d.lanes ∧ (d.setIc a w).ports = d.ports ∧
    (d.setIc a w).carriers = d.carriers ∧ (d.setIc a w).txm = d.txm ∧ (d.setIc a w).rxm = d.rxm ∧
    (d.setIc a w).otuMfas = d.otuMfas ∧ (d.setIc a w).otuOmfi = d.otuOmfi ∧ (d.setIc a w).flows = d.flows ∧
    (d.setIc a w).spotFree = d.spotFree ∧ (d.setIc a w).oh = d.oh ∧ (d.setIc a w).banks = d.banks ∧
    (d.setIc a w).dpBuf = d.dpBuf ∧ (d.setIc a w).ofsLast = d.ofsLast ∧ (d.setIc a w).ofsSeq = d.ofsSeq ∧
    (d.setIc a w).bridgeRetry = d.bridgeRetry ∧ (d.setIc a w).binFence = d.binFence ∧ (d.setIc a w).sw = d.sw ∧
    (d.setIc a w).chg = d.chg ∧ (d.setIc a w).regions = d.regions ∧ (d.setIc a w).tm = d.tm ∧ (d.setIc a w).links = d.links ∧
    (d.setIc a w).bs = d.bs ∧ (d.setIc a w).tenants = d.tenants ∧ (d.setIc a w).rings = d.rings ∧
    (d.setIc a w).engines = d.engines ∧ (d.setIc a w).numVfs = d.numVfs ∧ (d.setIc a w).capLeft = d.capLeft ∧
    (d.setIc a w).capCount = d.capCount ∧ (d.setIc a w).telem = d.telem ∧ (d.setIc a w).mx = d.mx ∧
    (d.setIc a w).cores = d.cores ∧ (d.setIc a w).uart = d.uart ∧ (d.setIc a w).tc = d.tc ∧ (d.setIc a w).pcs = d.pcs ∧
    (d.setIc a w).pcGlbFrz = d.pcGlbFrz ∧ (d.setIc a w).pcGlbClr = d.pcGlbClr ∧ (d.setIc a w).timeLatch = d.timeLatch ∧
    (d.setIc a w).pw = d.pw ∧ (d.setIc a w).fc = d.fc ∧ (d.setIc a w).bn = d.bn ∧ (d.setIc a w).boot = d.boot ∧
    (d.setIc a w).alive = d.alive ∧ (d.setIc a w).safe = d.safe ∧ (d.setIc a w).resetLow = d.resetLow ∧
    (d.setIc a w).readyDue = d.readyDue ∧ (d.setIc a w).proof = d.proof ∧ (d.setIc a w).core3Bad = d.core3Bad ∧
    (d.setIc a w).pwrReq = d.pwrReq ∧ (d.setIc a w).bcUp = d.bcUp ∧ (d.setIc a w).bcRegs = d.bcRegs ∧
    (d.setIc a w).mem = d.mem ∧ (d.setIc a w).out = d.out := by
  and_intros <;> rfl

@[simp] theorem Dev.onCarrier_frame (d : Dev) (c : Nat) (f : Carrier → Carrier) :
    (d.onCarrier c f).time = d.time ∧ (d.onCarrier c f).free = d.free ∧ (d.onCarrier c f).capTick = d.capTick ∧
    (d.onCarrier c f).bmfAt = d.bmfAt ∧ (d.onCarrier c f).regs = d.regs ∧ (d.onCarrier c f).act = d.act ∧
    (d.onCarrier c f).actRx = d.actRx ∧ (d.onCarrier c f).ic = d.ic ∧ (d.onCarrier c f).lines = d.lines ∧
    (d.onCarrier c f).modBusy = d.modBusy ∧ (d.onCarrier c f).clus = d.clus ∧ (d.onCarrier c f).dies = d.dies ∧
    (d.onCarrier c f).lanes = d.lanes ∧ (d.onCarrier c f).ports = d.ports ∧ (d.onCarrier c f).txm = d.txm ∧
    (d.onCarrier c f).rxm = d.rxm ∧ (d.onCarrier c f).otuMfas = d.otuMfas ∧ (d.onCarrier c f).otuOmfi = d.otuOmfi ∧
    (d.onCarrier c f).flows = d.flows ∧ (d.onCarrier c f).spotFree = d.spotFree ∧ (d.onCarrier c f).oh = d.oh ∧
    (d.onCarrier c f).banks = d.banks ∧ (d.onCarrier c f).dpBuf = d.dpBuf ∧ (d.onCarrier c f).ofsLast = d.ofsLast ∧
    (d.onCarrier c f).ofsSeq = d.ofsSeq ∧ (d.onCarrier c f).bridgeRetry = d.bridgeRetry ∧
    (d.onCarrier c f).binFence = d.binFence ∧ (d.onCarrier c f).sw = d.sw ∧ (d.onCarrier c f).chg = d.chg ∧
    (d.onCarrier c f).regions = d.regions ∧ (d.onCarrier c f).tm = d.tm ∧ (d.onCarrier c f).links = d.links ∧
    (d.onCarrier c f).bs = d.bs ∧ (d.onCarrier c f).tenants = d.tenants ∧ (d.onCarrier c f).rings = d.rings ∧
    (d.onCarrier c f).engines = d.engines ∧ (d.onCarrier c f).numVfs = d.numVfs ∧ (d.onCarrier c f).capLeft = d.capLeft ∧
    (d.onCarrier c f).capCount = d.capCount ∧ (d.onCarrier c f).telem = d.telem ∧ (d.onCarrier c f).mx = d.mx ∧
    (d.onCarrier c f).cores = d.cores ∧ (d.onCarrier c f).uart = d.uart ∧ (d.onCarrier c f).tc = d.tc ∧
    (d.onCarrier c f).pcs = d.pcs ∧ (d.onCarrier c f).pcGlbFrz = d.pcGlbFrz ∧ (d.onCarrier c f).pcGlbClr = d.pcGlbClr ∧
    (d.onCarrier c f).timeLatch = d.timeLatch ∧ (d.onCarrier c f).pw = d.pw ∧ (d.onCarrier c f).fc = d.fc ∧
    (d.onCarrier c f).bn = d.bn ∧ (d.onCarrier c f).boot = d.boot ∧ (d.onCarrier c f).alive = d.alive ∧
    (d.onCarrier c f).safe = d.safe ∧ (d.onCarrier c f).resetLow = d.resetLow ∧ (d.onCarrier c f).readyDue = d.readyDue ∧
    (d.onCarrier c f).proof = d.proof ∧ (d.onCarrier c f).core3Bad = d.core3Bad ∧ (d.onCarrier c f).pwrReq = d.pwrReq ∧
    (d.onCarrier c f).bcUp = d.bcUp ∧ (d.onCarrier c f).bcRegs = d.bcRegs ∧ (d.onCarrier c f).mem = d.mem ∧
    (d.onCarrier c f).out = d.out := by
  and_intros <;> rfl

@[simp] theorem Dev.onFlow_frame (d : Dev) (c : Nat) (f : Flow → Flow) :
    (d.onFlow c f).time = d.time ∧ (d.onFlow c f).free = d.free ∧ (d.onFlow c f).capTick = d.capTick ∧
    (d.onFlow c f).bmfAt = d.bmfAt ∧ (d.onFlow c f).regs = d.regs ∧ (d.onFlow c f).act = d.act ∧
    (d.onFlow c f).actRx = d.actRx ∧ (d.onFlow c f).ic = d.ic ∧ (d.onFlow c f).lines = d.lines ∧
    (d.onFlow c f).modBusy = d.modBusy ∧ (d.onFlow c f).clus = d.clus ∧ (d.onFlow c f).dies = d.dies ∧
    (d.onFlow c f).lanes = d.lanes ∧ (d.onFlow c f).ports = d.ports ∧ (d.onFlow c f).carriers = d.carriers ∧
    (d.onFlow c f).txm = d.txm ∧ (d.onFlow c f).rxm = d.rxm ∧ (d.onFlow c f).otuMfas = d.otuMfas ∧
    (d.onFlow c f).otuOmfi = d.otuOmfi ∧ (d.onFlow c f).spotFree = d.spotFree ∧ (d.onFlow c f).oh = d.oh ∧
    (d.onFlow c f).banks = d.banks ∧ (d.onFlow c f).dpBuf = d.dpBuf ∧ (d.onFlow c f).ofsLast = d.ofsLast ∧
    (d.onFlow c f).ofsSeq = d.ofsSeq ∧ (d.onFlow c f).bridgeRetry = d.bridgeRetry ∧ (d.onFlow c f).binFence = d.binFence ∧
    (d.onFlow c f).sw = d.sw ∧ (d.onFlow c f).chg = d.chg ∧ (d.onFlow c f).regions = d.regions ∧ (d.onFlow c f).tm = d.tm ∧
    (d.onFlow c f).links = d.links ∧ (d.onFlow c f).bs = d.bs ∧ (d.onFlow c f).tenants = d.tenants ∧
    (d.onFlow c f).rings = d.rings ∧ (d.onFlow c f).engines = d.engines ∧ (d.onFlow c f).numVfs = d.numVfs ∧
    (d.onFlow c f).capLeft = d.capLeft ∧ (d.onFlow c f).capCount = d.capCount ∧ (d.onFlow c f).telem = d.telem ∧
    (d.onFlow c f).mx = d.mx ∧ (d.onFlow c f).cores = d.cores ∧ (d.onFlow c f).uart = d.uart ∧ (d.onFlow c f).tc = d.tc ∧
    (d.onFlow c f).pcs = d.pcs ∧ (d.onFlow c f).pcGlbFrz = d.pcGlbFrz ∧ (d.onFlow c f).pcGlbClr = d.pcGlbClr ∧
    (d.onFlow c f).timeLatch = d.timeLatch ∧ (d.onFlow c f).pw = d.pw ∧ (d.onFlow c f).fc = d.fc ∧ (d.onFlow c f).bn = d.bn ∧
    (d.onFlow c f).boot = d.boot ∧ (d.onFlow c f).alive = d.alive ∧ (d.onFlow c f).safe = d.safe ∧
    (d.onFlow c f).resetLow = d.resetLow ∧ (d.onFlow c f).readyDue = d.readyDue ∧ (d.onFlow c f).proof = d.proof ∧
    (d.onFlow c f).core3Bad = d.core3Bad ∧ (d.onFlow c f).pwrReq = d.pwrReq ∧ (d.onFlow c f).bcUp = d.bcUp ∧
    (d.onFlow c f).bcRegs = d.bcRegs ∧ (d.onFlow c f).mem = d.mem ∧ (d.onFlow c f).out = d.out := by
  and_intros <;> rfl

@[simp] theorem Dev.onLane_frame (d : Dev) (c : Nat) (f : Lane → Lane) :
    (d.onLane c f).time = d.time ∧ (d.onLane c f).free = d.free ∧ (d.onLane c f).capTick = d.capTick ∧
    (d.onLane c f).bmfAt = d.bmfAt ∧ (d.onLane c f).regs = d.regs ∧ (d.onLane c f).act = d.act ∧
    (d.onLane c f).actRx = d.actRx ∧ (d.onLane c f).ic = d.ic ∧ (d.onLane c f).lines = d.lines ∧
    (d.onLane c f).modBusy = d.modBusy ∧ (d.onLane c f).clus = d.clus ∧ (d.onLane c f).dies = d.dies ∧
    (d.onLane c f).ports = d.ports ∧ (d.onLane c f).carriers = d.carriers ∧ (d.onLane c f).txm = d.txm ∧
    (d.onLane c f).rxm = d.rxm ∧ (d.onLane c f).otuMfas = d.otuMfas ∧ (d.onLane c f).otuOmfi = d.otuOmfi ∧
    (d.onLane c f).flows = d.flows ∧ (d.onLane c f).spotFree = d.spotFree ∧ (d.onLane c f).oh = d.oh ∧
    (d.onLane c f).banks = d.banks ∧ (d.onLane c f).dpBuf = d.dpBuf ∧ (d.onLane c f).ofsLast = d.ofsLast ∧
    (d.onLane c f).ofsSeq = d.ofsSeq ∧ (d.onLane c f).bridgeRetry = d.bridgeRetry ∧ (d.onLane c f).binFence = d.binFence ∧
    (d.onLane c f).sw = d.sw ∧ (d.onLane c f).chg = d.chg ∧ (d.onLane c f).regions = d.regions ∧ (d.onLane c f).tm = d.tm ∧
    (d.onLane c f).links = d.links ∧ (d.onLane c f).bs = d.bs ∧ (d.onLane c f).tenants = d.tenants ∧
    (d.onLane c f).rings = d.rings ∧ (d.onLane c f).engines = d.engines ∧ (d.onLane c f).numVfs = d.numVfs ∧
    (d.onLane c f).capLeft = d.capLeft ∧ (d.onLane c f).capCount = d.capCount ∧ (d.onLane c f).telem = d.telem ∧
    (d.onLane c f).mx = d.mx ∧ (d.onLane c f).cores = d.cores ∧ (d.onLane c f).uart = d.uart ∧ (d.onLane c f).tc = d.tc ∧
    (d.onLane c f).pcs = d.pcs ∧ (d.onLane c f).pcGlbFrz = d.pcGlbFrz ∧ (d.onLane c f).pcGlbClr = d.pcGlbClr ∧
    (d.onLane c f).timeLatch = d.timeLatch ∧ (d.onLane c f).pw = d.pw ∧ (d.onLane c f).fc = d.fc ∧ (d.onLane c f).bn = d.bn ∧
    (d.onLane c f).boot = d.boot ∧ (d.onLane c f).alive = d.alive ∧ (d.onLane c f).safe = d.safe ∧
    (d.onLane c f).resetLow = d.resetLow ∧ (d.onLane c f).readyDue = d.readyDue ∧ (d.onLane c f).proof = d.proof ∧
    (d.onLane c f).core3Bad = d.core3Bad ∧ (d.onLane c f).pwrReq = d.pwrReq ∧ (d.onLane c f).bcUp = d.bcUp ∧
    (d.onLane c f).bcRegs = d.bcRegs ∧ (d.onLane c f).mem = d.mem ∧ (d.onLane c f).out = d.out := by
  and_intros <;> rfl

@[simp] theorem Dev.onPort_frame (d : Dev) (c : Nat) (f : Port → Port) :
    (d.onPort c f).time = d.time ∧ (d.onPort c f).free = d.free ∧ (d.onPort c f).capTick = d.capTick ∧
    (d.onPort c f).bmfAt = d.bmfAt ∧ (d.onPort c f).regs = d.regs ∧ (d.onPort c f).act = d.act ∧
    (d.onPort c f).actRx = d.actRx ∧ (d.onPort c f).ic = d.ic ∧ (d.onPort c f).lines = d.lines ∧
    (d.onPort c f).modBusy = d.modBusy ∧ (d.onPort c f).clus = d.clus ∧ (d.onPort c f).dies = d.dies ∧
    (d.onPort c f).lanes = d.lanes ∧ (d.onPort c f).carriers = d.carriers ∧ (d.onPort c f).txm = d.txm ∧
    (d.onPort c f).rxm = d.rxm ∧ (d.onPort c f).otuMfas = d.otuMfas ∧ (d.onPort c f).otuOmfi = d.otuOmfi ∧
    (d.onPort c f).flows = d.flows ∧ (d.onPort c f).spotFree = d.spotFree ∧ (d.onPort c f).oh = d.oh ∧
    (d.onPort c f).banks = d.banks ∧ (d.onPort c f).dpBuf = d.dpBuf ∧ (d.onPort c f).ofsLast = d.ofsLast ∧
    (d.onPort c f).ofsSeq = d.ofsSeq ∧ (d.onPort c f).bridgeRetry = d.bridgeRetry ∧ (d.onPort c f).binFence = d.binFence ∧
    (d.onPort c f).sw = d.sw ∧ (d.onPort c f).chg = d.chg ∧ (d.onPort c f).regions = d.regions ∧ (d.onPort c f).tm = d.tm ∧
    (d.onPort c f).links = d.links ∧ (d.onPort c f).bs = d.bs ∧ (d.onPort c f).tenants = d.tenants ∧
    (d.onPort c f).rings = d.rings ∧ (d.onPort c f).engines = d.engines ∧ (d.onPort c f).numVfs = d.numVfs ∧
    (d.onPort c f).capLeft = d.capLeft ∧ (d.onPort c f).capCount = d.capCount ∧ (d.onPort c f).telem = d.telem ∧
    (d.onPort c f).mx = d.mx ∧ (d.onPort c f).cores = d.cores ∧ (d.onPort c f).uart = d.uart ∧ (d.onPort c f).tc = d.tc ∧
    (d.onPort c f).pcs = d.pcs ∧ (d.onPort c f).pcGlbFrz = d.pcGlbFrz ∧ (d.onPort c f).pcGlbClr = d.pcGlbClr ∧
    (d.onPort c f).timeLatch = d.timeLatch ∧ (d.onPort c f).pw = d.pw ∧ (d.onPort c f).fc = d.fc ∧ (d.onPort c f).bn = d.bn ∧
    (d.onPort c f).boot = d.boot ∧ (d.onPort c f).alive = d.alive ∧ (d.onPort c f).safe = d.safe ∧
    (d.onPort c f).resetLow = d.resetLow ∧ (d.onPort c f).readyDue = d.readyDue ∧ (d.onPort c f).proof = d.proof ∧
    (d.onPort c f).core3Bad = d.core3Bad ∧ (d.onPort c f).pwrReq = d.pwrReq ∧ (d.onPort c f).bcUp = d.bcUp ∧
    (d.onPort c f).bcRegs = d.bcRegs ∧ (d.onPort c f).mem = d.mem ∧ (d.onPort c f).out = d.out := by
  and_intros <;> rfl

@[simp] theorem Dev.onDie_frame (d : Dev) (c : Nat) (f : Die → Die) :
    (d.onDie c f).time = d.time ∧ (d.onDie c f).free = d.free ∧ (d.onDie c f).capTick = d.capTick ∧
    (d.onDie c f).bmfAt = d.bmfAt ∧ (d.onDie c f).regs = d.regs ∧ (d.onDie c f).act = d.act ∧ (d.onDie c f).actRx = d.actRx ∧
    (d.onDie c f).ic = d.ic ∧ (d.onDie c f).lines = d.lines ∧ (d.onDie c f).modBusy = d.modBusy ∧
    (d.onDie c f).clus = d.clus ∧ (d.onDie c f).lanes = d.lanes ∧ (d.onDie c f).ports = d.ports ∧
    (d.onDie c f).carriers = d.carriers ∧ (d.onDie c f).txm = d.txm ∧ (d.onDie c f).rxm = d.rxm ∧
    (d.onDie c f).otuMfas = d.otuMfas ∧ (d.onDie c f).otuOmfi = d.otuOmfi ∧ (d.onDie c f).flows = d.flows ∧
    (d.onDie c f).spotFree = d.spotFree ∧ (d.onDie c f).oh = d.oh ∧ (d.onDie c f).banks = d.banks ∧
    (d.onDie c f).dpBuf = d.dpBuf ∧ (d.onDie c f).ofsLast = d.ofsLast ∧ (d.onDie c f).ofsSeq = d.ofsSeq ∧
    (d.onDie c f).bridgeRetry = d.bridgeRetry ∧ (d.onDie c f).binFence = d.binFence ∧ (d.onDie c f).sw = d.sw ∧
    (d.onDie c f).chg = d.chg ∧ (d.onDie c f).regions = d.regions ∧ (d.onDie c f).tm = d.tm ∧ (d.onDie c f).links = d.links ∧
    (d.onDie c f).bs = d.bs ∧ (d.onDie c f).tenants = d.tenants ∧ (d.onDie c f).rings = d.rings ∧
    (d.onDie c f).engines = d.engines ∧ (d.onDie c f).numVfs = d.numVfs ∧ (d.onDie c f).capLeft = d.capLeft ∧
    (d.onDie c f).capCount = d.capCount ∧ (d.onDie c f).telem = d.telem ∧ (d.onDie c f).mx = d.mx ∧
    (d.onDie c f).cores = d.cores ∧ (d.onDie c f).uart = d.uart ∧ (d.onDie c f).tc = d.tc ∧ (d.onDie c f).pcs = d.pcs ∧
    (d.onDie c f).pcGlbFrz = d.pcGlbFrz ∧ (d.onDie c f).pcGlbClr = d.pcGlbClr ∧ (d.onDie c f).timeLatch = d.timeLatch ∧
    (d.onDie c f).pw = d.pw ∧ (d.onDie c f).fc = d.fc ∧ (d.onDie c f).bn = d.bn ∧ (d.onDie c f).boot = d.boot ∧
    (d.onDie c f).alive = d.alive ∧ (d.onDie c f).safe = d.safe ∧ (d.onDie c f).resetLow = d.resetLow ∧
    (d.onDie c f).readyDue = d.readyDue ∧ (d.onDie c f).proof = d.proof ∧ (d.onDie c f).core3Bad = d.core3Bad ∧
    (d.onDie c f).pwrReq = d.pwrReq ∧ (d.onDie c f).bcUp = d.bcUp ∧ (d.onDie c f).bcRegs = d.bcRegs ∧
    (d.onDie c f).mem = d.mem ∧ (d.onDie c f).out = d.out := by
  and_intros <;> rfl

@[simp] theorem Dev.onCluster_frame (d : Dev) (c : Nat) (f : Clus → Clus) :
    (d.onCluster c f).time = d.time ∧ (d.onCluster c f).free = d.free ∧ (d.onCluster c f).capTick = d.capTick ∧
    (d.onCluster c f).bmfAt = d.bmfAt ∧ (d.onCluster c f).regs = d.regs ∧ (d.onCluster c f).act = d.act ∧
    (d.onCluster c f).actRx = d.actRx ∧ (d.onCluster c f).ic = d.ic ∧ (d.onCluster c f).lines = d.lines ∧
    (d.onCluster c f).modBusy = d.modBusy ∧ (d.onCluster c f).dies = d.dies ∧ (d.onCluster c f).lanes = d.lanes ∧
    (d.onCluster c f).ports = d.ports ∧ (d.onCluster c f).carriers = d.carriers ∧ (d.onCluster c f).txm = d.txm ∧
    (d.onCluster c f).rxm = d.rxm ∧ (d.onCluster c f).otuMfas = d.otuMfas ∧ (d.onCluster c f).otuOmfi = d.otuOmfi ∧
    (d.onCluster c f).flows = d.flows ∧ (d.onCluster c f).spotFree = d.spotFree ∧ (d.onCluster c f).oh = d.oh ∧
    (d.onCluster c f).banks = d.banks ∧ (d.onCluster c f).dpBuf = d.dpBuf ∧ (d.onCluster c f).ofsLast = d.ofsLast ∧
    (d.onCluster c f).ofsSeq = d.ofsSeq ∧ (d.onCluster c f).bridgeRetry = d.bridgeRetry ∧
    (d.onCluster c f).binFence = d.binFence ∧ (d.onCluster c f).sw = d.sw ∧ (d.onCluster c f).chg = d.chg ∧
    (d.onCluster c f).regions = d.regions ∧ (d.onCluster c f).tm = d.tm ∧ (d.onCluster c f).links = d.links ∧
    (d.onCluster c f).bs = d.bs ∧ (d.onCluster c f).tenants = d.tenants ∧ (d.onCluster c f).rings = d.rings ∧
    (d.onCluster c f).engines = d.engines ∧ (d.onCluster c f).numVfs = d.numVfs ∧ (d.onCluster c f).capLeft = d.capLeft ∧
    (d.onCluster c f).capCount = d.capCount ∧ (d.onCluster c f).telem = d.telem ∧ (d.onCluster c f).mx = d.mx ∧
    (d.onCluster c f).cores = d.cores ∧ (d.onCluster c f).uart = d.uart ∧ (d.onCluster c f).tc = d.tc ∧
    (d.onCluster c f).pcs = d.pcs ∧ (d.onCluster c f).pcGlbFrz = d.pcGlbFrz ∧ (d.onCluster c f).pcGlbClr = d.pcGlbClr ∧
    (d.onCluster c f).timeLatch = d.timeLatch ∧ (d.onCluster c f).pw = d.pw ∧ (d.onCluster c f).fc = d.fc ∧
    (d.onCluster c f).bn = d.bn ∧ (d.onCluster c f).boot = d.boot ∧ (d.onCluster c f).alive = d.alive ∧
    (d.onCluster c f).safe = d.safe ∧ (d.onCluster c f).resetLow = d.resetLow ∧ (d.onCluster c f).readyDue = d.readyDue ∧
    (d.onCluster c f).proof = d.proof ∧ (d.onCluster c f).core3Bad = d.core3Bad ∧ (d.onCluster c f).pwrReq = d.pwrReq ∧
    (d.onCluster c f).bcUp = d.bcUp ∧ (d.onCluster c f).bcRegs = d.bcRegs ∧ (d.onCluster c f).mem = d.mem ∧
    (d.onCluster c f).out = d.out := by
  and_intros <;> rfl

@[simp] theorem Dev.onOverhead_frame (d : Dev) (c : Nat) (f : Overhead → Overhead) :
    (d.onOverhead c f).time = d.time ∧ (d.onOverhead c f).free = d.free ∧ (d.onOverhead c f).capTick = d.capTick ∧
    (d.onOverhead c f).bmfAt = d.bmfAt ∧ (d.onOverhead c f).regs = d.regs ∧ (d.onOverhead c f).act = d.act ∧
    (d.onOverhead c f).actRx = d.actRx ∧ (d.onOverhead c f).ic = d.ic ∧ (d.onOverhead c f).lines = d.lines ∧
    (d.onOverhead c f).modBusy = d.modBusy ∧ (d.onOverhead c f).clus = d.clus ∧ (d.onOverhead c f).dies = d.dies ∧
    (d.onOverhead c f).lanes = d.lanes ∧ (d.onOverhead c f).ports = d.ports ∧ (d.onOverhead c f).carriers = d.carriers ∧
    (d.onOverhead c f).txm = d.txm ∧ (d.onOverhead c f).rxm = d.rxm ∧ (d.onOverhead c f).otuMfas = d.otuMfas ∧
    (d.onOverhead c f).otuOmfi = d.otuOmfi ∧ (d.onOverhead c f).flows = d.flows ∧ (d.onOverhead c f).spotFree = d.spotFree ∧
    (d.onOverhead c f).banks = d.banks ∧ (d.onOverhead c f).dpBuf = d.dpBuf ∧ (d.onOverhead c f).ofsLast = d.ofsLast ∧
    (d.onOverhead c f).ofsSeq = d.ofsSeq ∧ (d.onOverhead c f).bridgeRetry = d.bridgeRetry ∧
    (d.onOverhead c f).binFence = d.binFence ∧ (d.onOverhead c f).sw = d.sw ∧ (d.onOverhead c f).chg = d.chg ∧
    (d.onOverhead c f).regions = d.regions ∧ (d.onOverhead c f).tm = d.tm ∧ (d.onOverhead c f).links = d.links ∧
    (d.onOverhead c f).bs = d.bs ∧ (d.onOverhead c f).tenants = d.tenants ∧ (d.onOverhead c f).rings = d.rings ∧
    (d.onOverhead c f).engines = d.engines ∧ (d.onOverhead c f).numVfs = d.numVfs ∧ (d.onOverhead c f).capLeft = d.capLeft ∧
    (d.onOverhead c f).capCount = d.capCount ∧ (d.onOverhead c f).telem = d.telem ∧ (d.onOverhead c f).mx = d.mx ∧
    (d.onOverhead c f).cores = d.cores ∧ (d.onOverhead c f).uart = d.uart ∧ (d.onOverhead c f).tc = d.tc ∧
    (d.onOverhead c f).pcs = d.pcs ∧ (d.onOverhead c f).pcGlbFrz = d.pcGlbFrz ∧ (d.onOverhead c f).pcGlbClr = d.pcGlbClr ∧
    (d.onOverhead c f).timeLatch = d.timeLatch ∧ (d.onOverhead c f).pw = d.pw ∧ (d.onOverhead c f).fc = d.fc ∧
    (d.onOverhead c f).bn = d.bn ∧ (d.onOverhead c f).boot = d.boot ∧ (d.onOverhead c f).alive = d.alive ∧
    (d.onOverhead c f).safe = d.safe ∧ (d.onOverhead c f).resetLow = d.resetLow ∧ (d.onOverhead c f).readyDue = d.readyDue ∧
    (d.onOverhead c f).proof = d.proof ∧ (d.onOverhead c f).core3Bad = d.core3Bad ∧ (d.onOverhead c f).pwrReq = d.pwrReq ∧
    (d.onOverhead c f).bcUp = d.bcUp ∧ (d.onOverhead c f).bcRegs = d.bcRegs ∧ (d.onOverhead c f).mem = d.mem ∧
    (d.onOverhead c f).out = d.out := by
  and_intros <;> rfl

@[simp] theorem Dev.onRegion_frame (d : Dev) (c : Nat) (f : Region → Region) :
    (d.onRegion c f).time = d.time ∧ (d.onRegion c f).free = d.free ∧ (d.onRegion c f).capTick = d.capTick ∧
    (d.onRegion c f).bmfAt = d.bmfAt ∧ (d.onRegion c f).regs = d.regs ∧ (d.onRegion c f).act = d.act ∧
    (d.onRegion c f).actRx = d.actRx ∧ (d.onRegion c f).ic = d.ic ∧ (d.onRegion c f).lines = d.lines ∧
    (d.onRegion c f).modBusy = d.modBusy ∧ (d.onRegion c f).clus = d.clus ∧ (d.onRegion c f).dies = d.dies ∧
    (d.onRegion c f).lanes = d.lanes ∧ (d.onRegion c f).ports = d.ports ∧ (d.onRegion c f).carriers = d.carriers ∧
    (d.onRegion c f).txm = d.txm ∧ (d.onRegion c f).rxm = d.rxm ∧ (d.onRegion c f).otuMfas = d.otuMfas ∧
    (d.onRegion c f).otuOmfi = d.otuOmfi ∧ (d.onRegion c f).flows = d.flows ∧ (d.onRegion c f).spotFree = d.spotFree ∧
    (d.onRegion c f).oh = d.oh ∧ (d.onRegion c f).banks = d.banks ∧ (d.onRegion c f).dpBuf = d.dpBuf ∧
    (d.onRegion c f).ofsLast = d.ofsLast ∧ (d.onRegion c f).ofsSeq = d.ofsSeq ∧
    (d.onRegion c f).bridgeRetry = d.bridgeRetry ∧ (d.onRegion c f).binFence = d.binFence ∧ (d.onRegion c f).sw = d.sw ∧
    (d.onRegion c f).chg = d.chg ∧ (d.onRegion c f).tm = d.tm ∧ (d.onRegion c f).links = d.links ∧
    (d.onRegion c f).bs = d.bs ∧ (d.onRegion c f).tenants = d.tenants ∧ (d.onRegion c f).rings = d.rings ∧
    (d.onRegion c f).engines = d.engines ∧ (d.onRegion c f).numVfs = d.numVfs ∧ (d.onRegion c f).capLeft = d.capLeft ∧
    (d.onRegion c f).capCount = d.capCount ∧ (d.onRegion c f).telem = d.telem ∧ (d.onRegion c f).mx = d.mx ∧
    (d.onRegion c f).cores = d.cores ∧ (d.onRegion c f).uart = d.uart ∧ (d.onRegion c f).tc = d.tc ∧
    (d.onRegion c f).pcs = d.pcs ∧ (d.onRegion c f).pcGlbFrz = d.pcGlbFrz ∧ (d.onRegion c f).pcGlbClr = d.pcGlbClr ∧
    (d.onRegion c f).timeLatch = d.timeLatch ∧ (d.onRegion c f).pw = d.pw ∧ (d.onRegion c f).fc = d.fc ∧
    (d.onRegion c f).bn = d.bn ∧ (d.onRegion c f).boot = d.boot ∧ (d.onRegion c f).alive = d.alive ∧
    (d.onRegion c f).safe = d.safe ∧ (d.onRegion c f).resetLow = d.resetLow ∧ (d.onRegion c f).readyDue = d.readyDue ∧
    (d.onRegion c f).proof = d.proof ∧ (d.onRegion c f).core3Bad = d.core3Bad ∧ (d.onRegion c f).pwrReq = d.pwrReq ∧
    (d.onRegion c f).bcUp = d.bcUp ∧ (d.onRegion c f).bcRegs = d.bcRegs ∧ (d.onRegion c f).mem = d.mem ∧
    (d.onRegion c f).out = d.out := by
  and_intros <;> rfl

@[simp] theorem Dev.onLink_frame (d : Dev) (c : Nat) (f : Link → Link) :
    (d.onLink c f).time = d.time ∧ (d.onLink c f).free = d.free ∧ (d.onLink c f).capTick = d.capTick ∧
    (d.onLink c f).bmfAt = d.bmfAt ∧ (d.onLink c f).regs = d.regs ∧ (d.onLink c f).act = d.act ∧
    (d.onLink c f).actRx = d.actRx ∧ (d.onLink c f).ic = d.ic ∧ (d.onLink c f).lines = d.lines ∧
    (d.onLink c f).modBusy = d.modBusy ∧ (d.onLink c f).clus = d.clus ∧ (d.onLink c f).dies = d.dies ∧
    (d.onLink c f).lanes = d.lanes ∧ (d.onLink c f).ports = d.ports ∧ (d.onLink c f).carriers = d.carriers ∧
    (d.onLink c f).txm = d.txm ∧ (d.onLink c f).rxm = d.rxm ∧ (d.onLink c f).otuMfas = d.otuMfas ∧
    (d.onLink c f).otuOmfi = d.otuOmfi ∧ (d.onLink c f).flows = d.flows ∧ (d.onLink c f).spotFree = d.spotFree ∧
    (d.onLink c f).oh = d.oh ∧ (d.onLink c f).banks = d.banks ∧ (d.onLink c f).dpBuf = d.dpBuf ∧
    (d.onLink c f).ofsLast = d.ofsLast ∧ (d.onLink c f).ofsSeq = d.ofsSeq ∧ (d.onLink c f).bridgeRetry = d.bridgeRetry ∧
    (d.onLink c f).binFence = d.binFence ∧ (d.onLink c f).sw = d.sw ∧ (d.onLink c f).chg = d.chg ∧
    (d.onLink c f).regions = d.regions ∧ (d.onLink c f).tm = d.tm ∧ (d.onLink c f).bs = d.bs ∧
    (d.onLink c f).tenants = d.tenants ∧ (d.onLink c f).rings = d.rings ∧ (d.onLink c f).engines = d.engines ∧
    (d.onLink c f).numVfs = d.numVfs ∧ (d.onLink c f).capLeft = d.capLeft ∧ (d.onLink c f).capCount = d.capCount ∧
    (d.onLink c f).telem = d.telem ∧ (d.onLink c f).mx = d.mx ∧ (d.onLink c f).cores = d.cores ∧
    (d.onLink c f).uart = d.uart ∧ (d.onLink c f).tc = d.tc ∧ (d.onLink c f).pcs = d.pcs ∧
    (d.onLink c f).pcGlbFrz = d.pcGlbFrz ∧ (d.onLink c f).pcGlbClr = d.pcGlbClr ∧ (d.onLink c f).timeLatch = d.timeLatch ∧
    (d.onLink c f).pw = d.pw ∧ (d.onLink c f).fc = d.fc ∧ (d.onLink c f).bn = d.bn ∧ (d.onLink c f).boot = d.boot ∧
    (d.onLink c f).alive = d.alive ∧ (d.onLink c f).safe = d.safe ∧ (d.onLink c f).resetLow = d.resetLow ∧
    (d.onLink c f).readyDue = d.readyDue ∧ (d.onLink c f).proof = d.proof ∧ (d.onLink c f).core3Bad = d.core3Bad ∧
    (d.onLink c f).pwrReq = d.pwrReq ∧ (d.onLink c f).bcUp = d.bcUp ∧ (d.onLink c f).bcRegs = d.bcRegs ∧
    (d.onLink c f).mem = d.mem ∧ (d.onLink c f).out = d.out := by
  and_intros <;> rfl

@[simp] theorem Dev.onTenant_frame (d : Dev) (c : Nat) (f : Tenant → Tenant) :
    (d.onTenant c f).time = d.time ∧ (d.onTenant c f).free = d.free ∧ (d.onTenant c f).capTick = d.capTick ∧
    (d.onTenant c f).bmfAt = d.bmfAt ∧ (d.onTenant c f).regs = d.regs ∧ (d.onTenant c f).act = d.act ∧
    (d.onTenant c f).actRx = d.actRx ∧ (d.onTenant c f).ic = d.ic ∧ (d.onTenant c f).lines = d.lines ∧
    (d.onTenant c f).modBusy = d.modBusy ∧ (d.onTenant c f).clus = d.clus ∧ (d.onTenant c f).dies = d.dies ∧
    (d.onTenant c f).lanes = d.lanes ∧ (d.onTenant c f).ports = d.ports ∧ (d.onTenant c f).carriers = d.carriers ∧
    (d.onTenant c f).txm = d.txm ∧ (d.onTenant c f).rxm = d.rxm ∧ (d.onTenant c f).otuMfas = d.otuMfas ∧
    (d.onTenant c f).otuOmfi = d.otuOmfi ∧ (d.onTenant c f).flows = d.flows ∧ (d.onTenant c f).spotFree = d.spotFree ∧
    (d.onTenant c f).oh = d.oh ∧ (d.onTenant c f).banks = d.banks ∧ (d.onTenant c f).dpBuf = d.dpBuf ∧
    (d.onTenant c f).ofsLast = d.ofsLast ∧ (d.onTenant c f).ofsSeq = d.ofsSeq ∧
    (d.onTenant c f).bridgeRetry = d.bridgeRetry ∧ (d.onTenant c f).binFence = d.binFence ∧ (d.onTenant c f).sw = d.sw ∧
    (d.onTenant c f).chg = d.chg ∧ (d.onTenant c f).regions = d.regions ∧ (d.onTenant c f).tm = d.tm ∧
    (d.onTenant c f).links = d.links ∧ (d.onTenant c f).bs = d.bs ∧ (d.onTenant c f).rings = d.rings ∧
    (d.onTenant c f).engines = d.engines ∧ (d.onTenant c f).numVfs = d.numVfs ∧ (d.onTenant c f).capLeft = d.capLeft ∧
    (d.onTenant c f).capCount = d.capCount ∧ (d.onTenant c f).telem = d.telem ∧ (d.onTenant c f).mx = d.mx ∧
    (d.onTenant c f).cores = d.cores ∧ (d.onTenant c f).uart = d.uart ∧ (d.onTenant c f).tc = d.tc ∧
    (d.onTenant c f).pcs = d.pcs ∧ (d.onTenant c f).pcGlbFrz = d.pcGlbFrz ∧ (d.onTenant c f).pcGlbClr = d.pcGlbClr ∧
    (d.onTenant c f).timeLatch = d.timeLatch ∧ (d.onTenant c f).pw = d.pw ∧ (d.onTenant c f).fc = d.fc ∧
    (d.onTenant c f).bn = d.bn ∧ (d.onTenant c f).boot = d.boot ∧ (d.onTenant c f).alive = d.alive ∧
    (d.onTenant c f).safe = d.safe ∧ (d.onTenant c f).resetLow = d.resetLow ∧ (d.onTenant c f).readyDue = d.readyDue ∧
    (d.onTenant c f).proof = d.proof ∧ (d.onTenant c f).core3Bad = d.core3Bad ∧ (d.onTenant c f).pwrReq = d.pwrReq ∧
    (d.onTenant c f).bcUp = d.bcUp ∧ (d.onTenant c f).bcRegs = d.bcRegs ∧ (d.onTenant c f).mem = d.mem ∧
    (d.onTenant c f).out = d.out := by
  and_intros <;> rfl

@[simp] theorem Dev.onEngine_frame (d : Dev) (c : Nat) (f : Engine → Engine) :
    (d.onEngine c f).time = d.time ∧ (d.onEngine c f).free = d.free ∧ (d.onEngine c f).capTick = d.capTick ∧
    (d.onEngine c f).bmfAt = d.bmfAt ∧ (d.onEngine c f).regs = d.regs ∧ (d.onEngine c f).act = d.act ∧
    (d.onEngine c f).actRx = d.actRx ∧ (d.onEngine c f).ic = d.ic ∧ (d.onEngine c f).lines = d.lines ∧
    (d.onEngine c f).modBusy = d.modBusy ∧ (d.onEngine c f).clus = d.clus ∧ (d.onEngine c f).dies = d.dies ∧
    (d.onEngine c f).lanes = d.lanes ∧ (d.onEngine c f).ports = d.ports ∧ (d.onEngine c f).carriers = d.carriers ∧
    (d.onEngine c f).txm = d.txm ∧ (d.onEngine c f).rxm = d.rxm ∧ (d.onEngine c f).otuMfas = d.otuMfas ∧
    (d.onEngine c f).otuOmfi = d.otuOmfi ∧ (d.onEngine c f).flows = d.flows ∧ (d.onEngine c f).spotFree = d.spotFree ∧
    (d.onEngine c f).oh = d.oh ∧ (d.onEngine c f).banks = d.banks ∧ (d.onEngine c f).dpBuf = d.dpBuf ∧
    (d.onEngine c f).ofsLast = d.ofsLast ∧ (d.onEngine c f).ofsSeq = d.ofsSeq ∧
    (d.onEngine c f).bridgeRetry = d.bridgeRetry ∧ (d.onEngine c f).binFence = d.binFence ∧ (d.onEngine c f).sw = d.sw ∧
    (d.onEngine c f).chg = d.chg ∧ (d.onEngine c f).regions = d.regions ∧ (d.onEngine c f).tm = d.tm ∧
    (d.onEngine c f).links = d.links ∧ (d.onEngine c f).bs = d.bs ∧ (d.onEngine c f).tenants = d.tenants ∧
    (d.onEngine c f).rings = d.rings ∧ (d.onEngine c f).numVfs = d.numVfs ∧ (d.onEngine c f).capLeft = d.capLeft ∧
    (d.onEngine c f).capCount = d.capCount ∧ (d.onEngine c f).telem = d.telem ∧ (d.onEngine c f).mx = d.mx ∧
    (d.onEngine c f).cores = d.cores ∧ (d.onEngine c f).uart = d.uart ∧ (d.onEngine c f).tc = d.tc ∧
    (d.onEngine c f).pcs = d.pcs ∧ (d.onEngine c f).pcGlbFrz = d.pcGlbFrz ∧ (d.onEngine c f).pcGlbClr = d.pcGlbClr ∧
    (d.onEngine c f).timeLatch = d.timeLatch ∧ (d.onEngine c f).pw = d.pw ∧ (d.onEngine c f).fc = d.fc ∧
    (d.onEngine c f).bn = d.bn ∧ (d.onEngine c f).boot = d.boot ∧ (d.onEngine c f).alive = d.alive ∧
    (d.onEngine c f).safe = d.safe ∧ (d.onEngine c f).resetLow = d.resetLow ∧ (d.onEngine c f).readyDue = d.readyDue ∧
    (d.onEngine c f).proof = d.proof ∧ (d.onEngine c f).core3Bad = d.core3Bad ∧ (d.onEngine c f).pwrReq = d.pwrReq ∧
    (d.onEngine c f).bcUp = d.bcUp ∧ (d.onEngine c f).bcRegs = d.bcRegs ∧ (d.onEngine c f).mem = d.mem ∧
    (d.onEngine c f).out = d.out := by
  and_intros <;> rfl

@[simp] theorem Dev.onCore_frame (d : Dev) (c : Nat) (f : Core → Core) :
    (d.onCore c f).time = d.time ∧ (d.onCore c f).free = d.free ∧ (d.onCore c f).capTick = d.capTick ∧
    (d.onCore c f).bmfAt = d.bmfAt ∧ (d.onCore c f).regs = d.regs ∧ (d.onCore c f).act = d.act ∧
    (d.onCore c f).actRx = d.actRx ∧ (d.onCore c f).ic = d.ic ∧ (d.onCore c f).lines = d.lines ∧
    (d.onCore c f).modBusy = d.modBusy ∧ (d.onCore c f).clus = d.clus ∧ (d.onCore c f).dies = d.dies ∧
    (d.onCore c f).lanes = d.lanes ∧ (d.onCore c f).ports = d.ports ∧ (d.onCore c f).carriers = d.carriers ∧
    (d.onCore c f).txm = d.txm ∧ (d.onCore c f).rxm = d.rxm ∧ (d.onCore c f).otuMfas = d.otuMfas ∧
    (d.onCore c f).otuOmfi = d.otuOmfi ∧ (d.onCore c f).flows = d.flows ∧ (d.onCore c f).spotFree = d.spotFree ∧
    (d.onCore c f).oh = d.oh ∧ (d.onCore c f).banks = d.banks ∧ (d.onCore c f).dpBuf = d.dpBuf ∧
    (d.onCore c f).ofsLast = d.ofsLast ∧ (d.onCore c f).ofsSeq = d.ofsSeq ∧ (d.onCore c f).bridgeRetry = d.bridgeRetry ∧
    (d.onCore c f).binFence = d.binFence ∧ (d.onCore c f).sw = d.sw ∧ (d.onCore c f).chg = d.chg ∧
    (d.onCore c f).regions = d.regions ∧ (d.onCore c f).tm = d.tm ∧ (d.onCore c f).links = d.links ∧
    (d.onCore c f).bs = d.bs ∧ (d.onCore c f).tenants = d.tenants ∧ (d.onCore c f).rings = d.rings ∧
    (d.onCore c f).engines = d.engines ∧ (d.onCore c f).numVfs = d.numVfs ∧ (d.onCore c f).capLeft = d.capLeft ∧
    (d.onCore c f).capCount = d.capCount ∧ (d.onCore c f).telem = d.telem ∧ (d.onCore c f).mx = d.mx ∧
    (d.onCore c f).uart = d.uart ∧ (d.onCore c f).tc = d.tc ∧ (d.onCore c f).pcs = d.pcs ∧
    (d.onCore c f).pcGlbFrz = d.pcGlbFrz ∧ (d.onCore c f).pcGlbClr = d.pcGlbClr ∧ (d.onCore c f).timeLatch = d.timeLatch ∧
    (d.onCore c f).pw = d.pw ∧ (d.onCore c f).fc = d.fc ∧ (d.onCore c f).bn = d.bn ∧ (d.onCore c f).boot = d.boot ∧
    (d.onCore c f).alive = d.alive ∧ (d.onCore c f).safe = d.safe ∧ (d.onCore c f).resetLow = d.resetLow ∧
    (d.onCore c f).readyDue = d.readyDue ∧ (d.onCore c f).proof = d.proof ∧ (d.onCore c f).core3Bad = d.core3Bad ∧
    (d.onCore c f).pwrReq = d.pwrReq ∧ (d.onCore c f).bcUp = d.bcUp ∧ (d.onCore c f).bcRegs = d.bcRegs ∧
    (d.onCore c f).mem = d.mem ∧ (d.onCore c f).out = d.out := by
  and_intros <;> rfl

@[simp] theorem Dev.onPc_frame (d : Dev) (c : Nat) (f : PcBlk → PcBlk) :
    (d.onPc c f).time = d.time ∧ (d.onPc c f).free = d.free ∧ (d.onPc c f).capTick = d.capTick ∧
    (d.onPc c f).bmfAt = d.bmfAt ∧ (d.onPc c f).regs = d.regs ∧ (d.onPc c f).act = d.act ∧ (d.onPc c f).actRx = d.actRx ∧
    (d.onPc c f).ic = d.ic ∧ (d.onPc c f).lines = d.lines ∧ (d.onPc c f).modBusy = d.modBusy ∧ (d.onPc c f).clus = d.clus ∧
    (d.onPc c f).dies = d.dies ∧ (d.onPc c f).lanes = d.lanes ∧ (d.onPc c f).ports = d.ports ∧
    (d.onPc c f).carriers = d.carriers ∧ (d.onPc c f).txm = d.txm ∧ (d.onPc c f).rxm = d.rxm ∧
    (d.onPc c f).otuMfas = d.otuMfas ∧ (d.onPc c f).otuOmfi = d.otuOmfi ∧ (d.onPc c f).flows = d.flows ∧
    (d.onPc c f).spotFree = d.spotFree ∧ (d.onPc c f).oh = d.oh ∧ (d.onPc c f).banks = d.banks ∧
    (d.onPc c f).dpBuf = d.dpBuf ∧ (d.onPc c f).ofsLast = d.ofsLast ∧ (d.onPc c f).ofsSeq = d.ofsSeq ∧
    (d.onPc c f).bridgeRetry = d.bridgeRetry ∧ (d.onPc c f).binFence = d.binFence ∧ (d.onPc c f).sw = d.sw ∧
    (d.onPc c f).chg = d.chg ∧ (d.onPc c f).regions = d.regions ∧ (d.onPc c f).tm = d.tm ∧ (d.onPc c f).links = d.links ∧
    (d.onPc c f).bs = d.bs ∧ (d.onPc c f).tenants = d.tenants ∧ (d.onPc c f).rings = d.rings ∧
    (d.onPc c f).engines = d.engines ∧ (d.onPc c f).numVfs = d.numVfs ∧ (d.onPc c f).capLeft = d.capLeft ∧
    (d.onPc c f).capCount = d.capCount ∧ (d.onPc c f).telem = d.telem ∧ (d.onPc c f).mx = d.mx ∧
    (d.onPc c f).cores = d.cores ∧ (d.onPc c f).uart = d.uart ∧ (d.onPc c f).tc = d.tc ∧ (d.onPc c f).pcGlbFrz = d.pcGlbFrz ∧
    (d.onPc c f).pcGlbClr = d.pcGlbClr ∧ (d.onPc c f).timeLatch = d.timeLatch ∧ (d.onPc c f).pw = d.pw ∧
    (d.onPc c f).fc = d.fc ∧ (d.onPc c f).bn = d.bn ∧ (d.onPc c f).boot = d.boot ∧ (d.onPc c f).alive = d.alive ∧
    (d.onPc c f).safe = d.safe ∧ (d.onPc c f).resetLow = d.resetLow ∧ (d.onPc c f).readyDue = d.readyDue ∧
    (d.onPc c f).proof = d.proof ∧ (d.onPc c f).core3Bad = d.core3Bad ∧ (d.onPc c f).pwrReq = d.pwrReq ∧
    (d.onPc c f).bcUp = d.bcUp ∧ (d.onPc c f).bcRegs = d.bcRegs ∧ (d.onPc c f).mem = d.mem ∧ (d.onPc c f).out = d.out := by
  and_intros <;> rfl

@[simp] theorem Dev.onRing_frame (d : Dev) (t : Nat) (k : RingKind) (f : Ring → Ring) :
    (d.onRing t k f).time = d.time ∧ (d.onRing t k f).free = d.free ∧ (d.onRing t k f).capTick = d.capTick ∧
    (d.onRing t k f).bmfAt = d.bmfAt ∧ (d.onRing t k f).regs = d.regs ∧ (d.onRing t k f).act = d.act ∧
    (d.onRing t k f).actRx = d.actRx ∧ (d.onRing t k f).ic = d.ic ∧ (d.onRing t k f).lines = d.lines ∧
    (d.onRing t k f).modBusy = d.modBusy ∧ (d.onRing t k f).clus = d.clus ∧ (d.onRing t k f).dies = d.dies ∧
    (d.onRing t k f).lanes = d.lanes ∧ (d.onRing t k f).ports = d.ports ∧ (d.onRing t k f).carriers = d.carriers ∧
    (d.onRing t k f).txm = d.txm ∧ (d.onRing t k f).rxm = d.rxm ∧ (d.onRing t k f).otuMfas = d.otuMfas ∧
    (d.onRing t k f).otuOmfi = d.otuOmfi ∧ (d.onRing t k f).flows = d.flows ∧ (d.onRing t k f).spotFree = d.spotFree ∧
    (d.onRing t k f).oh = d.oh ∧ (d.onRing t k f).banks = d.banks ∧ (d.onRing t k f).dpBuf = d.dpBuf ∧
    (d.onRing t k f).ofsLast = d.ofsLast ∧ (d.onRing t k f).ofsSeq = d.ofsSeq ∧
    (d.onRing t k f).bridgeRetry = d.bridgeRetry ∧ (d.onRing t k f).binFence = d.binFence ∧ (d.onRing t k f).sw = d.sw ∧
    (d.onRing t k f).chg = d.chg ∧ (d.onRing t k f).regions = d.regions ∧ (d.onRing t k f).tm = d.tm ∧
    (d.onRing t k f).links = d.links ∧ (d.onRing t k f).bs = d.bs ∧ (d.onRing t k f).tenants = d.tenants ∧
    (d.onRing t k f).engines = d.engines ∧ (d.onRing t k f).numVfs = d.numVfs ∧ (d.onRing t k f).capLeft = d.capLeft ∧
    (d.onRing t k f).capCount = d.capCount ∧ (d.onRing t k f).telem = d.telem ∧ (d.onRing t k f).mx = d.mx ∧
    (d.onRing t k f).cores = d.cores ∧ (d.onRing t k f).uart = d.uart ∧ (d.onRing t k f).tc = d.tc ∧
    (d.onRing t k f).pcs = d.pcs ∧ (d.onRing t k f).pcGlbFrz = d.pcGlbFrz ∧ (d.onRing t k f).pcGlbClr = d.pcGlbClr ∧
    (d.onRing t k f).timeLatch = d.timeLatch ∧ (d.onRing t k f).pw = d.pw ∧ (d.onRing t k f).fc = d.fc ∧
    (d.onRing t k f).bn = d.bn ∧ (d.onRing t k f).boot = d.boot ∧ (d.onRing t k f).alive = d.alive ∧
    (d.onRing t k f).safe = d.safe ∧ (d.onRing t k f).resetLow = d.resetLow ∧ (d.onRing t k f).readyDue = d.readyDue ∧
    (d.onRing t k f).proof = d.proof ∧ (d.onRing t k f).core3Bad = d.core3Bad ∧ (d.onRing t k f).pwrReq = d.pwrReq ∧
    (d.onRing t k f).bcUp = d.bcUp ∧ (d.onRing t k f).bcRegs = d.bcRegs ∧ (d.onRing t k f).mem = d.mem ∧
    (d.onRing t k f).out = d.out := by
  and_intros <;> rfl

@[simp] theorem Dev.onTxm_frame (d : Dev) (c : Nat) (f : TxModem → TxModem) :
    (d.onTxm c f).time = d.time ∧ (d.onTxm c f).free = d.free ∧ (d.onTxm c f).capTick = d.capTick ∧
    (d.onTxm c f).bmfAt = d.bmfAt ∧ (d.onTxm c f).regs = d.regs ∧ (d.onTxm c f).act = d.act ∧ (d.onTxm c f).actRx = d.actRx ∧
    (d.onTxm c f).ic = d.ic ∧ (d.onTxm c f).lines = d.lines ∧ (d.onTxm c f).modBusy = d.modBusy ∧
    (d.onTxm c f).clus = d.clus ∧ (d.onTxm c f).dies = d.dies ∧ (d.onTxm c f).lanes = d.lanes ∧
    (d.onTxm c f).ports = d.ports ∧ (d.onTxm c f).carriers = d.carriers ∧ (d.onTxm c f).rxm = d.rxm ∧
    (d.onTxm c f).otuMfas = d.otuMfas ∧ (d.onTxm c f).otuOmfi = d.otuOmfi ∧ (d.onTxm c f).flows = d.flows ∧
    (d.onTxm c f).spotFree = d.spotFree ∧ (d.onTxm c f).oh = d.oh ∧ (d.onTxm c f).banks = d.banks ∧
    (d.onTxm c f).dpBuf = d.dpBuf ∧ (d.onTxm c f).ofsLast = d.ofsLast ∧ (d.onTxm c f).ofsSeq = d.ofsSeq ∧
    (d.onTxm c f).bridgeRetry = d.bridgeRetry ∧ (d.onTxm c f).binFence = d.binFence ∧ (d.onTxm c f).sw = d.sw ∧
    (d.onTxm c f).chg = d.chg ∧ (d.onTxm c f).regions = d.regions ∧ (d.onTxm c f).tm = d.tm ∧ (d.onTxm c f).links = d.links ∧
    (d.onTxm c f).bs = d.bs ∧ (d.onTxm c f).tenants = d.tenants ∧ (d.onTxm c f).rings = d.rings ∧
    (d.onTxm c f).engines = d.engines ∧ (d.onTxm c f).numVfs = d.numVfs ∧ (d.onTxm c f).capLeft = d.capLeft ∧
    (d.onTxm c f).capCount = d.capCount ∧ (d.onTxm c f).telem = d.telem ∧ (d.onTxm c f).mx = d.mx ∧
    (d.onTxm c f).cores = d.cores ∧ (d.onTxm c f).uart = d.uart ∧ (d.onTxm c f).tc = d.tc ∧ (d.onTxm c f).pcs = d.pcs ∧
    (d.onTxm c f).pcGlbFrz = d.pcGlbFrz ∧ (d.onTxm c f).pcGlbClr = d.pcGlbClr ∧ (d.onTxm c f).timeLatch = d.timeLatch ∧
    (d.onTxm c f).pw = d.pw ∧ (d.onTxm c f).fc = d.fc ∧ (d.onTxm c f).bn = d.bn ∧ (d.onTxm c f).boot = d.boot ∧
    (d.onTxm c f).alive = d.alive ∧ (d.onTxm c f).safe = d.safe ∧ (d.onTxm c f).resetLow = d.resetLow ∧
    (d.onTxm c f).readyDue = d.readyDue ∧ (d.onTxm c f).proof = d.proof ∧ (d.onTxm c f).core3Bad = d.core3Bad ∧
    (d.onTxm c f).pwrReq = d.pwrReq ∧ (d.onTxm c f).bcUp = d.bcUp ∧ (d.onTxm c f).bcRegs = d.bcRegs ∧
    (d.onTxm c f).mem = d.mem ∧ (d.onTxm c f).out = d.out := by
  and_intros <;> rfl

@[simp] theorem Dev.onRxm_frame (d : Dev) (c : Nat) (f : RxModem → RxModem) :
    (d.onRxm c f).time = d.time ∧ (d.onRxm c f).free = d.free ∧ (d.onRxm c f).capTick = d.capTick ∧
    (d.onRxm c f).bmfAt = d.bmfAt ∧ (d.onRxm c f).regs = d.regs ∧ (d.onRxm c f).act = d.act ∧ (d.onRxm c f).actRx = d.actRx ∧
    (d.onRxm c f).ic = d.ic ∧ (d.onRxm c f).lines = d.lines ∧ (d.onRxm c f).modBusy = d.modBusy ∧
    (d.onRxm c f).clus = d.clus ∧ (d.onRxm c f).dies = d.dies ∧ (d.onRxm c f).lanes = d.lanes ∧
    (d.onRxm c f).ports = d.ports ∧ (d.onRxm c f).carriers = d.carriers ∧ (d.onRxm c f).txm = d.txm ∧
    (d.onRxm c f).otuMfas = d.otuMfas ∧ (d.onRxm c f).otuOmfi = d.otuOmfi ∧ (d.onRxm c f).flows = d.flows ∧
    (d.onRxm c f).spotFree = d.spotFree ∧ (d.onRxm c f).oh = d.oh ∧ (d.onRxm c f).banks = d.banks ∧
    (d.onRxm c f).dpBuf = d.dpBuf ∧ (d.onRxm c f).ofsLast = d.ofsLast ∧ (d.onRxm c f).ofsSeq = d.ofsSeq ∧
    (d.onRxm c f).bridgeRetry = d.bridgeRetry ∧ (d.onRxm c f).binFence = d.binFence ∧ (d.onRxm c f).sw = d.sw ∧
    (d.onRxm c f).chg = d.chg ∧ (d.onRxm c f).regions = d.regions ∧ (d.onRxm c f).tm = d.tm ∧ (d.onRxm c f).links = d.links ∧
    (d.onRxm c f).bs = d.bs ∧ (d.onRxm c f).tenants = d.tenants ∧ (d.onRxm c f).rings = d.rings ∧
    (d.onRxm c f).engines = d.engines ∧ (d.onRxm c f).numVfs = d.numVfs ∧ (d.onRxm c f).capLeft = d.capLeft ∧
    (d.onRxm c f).capCount = d.capCount ∧ (d.onRxm c f).telem = d.telem ∧ (d.onRxm c f).mx = d.mx ∧
    (d.onRxm c f).cores = d.cores ∧ (d.onRxm c f).uart = d.uart ∧ (d.onRxm c f).tc = d.tc ∧ (d.onRxm c f).pcs = d.pcs ∧
    (d.onRxm c f).pcGlbFrz = d.pcGlbFrz ∧ (d.onRxm c f).pcGlbClr = d.pcGlbClr ∧ (d.onRxm c f).timeLatch = d.timeLatch ∧
    (d.onRxm c f).pw = d.pw ∧ (d.onRxm c f).fc = d.fc ∧ (d.onRxm c f).bn = d.bn ∧ (d.onRxm c f).boot = d.boot ∧
    (d.onRxm c f).alive = d.alive ∧ (d.onRxm c f).safe = d.safe ∧ (d.onRxm c f).resetLow = d.resetLow ∧
    (d.onRxm c f).readyDue = d.readyDue ∧ (d.onRxm c f).proof = d.proof ∧ (d.onRxm c f).core3Bad = d.core3Bad ∧
    (d.onRxm c f).pwrReq = d.pwrReq ∧ (d.onRxm c f).bcUp = d.bcUp ∧ (d.onRxm c f).bcRegs = d.bcRegs ∧
    (d.onRxm c f).mem = d.mem ∧ (d.onRxm c f).out = d.out := by
  and_intros <;> rfl

@[simp] theorem Dev.emit_frame (d : Dev) (o : Out) :
    (d.emit o).time = d.time ∧ (d.emit o).free = d.free ∧ (d.emit o).capTick = d.capTick ∧ (d.emit o).bmfAt = d.bmfAt ∧
    (d.emit o).regs = d.regs ∧ (d.emit o).act = d.act ∧ (d.emit o).actRx = d.actRx ∧ (d.emit o).ic = d.ic ∧
    (d.emit o).lines = d.lines ∧ (d.emit o).modBusy = d.modBusy ∧ (d.emit o).clus = d.clus ∧ (d.emit o).dies = d.dies ∧
    (d.emit o).lanes = d.lanes ∧ (d.emit o).ports = d.ports ∧ (d.emit o).carriers = d.carriers ∧ (d.emit o).txm = d.txm ∧
    (d.emit o).rxm = d.rxm ∧ (d.emit o).otuMfas = d.otuMfas ∧ (d.emit o).otuOmfi = d.otuOmfi ∧ (d.emit o).flows = d.flows ∧
    (d.emit o).spotFree = d.spotFree ∧ (d.emit o).oh = d.oh ∧ (d.emit o).banks = d.banks ∧ (d.emit o).dpBuf = d.dpBuf ∧
    (d.emit o).ofsLast = d.ofsLast ∧ (d.emit o).ofsSeq = d.ofsSeq ∧ (d.emit o).bridgeRetry = d.bridgeRetry ∧
    (d.emit o).binFence = d.binFence ∧ (d.emit o).sw = d.sw ∧ (d.emit o).chg = d.chg ∧ (d.emit o).regions = d.regions ∧
    (d.emit o).tm = d.tm ∧ (d.emit o).links = d.links ∧ (d.emit o).bs = d.bs ∧ (d.emit o).tenants = d.tenants ∧
    (d.emit o).rings = d.rings ∧ (d.emit o).engines = d.engines ∧ (d.emit o).numVfs = d.numVfs ∧
    (d.emit o).capLeft = d.capLeft ∧ (d.emit o).capCount = d.capCount ∧ (d.emit o).telem = d.telem ∧ (d.emit o).mx = d.mx ∧
    (d.emit o).cores = d.cores ∧ (d.emit o).uart = d.uart ∧ (d.emit o).tc = d.tc ∧ (d.emit o).pcs = d.pcs ∧
    (d.emit o).pcGlbFrz = d.pcGlbFrz ∧ (d.emit o).pcGlbClr = d.pcGlbClr ∧ (d.emit o).timeLatch = d.timeLatch ∧
    (d.emit o).pw = d.pw ∧ (d.emit o).fc = d.fc ∧ (d.emit o).bn = d.bn ∧ (d.emit o).boot = d.boot ∧
    (d.emit o).alive = d.alive ∧ (d.emit o).safe = d.safe ∧ (d.emit o).resetLow = d.resetLow ∧
    (d.emit o).readyDue = d.readyDue ∧ (d.emit o).proof = d.proof ∧ (d.emit o).core3Bad = d.core3Bad ∧
    (d.emit o).pwrReq = d.pwrReq ∧ (d.emit o).bcUp = d.bcUp ∧ (d.emit o).bcRegs = d.bcRegs ∧ (d.emit o).mem = d.mem := by
  and_intros <;> rfl

end Sys2Proof.Machine
end

