-- ==== Sys2Proof/Laws/Objects.lean ====
section
/-!
SUPPORT. What registers and objects read after the named updates: one lemma for each pair of a read and an update that can touch it,
and the reads that no update of another kind touches.
-/
namespace Sys2Proof.Machine
open RegMap

/-! Registers. -/

@[simp] theorem Dev.reg_setReg (d : Dev) (a b : Nat) (w : Word) : (d.setReg a w).reg b = if b = a then w else d.reg b := by
  by_cases h : b = a
  · subst h; simp [Dev.reg, Dev.setReg]
  · simp only [Dev.reg, Dev.setReg, if_neg h]
    by_cases hd : w = resetAt a
    · simp only [SMap.put, if_pos hd, SMap.get_erase, if_neg h]
    · rw [SMap.put, if_neg hd, SMap.get_insert _ _ _ _ _ fun e he => (SMap.erase_keys _ _ e he).1, if_neg h, SMap.get_erase,
        if_neg h]

@[simp] theorem Dev.actReg_setAct (d : Dev) (a b : Nat) (w : Word) :
    (d.setAct a w).actReg b = if b = a then w else d.actReg b := by
  by_cases h : b = a
  · subst h; simp [Dev.actReg, Dev.setAct]
  · simp only [Dev.actReg, Dev.setAct, if_neg h]
    by_cases hd : w = resetAt a
    · simp only [SMap.put, if_pos hd, SMap.get_erase, if_neg h]
    · rw [SMap.put, if_neg hd, SMap.get_insert _ _ _ _ _ fun e he => (SMap.erase_keys _ _ e he).1, if_neg h, SMap.get_erase,
        if_neg h]

@[simp] theorem Dev.icReg_setIc (d : Dev) (a b : Nat) (w : Word) : (d.setIc a w).icReg b = if b = a then w else d.icReg b := by
  by_cases h : b = a
  · subst h; simp [Dev.icReg, Dev.setIc]
  · simp only [Dev.icReg, Dev.setIc, if_neg h]
    by_cases hd : w = icResetAt a
    · simp only [SMap.put, if_pos hd, SMap.get_erase, if_neg h]
    · rw [SMap.put, if_neg hd, SMap.get_insert _ _ _ _ _ fun e he => (SMap.erase_keys _ _ e he).1, if_neg h, SMap.get_erase,
        if_neg h]

@[simp] theorem Dev.reg_setFld (d : Dev) (a b : Nat) (f : Fld) (v : Nat) :
    (d.setFld a f v).reg b = if b = a then f.set v (d.reg a) else d.reg b := Dev.reg_setReg _ _ _ _

@[simp] theorem Dev.reg_setBit (d : Dev) (a b i : Nat) (x : Bool) :
    (d.setBit a i x).reg b = if b = a then Fld.set ⟨i, 1⟩ x.toNat (d.reg a) else d.reg b := Dev.reg_setReg _ _ _ _

@[simp] theorem Dev.reg_satFld (d : Dev) (a b : Nat) (f : Fld) :
    (d.satFld a f).reg b = if b = a then f.set (satInc (2 ^ f.width - 1) (d.fld a f)) (d.reg a) else d.reg b :=
  Dev.reg_setReg _ _ _ _

@[simp] theorem Dev.reg_incFld (d : Dev) (a b : Nat) (f : Fld) :
    (d.incFld a f).reg b = if b = a then f.set ((d.fld a f + 1) % 2 ^ f.width) (d.reg a) else d.reg b :=
  Dev.reg_setReg _ _ _ _

/-- One bit of a register after one bit was set or cleared. -/
theorem Dev.bit_setBit (d : Dev) (a b i j : Nat) (hi : i < 32) (x : Bool) :
    (d.setBit a i x).bit b j = if b = a ∧ j = i then x else d.bit b j := by
  by_cases h : b = a
  · subst h; simp [Dev.bit, Fld.getLsbD_setBit i j hi]
  · simp [Dev.bit, h]

/-! Objects. -/

@[simp] theorem Dev.carrier_onCarrier (d : Dev) (n k : Nat) (f : Carrier → Carrier) :
    (d.onCarrier n f).carrier k = if k = n then f (d.carrier n) else d.carrier k := by
  simp [Dev.carrier, Dev.onCarrier]

@[simp] theorem Dev.flow_onFlow (d : Dev) (n k : Nat) (f : Flow → Flow) :
    (d.onFlow n f).flow k = if k = n then f (d.flow n) else d.flow k := by
  simp [Dev.flow, Dev.onFlow]

@[simp] theorem Dev.lane_onLane (d : Dev) (n k : Nat) (f : Lane → Lane) :
    (d.onLane n f).lane k = if k = n then f (d.lane n) else d.lane k := by
  simp [Dev.lane, Dev.onLane]

@[simp] theorem Dev.port_onPort (d : Dev) (n k : Nat) (f : Port → Port) :
    (d.onPort n f).port k = if k = n then f (d.port n) else d.port k := by
  simp [Dev.port, Dev.onPort]

@[simp] theorem Dev.die_onDie (d : Dev) (n k : Nat) (f : Die → Die) :
    (d.onDie n f).die k = if k = n then f (d.die n) else d.die k := by
  simp [Dev.die, Dev.onDie]

@[simp] theorem Dev.cluster_onCluster (d : Dev) (n k : Nat) (f : Clus → Clus) :
    (d.onCluster n f).cluster k = if k = n then f (d.cluster n) else d.cluster k := by
  simp [Dev.cluster, Dev.onCluster]

@[simp] theorem Dev.overhead_onOverhead (d : Dev) (n k : Nat) (f : Overhead → Overhead) :
    (d.onOverhead n f).overhead k = if k = n then f (d.overhead n) else d.overhead k := by
  simp [Dev.overhead, Dev.onOverhead]

@[simp] theorem Dev.region_onRegion (d : Dev) (n k : Nat) (f : Region → Region) :
    (d.onRegion n f).region k = if k = n then f (d.region n) else d.region k := by
  simp [Dev.region, Dev.onRegion]

@[simp] theorem Dev.link_onLink (d : Dev) (n k : Nat) (f : Link → Link) :
    (d.onLink n f).link k = if k = n then f (d.link n) else d.link k := by
  simp [Dev.link, Dev.onLink]

@[simp] theorem Dev.tenant_onTenant (d : Dev) (n k : Nat) (f : Tenant → Tenant) :
    (d.onTenant n f).tenant k = if k = n then f (d.tenant n) else d.tenant k := by
  simp [Dev.tenant, Dev.onTenant]

@[simp] theorem Dev.engine_onEngine (d : Dev) (n k : Nat) (f : Engine → Engine) :
    (d.onEngine n f).engine k = if k = n then f (d.engine n) else d.engine k := by
  simp [Dev.engine, Dev.onEngine]

@[simp] theorem Dev.core_onCore (d : Dev) (n k : Nat) (f : Core → Core) :
    (d.onCore n f).core k = if k = n then f (d.core n) else d.core k := by
  simp [Dev.core, Dev.onCore]

@[simp] theorem Dev.pc_onPc (d : Dev) (n k : Nat) (f : PcBlk → PcBlk) :
    (d.onPc n f).pc k = if k = n then f (d.pc n) else d.pc k := by
  simp [Dev.pc, Dev.onPc]

@[simp] theorem Dev.txModem_onTxm (d : Dev) (n k : Nat) (f : TxModem → TxModem) :
    (d.onTxm n f).txModem k = if k = n then f (d.txModem n) else d.txModem k := by
  simp [Dev.txModem, Dev.onTxm]

@[simp] theorem Dev.rxModem_onRxm (d : Dev) (n k : Nat) (f : RxModem → RxModem) :
    (d.onRxm n f).rxModem k = if k = n then f (d.rxModem n) else d.rxModem k := by
  simp [Dev.rxModem, Dev.onRxm]

/-- The number of a ring among all of them names its tenant and its kind. -/
theorem ringCode_inj {t u : Nat} {k j : RingKind} (h : 8 * t + ringCode k = 8 * u + ringCode j) : t = u ∧ k = j := by
  cases k <;> cases j <;> simp [ringCode] at h ⊢ <;> omega

@[simp] theorem Dev.ring_onRing_same (d : Dev) (t : Nat) (k : RingKind) (f : Ring → Ring) :
    (d.onRing t k f).ring t k = f (d.ring t k) := by simp [Dev.ring, Dev.onRing]

theorem Dev.ring_onRing (d : Dev) (t u : Nat) (k j : RingKind) (f : Ring → Ring) :
    (d.onRing t k f).ring u j = if u = t ∧ j = k then f (d.ring t k) else d.ring u j := by
  by_cases h : u = t ∧ j = k
  · obtain ⟨rfl, rfl⟩ := h; simp
  · have hk : 8 * u + ringCode j ≠ 8 * t + ringCode k := fun e => h (ringCode_inj e)
    simp [Dev.ring, Dev.onRing, hk, h]

@[simp] theorem State.pool_onPool (s : State) (m n : Nat) (f : Pool → Pool) :
    (s.onPool m f).pool n = if n = m then f (s.pool m) else s.pool n := by
  simp [State.pool, State.onPool]

/-! Reads that an update of another part leaves. -/

theorem Dev.reg_congr {d e : Dev} (h : d.regs = e.regs) (b : Nat) : d.reg b = e.reg b := by simp only [Dev.reg, h]

theorem Dev.actReg_congr {d e : Dev} (h : d.act = e.act) (b : Nat) : d.actReg b = e.actReg b := by simp only [Dev.actReg, h]

theorem Dev.icReg_congr {d e : Dev} (h : d.ic = e.ic) (b : Nat) : d.icReg b = e.icReg b := by simp only [Dev.icReg, h]

theorem Dev.carrier_congr {d e : Dev} (h : d.carriers = e.carriers) (k : Nat) : d.carrier k = e.carrier k := by simp only [Dev.carrier, h]

theorem Dev.flow_congr {d e : Dev} (h : d.flows = e.flows) (k : Nat) : d.flow k = e.flow k := by simp only [Dev.flow, h]

theorem Dev.lane_congr {d e : Dev} (h : d.lanes = e.lanes) (k : Nat) : d.lane k = e.lane k := by simp only [Dev.lane, h]

theorem Dev.port_congr {d e : Dev} (h : d.ports = e.ports) (k : Nat) : d.port k = e.port k := by simp only [Dev.port, h]

theorem Dev.die_congr {d e : Dev} (h : d.dies = e.dies) (k : Nat) : d.die k = e.die k := by simp only [Dev.die, h]

theorem Dev.cluster_congr {d e : Dev} (h : d.clus = e.clus) (k : Nat) : d.cluster k = e.cluster k := by simp only [Dev.cluster, h]

theorem Dev.overhead_congr {d e : Dev} (h : d.oh = e.oh) (k : Nat) : d.overhead k = e.overhead k := by simp only [Dev.overhead, h]

theorem Dev.region_congr {d e : Dev} (h : d.regions = e.regions) (k : Nat) : d.region k = e.region k := by simp only [Dev.region, h]

theorem Dev.link_congr {d e : Dev} (h : d.links = e.links) (k : Nat) : d.link k = e.link k := by simp only [Dev.link, h]

theorem Dev.tenant_congr {d e : Dev} (h : d.tenants = e.tenants) (k : Nat) : d.tenant k = e.tenant k := by simp only [Dev.tenant, h]

theorem Dev.engine_congr {d e : Dev} (h : d.engines = e.engines) (k : Nat) : d.engine k = e.engine k := by simp only [Dev.engine, h]

theorem Dev.core_congr {d e : Dev} (h : d.cores = e.cores) (k : Nat) : d.core k = e.core k := by simp only [Dev.core, h]

theorem Dev.txModem_congr {d e : Dev} (h : d.txm = e.txm) (k : Nat) : d.txModem k = e.txModem k := by simp only [Dev.txModem, h]

theorem Dev.rxModem_congr {d e : Dev} (h : d.rxm = e.rxm) (k : Nat) : d.rxModem k = e.rxModem k := by simp only [Dev.rxModem, h]

theorem Dev.pc_congr {d e : Dev} (h : d.pcs = e.pcs) (k : Nat) : d.pc k = e.pc k := by simp only [Dev.pc, h]

theorem Dev.ring_congr {d e : Dev} (h : d.rings = e.rings) (t : Nat) (k : RingKind) : d.ring t k = e.ring t k := by simp only [Dev.ring, h]

end Sys2Proof.Machine
end

