-- ==== Sys2Proof/Laws/Shared.lean ====
section
/-!
SUPPORT. The shared operations: each lemma says once which parts an operation can change, as the state with those parts replaced, so
that everything else follows by `simp`; and what a record that finds room is.
-/
namespace Sys2Proof.Machine
open RegMap

/-! Records and completions. -/

/-- The device with other rings, other free values and more sent. -/
def RecordsFrom (d e : Dev) : Prop := ∃ rs o n, e = { d with rings := rs, out := o ++ d.out, free := n }

theorem RecordsFrom.rfl' (d : Dev) : RecordsFrom d d := ⟨d.rings, [], d.free, rfl⟩

theorem RecordsFrom.trans {d e g : Dev} (h : RecordsFrom d e) (k : RecordsFrom e g) : RecordsFrom d g := by
  obtain ⟨rs, o, n, rfl⟩ := h
  obtain ⟨rs', o', n', rfl⟩ := k
  exact ⟨rs', o' ++ o, n', by simp⟩

theorem RecordsFrom.ite {d e g : Dev} {c : Prop} [Decidable c] (h : RecordsFrom d e) (k : RecordsFrom d g) :
    RecordsFrom d (if c then e else g) := by split <;> assumption

theorem Dev.onRing_records (d : Dev) (t : Nat) (k : RingKind) (f : Ring → Ring) : RecordsFrom d (d.onRing t k f) :=
  ⟨_, [], d.free, rfl⟩

theorem Dev.emit_records (d : Dev) (o : Out) : RecordsFrom d (d.emit o) := ⟨d.rings, [o], d.free, rfl⟩

theorem Dev.record_records (d : Dev) (t : Nat) (k : RingKind) (r : Rec) : RecordsFrom d (d.record t k r) := by
  unfold Dev.record
  dsimp only
  split
  · exact .rfl' d
  · split
    · exact d.onRing_records t k _
    · exact ⟨_, [_], _, rfl⟩

theorem Dev.ownerRecord_records (d : Dev) (r : Rec) : RecordsFrom d (d.ownerRecord r) := d.record_records 0 .event r
theorem Dev.event_records (d : Dev) (why : Why) (x obj : Nat) (l : List Nat) : RecordsFrom d (d.event why x obj l) :=
  d.record_records 0 .event _
theorem Dev.flowEvent_records (d : Dev) (why : Why) (f : Nat) (l : List Nat) : RecordsFrom d (d.flowEvent why f l) :=
  d.record_records _ .event _
theorem Dev.ringEvent_records (d : Dev) (t : Nat) (k : RingKind) : RecordsFrom d (d.ringEvent t k) := d.record_records 0 .event _

theorem Dev.ringMsix_records (d : Dev) (t : Nat) (k : RingKind) : RecordsFrom d (d.ringMsix t k) := by
  unfold Dev.ringMsix
  dsimp only
  split
  · exact d.onRing_records t k _
  · exact (d.emit_records _).trans (Dev.onRing_records _ t k _)

theorem Dev.complete_records (d : Dev) (t : Nat) (k : RingKind) (g : Granted) (st : Nat) (res : Word) :
    RecordsFrom d (d.complete t k g st res) := by
  unfold Dev.complete
  split
  · exact .rfl' d
  · dsimp only
    have h1 := (d.emit_records (.res t k g.idx res)).trans
      (Dev.emit_records _ (.st t k g.idx (BitVec.ofNat 8 (st + if g.late then 0x80 else 0))))
    exact .ite ((RecordsFrom.ite (h1.trans (Dev.record_records _ t .event _)) h1).trans (Dev.ringMsix_records _ t k))
      (.ite (h1.trans (Dev.record_records _ t .event _)) h1)

/-- A completed command leaves no command granted. -/
theorem Dev.completeCommand_records (d : Dev) (t st : Nat) (res : Word) : RecordsFrom d (d.completeCommand t st res) := by
  unfold Dev.completeCommand
  split
  · exact .rfl' d
  · exact (d.complete_records t .command _ st res).trans (Dev.onRing_records _ t .command _)

theorem Dev.completeCommand_granted (d : Dev) (t st : Nat) (res : Word) :
    ((d.completeCommand t st res).ring t .command).granted = none := by
  unfold Dev.completeCommand
  split
  · next h => exact h
  · simp

/-- What `RecordsFrom` says in the terms of the claims. -/
theorem RecordsFrom.onlyIn {s : State} {d : Dev} (h : RecordsFrom s.dev d) : OnlyIn recordParts s { s with dev := d } := by
  obtain ⟨rs, o, n, rfl⟩ := h
  rfl

theorem RecordsFrom.reg {d e : Dev} (h : RecordsFrom d e) (a : Nat) : e.reg a = d.reg a := by
  obtain ⟨rs, o, n, rfl⟩ := h; rfl

/-- What was sent stays sent. -/
theorem RecordsFrom.sends {d e : Dev} (h : RecordsFrom d e) : d.out <:+ e.out := by
  obtain ⟨rs, o, n, rfl⟩ := h; exact List.suffix_append o d.out

/-- A ring that takes records takes this one: it goes out at the ring's index and the index moves on (R397). -/
theorem Dev.record_room {d : Dev} {t : Nat} {k : RingKind} (he : (d.ring t k).en = true)
    (hr : (d.ring t k).used < 2 ^ (d.ring t k).lsize) (r : Rec) :
    (d.record t k r).out = .record t k (d.ring t k).idx (d.ring t k).seq (!(d.ring t k).cnt.testBit (d.ring t k).lsize) d.stamp r ::
        d.out ∧
      ((d.record t k r).ring t k).idx = (d.ring t k).idx + 1 := by
  have e : d.record t k r = ({ d.emit (.record t k (d.ring t k).idx (d.ring t k).seq (!(d.ring t k).cnt.testBit (d.ring t k).lsize)
      d.stamp r) with free := d.free + 1 } : Dev).onRing t k fun r => { r with idx := r.idx + 1, cnt := r.cnt + 1, seq := (r.seq + 1) % 2 ^ 32 } := by
    unfold Dev.record
    dsimp only
    rw [if_neg (by simp [he]), if_neg (Nat.not_le.2 hr)]
    rfl
  rw [e, Dev.ring_onRing_same]
  exact ⟨rfl, rfl⟩

/-- An event record with room is recorded. -/
theorem Dev.record_recorded {s : State} {n : Nat} (h : EventRoom s n) (r : Rec) :
    Recorded s { s with dev := s.dev.record n .event r } n r :=
  ⟨_, _, _, _, [], s.dev.out, (Dev.record_room h.1 h.2 r).1, List.suffix_refl _⟩

/-! Counters, sources and faults. -/

theorem Dev.pcAdd_form (d : Dev) (b i n : Nat) : ∃ rg ps e, RecordsFrom d e ∧ d.pcAdd b i n = { e with regs := rg, pcs := ps } := by
  unfold Dev.pcAdd
  dsimp only
  split
  · split
    · exact ⟨_, _, d, .rfl' d, rfl⟩
    · obtain ⟨rs, o, f, he⟩ := Dev.ownerRecord_records
        (((d.onPc b fun p => { p with cnt := SMap.put p.cnt i 0 ((SMap.get (d.pc b).cnt i 0 + n) % 2 ^ 96) }).setBit
          (pcBase b + 0x74) (i + 1)) ) ⟨.block, 16 * b + (i + 1), pcDie b, b, 0, []⟩
      exact ⟨_, _, { d with rings := rs, out := o ++ d.out, free := f }, ⟨_, _, _, rfl⟩, by rw [Dev.blockEvent, he]; rfl⟩
  · split
    · exact ⟨_, _, d, .rfl' d, rfl⟩
    · split
      · exact ⟨_, _, d, .rfl' d, rfl⟩
      · obtain ⟨rs, o, f, he⟩ := Dev.ownerRecord_records
          (((d.onPc b fun p => { p with cnt := SMap.put p.cnt i 0 ((SMap.get (d.pc b).cnt i 0 + n) % 2 ^ 48) }).setBit
            (pcBase b + 0x74) i)) ⟨.block, 16 * b + i, pcDie b, b, 0, []⟩
        exact ⟨_, _, { d with rings := rs, out := o ++ d.out, free := f }, ⟨_, _, _, rfl⟩, by rw [Dev.blockEvent, he]; rfl⟩

/-- A pending bit, or the shadow of a hold, takes the source. -/
theorem Dev.pend_form (d : Dev) (s : Nat) (b : Bool) : ∃ i c, d.pend s b = { d with ic := i, cores := c } := by
  unfold Dev.pend
  dsimp only
  split
  · exact ⟨d.ic, _, rfl⟩
  · exact ⟨_, d.cores, rfl⟩

theorem Dev.line_form (d : Dev) (s : Nat) : ∃ i c, d.line s = { d with ic := i, cores := c } := by
  unfold Dev.line
  split
  · exact ⟨d.ic, d.cores, rfl⟩
  · split
    · exact d.pend_form s true
    · obtain ⟨i, c, h⟩ := d.pend_form s true
      rw [h]
      obtain ⟨i', c', h'⟩ := Dev.pend_form { d with ic := i, cores := c } _ true
      exact ⟨i', c', h'⟩

theorem Dev.fresh_form (d : Dev) : d.fresh.2 = { d with free := d.free + 1 } := rfl

end Sys2Proof.Machine
end

