-- ==== Sys2Proof/WellFormed.lean ====
section
/-!
DEFINITION. Which commands are well formed: an operand that stands for a block, a message, a buffer or a list of the manual has
the length the manual gives it. Numbers of objects are bounded by their types. `exec` answers ill-formed commands too.
-/
namespace Sys2Proof

/-- The operands have their lengths: at most 8 lanes of a port (R43), the ADC codes of 4 dimensions (R216), at most 4 candidates
(R288), hard decisions on the 48 blocks of a codeword (R160), 64-byte TTIs (R153), 8 lanes (R359), 88-byte cells (R361), 36 samples (R363), 48
receive states (R385), 36 parameter bytes (Table 14-4), 5,120 line slots (R63), 2 carriers named for a direction (R328), 5 trims
(R329), 32-byte nonces and 64 peers (Table 16-4). -/
def Instr.wellFormed : Instr → Bool
  | .change clusters => decide clusters.Nodup
  | .txCryptoBlock _ lanes => decide (lanes.length ≤ 8)
  | .carrierFrameTx _ lanes => decide (lanes.length ≤ 8)
  | .carrierFrameRx _ codes acq => decide (codes.length = 4 ∧ acq.cands.length ≤ 4) &&
      codes.all fun l => decide (l.length = (codes.headD []).length) && l.all fun v => decide (-128 ≤ v ∧ v ≤ 127)
  | .unitSlot _ decided => decide (decided.map fun e => e.1).Nodup && decided.all fun e => decide (e.2.length = 48)
  | .refinementStep _ moves _ => decide (moves.length ≤ 5)
  | .skipSet _ found fill _ => decide (found.length = 8 ∧ fill.length = 8)
  | .cellReceived _ cell => decide (cell.length = 88)
  | .state _ msg => decide (msg.rxs.length = 48)
  | .sumReq _ tx rx => decide (tx.length ≤ 2 ∧ rx.length ≤ 2)
  | .summary _ _ _ _ _ _ samplesA samplesB => decide (samplesA.length = 36 ∧ samplesB.length = 36)
  | .hostReadCompletion _ _ res => match res with | .data d => decide (d.par.length ≤ 36) | _ => true
  | .flowCreate _ tx rx => (tx ++ rx).all fun x => decide (x < 5120)
  | .grant slots _ => slots.all fun x => decide (x < 5120)
  | .txTti _ buf => decide (buf.length = 64)
  | .expTti _ buf => decide (buf.length = 64)
  | .attest nonce => decide (nonce.length = 32)
  | .enrol _ nonce _ _ => decide (nonce.length = 32)
  | .peerList ids _ => decide (ids.length ≤ 64)
  | .registerWrite _ _ _ _ | .misalignedAccess _ _ | .broadcastWrite _ _ _ | .broadcastRead _ _ | .dieLossByCredit _
  | .dieLossBySupply _ | .unitFence _ | .commitRequest _ _ | .commitBoundary _ _ | .clusterReset _ _ _
  | .clusterResetEnd _ | .bridgeTimeout _ _ _ | .portMapWrite _ _ _ | .laneCtrlWrite _ _ _ | .laneReady _
  | .trainingComplete _ _ _ | .trainingTimeout _ | .trainingRestart _ | .eyeScanStart _ _ _ | .eyeScanDone _ _
  | .laneLossOfSignal _ | .laneSkewExceeded _ | .clientLocalFaultEnter _ _ | .clientFaultRestore _ | .oduMultiframe
  | .swapArm _ | .pageCopy _ | .pageCopyDone | .rxPageSwap | .rxLateSwap | .flowSkewEnter _ | .flowSkewExit _
  | .prepareAck _ | .prepareTimeout | .changeCommit | .bohBlockReceived _ | .rxCryptoBlock _ | .receiveSlotRetire _ | .keyRotate _
  | .rotationConfirmTimeout _ | .flowClusterMove _ | .contextExport _ | .spotCheck _ _ _ _
  | .delineationTimeout _ | .warmSearchTimeout _ | .retestTimeout _ | .packageBandMultiframe | .loliInterval _ _
  | .carrierDefectEnter _ _ | .carrierDefectExit _ _ | .flowDefectEnter _ _ | .flowDefectExit _ _ | .degSecond _ | .estimateWindowEnd _ | .oduFrameRx _
  | .codewordArrival _ _ | .codewordEmission _ | .outputBufferDrain _ _ | .unitMemoryError _ _ | .laserPoll _ _
  | .tuneTimeout _ | .rampStep _ | .rampEnd _ | .converterReady _ | .swingStep _ | .captureArm _ _ _ | .captureStart _
  | .captureDone _ | .sliceHandover _ _ | .deferredHandover _ | .backgroundRunEnd _ | .spiTransaction _
  | .spiTransactionEnd _ _ _ | .spiRetry _ | .i2cTransferEnd _ _ _ _ | .i2cStretchTimeout _ _ | .sdaStuckClear _ _ _
  | .gainDwell _ _ | .loSteerUpdate _ | .txTrimPeriod _ | .hkConversion _ _ | .hkUrgentRequest _ _
  | .hkSnapshotArm _ _ _ | .hkSnapshot _ _ | .hkCalibrate _ _ | .hkCalibrationEnd _ _ _ | .xhTxArm _ _ | .xhTxSwap _
  | .xhTxCopy _ _ | .xhRxCopy _ _ | .xhCopyDone _ _ | .xhRxSwap _ | .xhRxLateSwap _ | .xhBankEntryWrite _ _ _ _
  | .xhRxhWrite _ _ _ | .xhRxaLdWrite _ _ | .neighbourChange _ _ _ | .summaryAbsent _ _ _ | .refinementEvaluation _ _
  | .loopUpdate | .phaseSample _ _ | .sysoscLoss | .candidateDisqualify _ _ | .candidateMonitorsPass _ _
  | .waitToRestoreEnd _ | .timingLock | .tmCvWrite _ _ | .tmSwphWrite _ _ | .softwareTimeout | .historyStore
  | .rlTrainingFrame _ _ _ _ | .rlTrainingTimeout _ | .rlTrainingRestart _ | .rlRetrain _ _ | .hello _ _ | .helloSend
  | .helloTimeout _ | .epochReq _ | .epochGrant | .epochBusy | .epochReqTimeout | .epochSet _ _ _ | .cfgSyncRequest _
  | .cfgSyncResponse _ _ _ | .cfgSyncTimeout | .epochAdopt | .time _ _ | .timeSend | .stateSend | .stateTimeout _
  | .protectionHoldoff _ | .sumAck _ | .sumReqRepeat _ | .ctx _ _ | .ctxAck _ _ _ | .ctxAckTimeout _ _
  | .rlIdleEnter _ _ | .idleAnnounce _ | .rlSignalLoss _ | .rlIdleExit _ | .rlIdleExitTimeout _ | .doorbell _ _ _
  | .hostReadTimeout _ _ | .functionLevelReset _ | .busMasterDisable _ | .ringEnable _ _ _ | .commandGrant _
  | .msixModerationEnd _ _ | .cancel _ _ | .nop _ | .flowDelete _ | .statRead _ | .revoke _ | .bind _ | .unbind _
  | .telemSub | .telemetryPeriod | .engine _ | .protSetRemove | .protSetWorking | .protSetProtection | .protSetForce
  | .txField _ _ | .txGcc _ _ | .recv _ | .gccRecvTimeout _ _ | .capBuf | .matrixTimeout _ | .lateCompletion _
  | .pathWatchdog _ _ _ _ | .fenceRelease | .coreReset _ | .core3Reset _ | .dieWindowReset _ | .interruptSource _ _
  | .interruptDelivery _ _ _ | .eoi _ _ | .thaw _ | .hold _ _ | .holdTimeout _ | .icPendWrite _ _ _ _ | .moderationEnd _
  | .uartRxByte _ _ | .uartBreak | .uartDataWrite _ _ | .uartDataRead _ | .status | .selftest _ | .entropyHealthFailure
  | .wrapOut _ _ _ _ | .wrapIn _ _ _ _ _ | .ephemeralDrawn | .imageWrite _ | .imageWriteDone
  | .imageCommit _ | .zeroizeFlows _ | .zeroizeKeys _ | .zeroizeDevice _ | .zeroizationDone | .zeroizeNFall
  | .zeroizeNRise | .sensorTrip _ | .kaInit _ _ | .kaResp _ _ | .kaReady _ _ | .kaAbort _ _ | .kaInitRepeat _
  | .kaTimeout _ | .dpCtrlWrite _ _ _ | .dpBankSwap _ _ | .detectorWindowEnd _ _ | .ptaEnter _ | .ptaExit _
  | .dpCaptureArm _ _ _ | .dpCaptureDone _ _ | .pmSecond | .counterOverflow _ _ | .counterLoRead _ _ _ _
  | .glbTimeLoRead _ | .pcGlbSnap _ | .pcGlbFreeze _ | .pcGlbClear _ | .pcGlbTick | .blockFreeze _ _ _
  | .blockClear _ _ | .reqRun _ | .reqIdle _ | .reqSleep _ | .reqDeep _ | .reqOff _ | .entryWindow
  | .stateTransitionDone | .hostAccessWake _ | .wakeTimerExpiry | .wakeEdge | .wakeLevel | .lightDetect _ _
  | .linkSignalWake _ | .offWake | .regionGate _ _ _ | .regionReady _ | .lingerExpiry _ | .padRelease _ _ _
  | .avsStep _ _ | .readVoutPoll _ _ | .avsStepTimeout _ | .bcRead _ | .bcWrite _ | .faultAssert _ _
  | .faultStatusClear _ _ _ | .faultInject _ _ _ _ | .collectorClockLoss | .correctedError _ | .uncorrectableError _
  | .hubDatapathReset _ | .hubDatapathResetEnd | .fullCalibration _ _ _ | .fullCalibrationEnd _ _ _
  | .burnishSample _ _ _ | .calStoreDone _ | .powerOnReset | .resetNFall | .resetNRise _ _ | .bootComplete
  | .deviceResetCommand _ | .regionReset _ _ | .laneSignalReturn _ | .pcsAlignmentGain _ | .suppliesRemoved
  | .ringEngineReset _ | .linkAgentReset | .dieWindowResetEnd _ | .uartByteSent => true

end Sys2Proof
end

