-- ==== Sys2Proof/Tests/Slice0.lean ====
section
/-!
SUPPORT. The model's own tests: small states built by helpers; for every statement with hypotheses a concrete state and operands
that meet them (one for each clause, at the edges of its operands' ranges); terms that the well-formedness check refuses; and single
steps against the manual's tables and worked examples.
-/
set_option maxRecDepth 100000
set_option Elab.async false
namespace Sys2Proof.Tests
open Sys2Proof.Machine Sys2Proof.Machine.RegMap

/-- A booted device that nothing has set up. -/
def up : State := { dev := { boot := .ready, resetLow := false } }

/-- The booted device after `f`. -/
def upWith (f : Dev → Dev) : State := up.on f

/-- Port `p` is enabled over lanes `l` and `l + 1`, which are powered and ready. -/
def portOn (p l : Nat) (d : Dev) : Dev :=
  (((d.setReg (laneBase l) 0).setReg (laneBase (l + 1)) 0).setReg (aPortMap p) (BitVec.ofNat 32 (3 + 8 * l))).onLane l fun k =>
    { k with ready := true }

/-- Both lanes `l` and `l + 1` have trained. -/
def trained (l : Nat) (d : Dev) : Dev :=
  (d.onLane l fun k => { k with ready := true, trained := true }).onLane (l + 1) fun k => { k with ready := true, trained := true }

/-- The event ring of tenant `n` takes `2 ^ 5` records. -/
def ringsOn (n : Nat) (d : Dev) : Dev := d.onRing n .event fun r => { r with cfg := 0x25 }

/-- Carrier `c` is enabled. -/
def carrierOn (c : Nat) (d : Dev) : Dev := (d.setReg (carrBase c) 1).setAct (carrBase c) 1

/-- The receive modem of enabled carrier `c` is in state `st`. -/
def rxIn (c st : Nat) (d : Dev) : Dev := (carrierOn c d).setFld (aRxStat c) ⟨0, 3⟩ st

/-- Carrier `c` is in state `st`. -/
def txIn (c st : Nat) (d : Dev) : Dev := (carrierOn c d).setCState c st

/-- Flow `f` of tenant 1 exists, with two slots and `k` its further state. -/
def flowOn (f : Nat) (k : Flow → Flow) (d : Dev) : Dev := d.onFlow f fun _ => k { alive := true, owner := 1, slots := 2 }

/-- A key slot that holds a key. -/
def aKey (n : Nat) : KeySlot := { loaded := true, key := BitVec.ofNat 256 n, salt := 5 }

/-- A descriptor of operation `op`. -/
def descOf (op obj : Nat) (par : List Byte) : Desc := ⟨BitVec.ofNat 16 op, 0, 7, BitVec.ofNat 32 obj, 0, 0, par⟩

/-- A command granted to tenant `n` at index 5. -/
def granted (n : Nat) (ds : Desc) (d : Dev) : Dev :=
  d.onRing n .command fun r => { r with granted := some ⟨5, ds, false, false⟩ }

/-- Connection memory with one entry and one base. -/
def someConn : Conn := (((({} : Conn).setEntry 0 false 5119 (entryOf 4095 319)).setEntry 1 false 3 (entryOf 1 0)).setEntry 0 true 0
  (entryOf 1 1)).setBase 0 true 47 5119

/-- The slices that carry a band overhead block. -/
def slicesOf (b : List Byte) : List (List Byte) :=
  (List.range 256).map fun i => withCrc8 [BitVec.ofNat 8 i, b.getD (2 * i) 0, b.getD (2 * i + 1) 0]

/-- A band overhead block of carrier 46 that is accepted. -/
def aBlock : List Byte :=
  let b := [1, 46] ++ List.replicate 506 (0 : Byte)
  b ++ bytesOf 4 (crc32 b).toNat

/-- Received carrier `c` is in frame, its multiframes arriving at `n`. -/
def framedAt (c n : Nat) (d : Dev) : Dev :=
  ((rxIn c rxLocked d).onCarrier c fun k => { k with arrival := some n, delin := some 0 }).onOverhead (4096 + c) fun o => { o with oof := false, oom := false }

/-- Flow 4095 spread over two carriers whose arrivals are `n` apart, at a deskew depth of 0.3 µs. -/
def skewed (n : Nat) : State :=
  { upWith (fun d => (flowOn 4095 id (framedAt 0 0 (framedAt 1 n d))).setAct 0x140020 3) with
    conn := ((({} : Conn).setEntry 0 true 0 (entryOf 4095 0)).setEntry 0 true 400 (entryOf 4095 1)).setBase 0 true 1 400 }

/-- A change of three clusters at band multiframe 9, of which two have not acknowledged; another command than 5 started it. -/
def aChange : Change := ⟨[.carrier 47, .pool 3, .timing], [.carrier 47, .pool 3], [], false, 9, false, true, false, 6, none⟩

/-- The leading bytes of a received ODUflex frame: its MFAS, status byte and the byte behind it. -/
def headOf (mfas status x : Byte) : List Byte := List.replicate 6 0 ++ [mfas] ++ List.replicate 7 0 ++ [status, x]

/-- A received frame that carries byte `x` of a tag. -/
def tagFrame (x : Byte) : List Byte := List.replicate 11487 0 ++ [x]

/-- The 64 frames of a block under key indicator `ki` at counter `n`. -/
def blockFrames (ki : Bool) (n : Nat) : List (List Byte) :=
  (List.range 64).map fun i =>
    headOf (BitVec.ofNat 8 i) (BitVec.ofNat 8 (i + if ki then 0x80 else 0)) ((bytesOf 8 n).getD i 0)

/-- Those frames and 16 behind them. -/
def blockThen (ki : Bool) (n : Nat) : List (List Byte) := blockFrames ki n ++ List.replicate 16 []

/-- What a block reads as that the first 16 of `next` follow. -/
def aRxBlock (ki : Bool) (n : Nat) (next : List (List Byte) := List.replicate 16 []) : RxBlock := rxBlockOf (blockFrames ki n) next

/-- The tag frames of a block under the key `aKey 1`. -/
def tagsOf (ki : Bool) (n : Nat) : List (List Byte) :=
  (bytesOf 16 (gcmTag (aKey 1).key (blockIv (aKey 1) (BitVec.ofNat 64 n)) (aRxBlock ki n).aad (aRxBlock ki n).text).toNat).map tagFrame

/-- A frame of a flow without errors with STAT `st` and FAS. -/
def flexFrame (st : Byte) : List Byte := fas ++ List.replicate (2 * 3824 + 11 - 6) 0 ++ [st] ++ List.replicate (4 * 3824 - 2 * 3824 - 12) 0

/-- An agreement that this side began as identifier 7 and that has loaded its slots. -/
def aKa : Ka :=
  { initiator := true, id := 7, dirs := 3, newFlow := false, nonce := [1], secret := [2], salt := [3], answered := true,
    loaded := true, loadedTx := some true, loadedRx := some true }

/-- A message of content `c` from a peer of identity 9. -/
def kaSent (c : List Byte) : KaMsg := ⟨escape (c ++ bytesOf 4 (crc32 c).toNat), ⟨true, true, 9⟩, [5]⟩

/-- KA_INIT and KA_RESP of agreement 7 for flow `f` with nonces of zeros, KA_READY and KA_ABORT. -/
def initMsg (f : Nat) (dirs : Byte) : KaMsg := kaSent (gcc2Head 1 f 7 ++ [dirs] ++ List.replicate 1890 0)
def respMsg (f : Nat) : KaMsg := kaSent (gcc2Head 2 f 7 ++ List.replicate 1890 0)
def readyMsg (f : Nat) (role : Byte) (confirm : BitVec 128) : KaMsg := kaSent (gcc2Head 3 f 7 ++ [role] ++ bytesOf 16 confirm.toNat)
def abortMsg (f : Nat) : KaMsg := kaSent (gcc2Head 4 f 7 ++ [0])

/-- What a search finds when candidate 0 measures `m`. -/
def found (m : Metric) : Acq := ⟨[(m, 0)], 0, 0⟩

/-- A codeword of carrier 11 of its pool with its times. -/
def aCw (arr emit : Nat) : Cw := { x := 11, arr := arr, deadline := arr + 1000, emit := emit, iter := 0, marked := false }

/-- A write of 9 to engine address 7 in class `cls`. -/
def aSpi (cls : Nat) : Spi := ⟨cls, false, 7, 9, false, none, false⟩

/-- Region `g` changed by `f`. -/
def regionWith (g : Nat) (f : Region → Region) : State := upWith fun d => d.onRegion g f

/-- A background run at slice position `n`. -/
def aRun (n : Nat) : CalRun := ⟨3000, n, false, [], []⟩

/-- The timing core in state `st` on candidate `n`, a GNSS input of priority 1 that is qualified. -/
def timed (n st : Nat) (d : Dev) : Dev :=
  { (((d.setReg (aCand n) 0x40000).setAct (aCand n) 0x401).setTState st) with tm := { inUse := some n } }

/-- Link `j` of package 0 is enabled and in state `st`. -/
def linkIn (j st : Nat) (d : Dev) : Dev := (d.setReg aRlCfg (BitVec.ofNat 32 (4 + 2 ^ (3 + j)))).setLState j st

/-- The packages of mask `m` form a set that package `l` leads. -/
def setOf (l m : Nat) (d : Dev) : Dev := d.setReg aRlSet (BitVec.ofNat 32 (1 + 2 * l + 16 * m))

/-- HELLO of package `k`. -/
def helloOf (k : Fin 4) (view : BitVec 4) : Hello :=
  { k := k, ver := 0, en := true, ident := Config.identity + 1, epoch := 0, view := view, seq := 0 }

/-- A cell of type `ty` with a right check. -/
def aCell (ty : Nat) : List Byte :=
  let b := [BitVec.ofNat 8 ty, 1, 7, 0] ++ List.replicate 80 3
  b ++ bytesOf 4 (crc32 b).toNat

/-- PROT_SET of value `v` for flow 4095 with peer flow 7 of package 3 and a hold-off of 1,000. -/
def protDesc (v : Nat) : Desc := descOf 0x140 4095 [BitVec.ofNat 8 v, 3, 7, 0, 0xE8, 3]

/-- Flow 4095 exists and PROT_SET of value `v` is granted. -/
def protOn (v : Nat) (d : Dev) : Dev := flowOn 4095 id (granted 0 (protDesc v) d)

/-- Tenant `n` is bound to function `fn`. -/
def boundTo (n fn : Nat) (d : Dev) : Dev := d.setReg (aTenBind n) (BitVec.ofNat 32 (fn + 2 ^ 13))

/-- Ring `k` of tenant `n`, which is bound to function 256, takes `2 ^ 5` entries and is changed by `f`. -/
def ringWith (n : Nat) (k : RingKind) (f : Ring → Ring) (d : Dev) : Dev :=
  (boundTo n 256 d).onRing n k fun r => f { r with cfg := 0x525 }

/-- FLOW_CREATE of flow 4095 on port 3 with 80 slots. -/
def createDesc : Desc := descOf 0x10 4095 [3, 1, 80, 0, 0]

/-- Tenant 5 has been granted flow 4095, port 3 and the slots below 80, and its FLOW_CREATE is granted. -/
def creating (d : Dev) : Dev :=
  ((granted 5 createDesc (portOn 3 4 d)).onTenant 5 fun _ => { grants := [(4095, 3, List.range 80)] })

/-- An authorisation newer than the first. -/
def anAuth : Auth := ⟨7, true, true⟩

theorem another_identity : Config.identity + 1 ≠ Config.identity := by
  intro h
  have := congrArg BitVec.toNat h
  simp [BitVec.toNat_add] at this
  omega


/-! Facts about free values that some witnesses need. -/

theorem tags_read_back (l : List Byte) : ((l.map tagFrame).flatMap fun fr => flexAt fr 4 16 1) = l := by
  induction l with
  | nil => rfl
  | cons x l ih =>
    have h : flexAt (tagFrame x) 4 16 1 = [x] := by
      show ((List.replicate 11487 (0 : Byte) ++ [x]).drop 11487).take 1 = [x]
      rw [List.drop_left' List.length_replicate]
      rfl
    rw [List.map_cons, List.flatMap_cons, ih, h]
    rfl

theorem tag_of_its_frames :
    (aRxBlock false 1 (tagsOf false 1)).tag =
      gcmTag (aKey 1).key (blockIv (aKey 1) 1) (aRxBlock false 1).aad (aRxBlock false 1).text := by
  have h : ∀ t : BitVec 128, BitVec.ofNat 128 (ofBytes ((((bytesOf 16 t.toNat).map tagFrame).take 16).flatMap
      fun fr => flexAt fr 4 16 1)) = t := by
    intro t
    rw [List.take_of_length_le (by simp), tags_read_back, ofBytes_bytesOf 16 _ (by have := t.isLt; omega), BitVec.ofNat_toNat]
    simp
  exact h _

theorem own_block_authenticates (w : Flow) (h1 : w.rx0 = aKey 1) (h2 : w.last0 = none) :
    w.authCause (aRxBlock false 1 (tagsOf false 1)) = none := by
  have hf : (aRxBlock false 1 (tagsOf false 1)).formCause = none := by decide +kernel
  have hk : (aRxBlock false 1 (tagsOf false 1)).ki = false := by decide +kernel
  have hc : (aRxBlock false 1 (tagsOf false 1)).counter = 1 := by decide +kernel
  have ha : (aRxBlock false 1 (tagsOf false 1)).aad = (aRxBlock false 1).aad := rfl
  have ht : (aRxBlock false 1 (tagsOf false 1)).text = (aRxBlock false 1).text := rfl
  simp [Flow.authCause, hf, hk, hc, ha, ht, Flow.rx, Flow.last, h1, h2, tag_of_its_frames]

/-- The frames of a block and those with its tag are the next block. -/
theorem block_and_its_tag (w : Flow) (h : w.rxFrames = blockFrames false 1 ++ tagsOf false 1) :
    w.nextBlock = some (aRxBlock false 1 (tagsOf false 1), tagsOf false 1) := by
  have hd : (blockFrames false 1 ++ tagsOf false 1).dropWhile (fun fr => decide (flexMfas fr % 64 ≠ 0)) =
      blockFrames false 1 ++ tagsOf false 1 := by
    rfl
  have hb : (blockFrames false 1).length = 64 := by decide +kernel
  have ht : (tagsOf false 1).length = 16 := by simp [tagsOf]
  rw [Flow.nextBlock, h, hd]
  simp [hb, ht, List.take_left' hb, List.drop_left' hb, aRxBlock]

theorem other_value (t : BitVec 128) : t + 1 ≠ t := by
  intro h
  have := congrArg BitVec.toNat h
  simp [BitVec.toNat_add] at this
  omega

theorem ready_reads_back (t : BitVec 128) :
    (readyMsg 4095 1 t).good 3 4095 = true ∧ aKa.id = (readyMsg 4095 1 t).id ∧ (readyMsg 4095 1 t).role = 1 ∧
      (readyMsg 4095 1 t).confirm = t := by
  have h : (readyMsg 4095 1 t).content = some (gcc2Head 3 4095 7 ++ [1] ++ bytesOf 16 t.toNat) := KaMsg.content_sent _ _ _
  have ht : BitVec.ofNat 128 (ofBytes (bytesOf 16 t.toNat)) = t := by
    rw [ofBytes_bytesOf 16 _ (by have := t.isLt; omega), BitVec.ofNat_toNat]
    simp
  have hl : (gcc2Head 3 4095 7 ++ [(1 : Byte)]).length = 8 := rfl
  have hd : ∀ i n : Nat, i + n ≤ 8 → ((gcc2Head 3 4095 7 ++ [(1 : Byte)] ++ bytesOf 16 t.toNat).drop i).take n =
      ((gcc2Head 3 4095 7 ++ [(1 : Byte)]).drop i).take n := by
    intro i n hi
    rw [List.drop_append_of_le_length (by omega), List.take_append_of_le_length (by rw [List.length_drop]; omega)]
  refine ⟨?_, ?_, ?_, ?_⟩
  · simp only [KaMsg.good, h, List.length_append, length_bytesOf]
    rw [hd 1 2 (by omega), show List.take 1 (gcc2Head 3 4095 7 ++ [(1 : Byte)] ++ bytesOf 16 t.toNat) = _ from hd 0 1 (by omega)]
    decide +kernel
  · simp only [KaMsg.id, KaMsg.field, h, Option.getD_some, hd 3 4 (by omega)]
    decide +kernel
  · simp only [KaMsg.role, KaMsg.field, h, Option.getD_some, hd 7 1 (by omega)]
    decide +kernel
  · simp only [KaMsg.confirm, KaMsg.field, h, Option.getD_some]
    rw [List.drop_left' hl, List.take_of_length_le (by simp), ht]

/-! A receive modem without new samples, whose one recovered frame waits. -/

theorem inverse_nonneg {x : Rat} (h : 0 ≤ x) : 0 ≤ x⁻¹ := by
  by_cases hx : x = 0
  · simp [hx]
  · exact Rat.le_of_lt (Rat.inv_pos.2 (by grind))

theorem nothing_to_resample (fs f step place turns : Rat) (h : 0 ≤ step) (hp : 0 ≤ place) :
    resample [] fs f step place turns = [] := by
  have hq : ((0 : Rat) - (Config.pulseSpan : Rat) - 1 - place) / step ≤ 0 := by
    have hs : (0 : Rat) ≤ (Config.pulseSpan : Rat) := Rat.natCast_nonneg
    have hi : 0 ≤ step⁻¹ := inverse_nonneg h
    have hn : 0 ≤ (Config.pulseSpan : Rat) + 1 + place := by grind
    rw [Rat.div_def, show (0 : Rat) - (Config.pulseSpan : Rat) - 1 - place = -((Config.pulseSpan : Rat) + 1 + place) by grind, Rat.neg_mul]
    have := Rat.mul_nonneg hn hi
    grind
  have hc : (((0 : Rat) - (Config.pulseSpan : Rat) - 1 - place) / step).ceil ≤ 0 := Rat.ceil_le_iff.2 hq
  simpa [resample] using hc

theorem workStep_nonneg (fs rate : Nat) : 0 ≤ workStep fs rate 0 := by
  have h : ∀ x : Rat, 0 ≤ x → 0 ≤ (5 / 4 * (x / 8) * (1 + 0 / 100000000) : Rat) := by
    intro x hx
    have : (5 / 4 * (x / 8) * (1 + 0 / 100000000) : Rat) = 5 / 32 * x := by grind
    rw [this]
    exact Rat.mul_nonneg (by decide +kernel) hx
  exact Rat.mul_nonneg Rat.natCast_nonneg (inverse_nonneg (h _ Rat.natCast_nonneg))

theorem dpTap_rest (d : Dev) (c pt : Nat) (k kp : Rat) :
    (d.dpTap c pt k kp []).rxm = d.rxm ∧ (d.dpTap c pt k kp []).act = d.act ∧ (d.dpTap c pt k kp []).regs = d.regs := by
  unfold Dev.dpTap
  split <;> exact ⟨rfl, rfl, rfl⟩

/-- Without new samples a modem with no history equalises none, and what waits in it stays. -/
theorem front_without_samples (d : Dev) (c : Nat) (hs : List RxHeld) (hm : d.rxModem c = { run := true, held := hs }) :
    ((d.rxFront c []).rxModem c).held = hs ∧ ((d.rxFront c []).rxModem c).eqOut = [] ∧
      ((d.rxFront c []).rxModem c).eqBase = 0 ∧ ((d.rxFront c []).rxModem c).symAt = 0 ∧
      (d.rxFront c []).act = d.act ∧ (d.rxFront c []).regs = d.regs := by
  have hi : d.inputStage c [] = [] := rfl
  have hr : resample [] (d.sampleRate (c / 6)) (d.fofsGHz c) (workStep (d.sampleRate (c / 6)) (d.rxRate c) 0) 0 0 = [] :=
    nothing_to_resample _ _ _ _ _ (workStep_nonneg _ _) (by decide)
  have key : ∀ (e : Dev) (l : List Pol), l = [] → (e.rxModem c).held = hs ∧ (e.rxModem c).eqOut = [] ∧ (e.rxModem c).eqBase = 0 ∧
      (e.rxModem c).symAt = 0 ∧ e.act = d.act ∧ e.regs = d.regs →
      ((e.dpTap c 1 4096 4096 l).rxModem c).held = hs ∧ ((e.dpTap c 1 4096 4096 l).rxModem c).eqOut = [] ∧
      ((e.dpTap c 1 4096 4096 l).rxModem c).eqBase = 0 ∧ ((e.dpTap c 1 4096 4096 l).rxModem c).symAt = 0 ∧
      (e.dpTap c 1 4096 4096 l).act = d.act ∧ (e.dpTap c 1 4096 4096 l).regs = d.regs := by
    rintro e l rfl he
    obtain ⟨h1, h2, h3⟩ := dpTap_rest e c 1 4096 4096
    rwa [Dev.rxModem_congr h1, h2, h3]
  unfold Dev.rxFront
  have hcd : ∀ a b e, cdStage a b e [] = ([], []) := fun _ _ _ => by simp [cdStage, overlapSave]
  simp only [hm, hi, List.append_nil, hr, hcd, List.length_nil, Nat.zero_div, RxModem.equalise, track]
  refine key _ _ rfl ?_
  simp only [Dev.rxModem_onRxm, if_pos]
  exact ⟨trivial, trivial, trivial, trivial, rfl, rfl⟩

/-- The frame that waits is demapped then, and keeps its measurement. -/
theorem frame_that_waits (d : Dev) (c : Nat) (h : RxHeld) (hm : d.rxModem c = { run := true, held := [h] })
    (hc : d.cancels c = false) :
    (d.rxNative c []).2 = [((d.rxFront c []).rxDemap c h).2] ∧ ((d.rxFront c []).rxDemap c h).2.use = h.use := by
  obtain ⟨h1, h2, h3, h4, h5, h6⟩ := front_without_samples d c [h] hm
  have hn : ((d.rxFront c []).rxModem c).nextSymbols = none := by
    have hs : (0 : Rat) ≤ (Config.pulseSpan : Rat) := Rat.natCast_nonneg
    rw [RxModem.nextSymbols, if_neg]
    rw [h2, h3, h4]
    simp [frameLen]
    grind
  have hk : (d.rxFront c []).cancels c = false := by
    rw [← hc]
    simp only [Dev.cancels, Dev.cZr, Dev.bit, Dev.actReg, Dev.reg, h5, h6]
  refine ⟨?_, rfl⟩
  simp [Dev.rxNative, Dev.rxRecoverAll, hn, h1, Dev.rxDemapAll, hk]

/-- Carrier 47 is in LOCKED behind three lossy frames, and a further lossy one waits. -/
def lossyFrameWaits : State :=
  upWith fun d => ((rxIn 47 rxLocked d).onCarrier 47 fun k => { k with badMet := 3 }).onRxm 47 fun m =>
    { m with run := true, held := [⟨[], ⟨299, 300, 0, 0⟩, 0, 0, 0⟩] }

theorem lossy_frame_witness :
    ((rxInput lossyFrameWaits 47 []).rxNative 47 []).2 =
        [(((rxInput lossyFrameWaits 47 []).rxFront 47 []).rxDemap 47 ⟨[], ⟨299, 300, 0, 0⟩, 0, 0, 0⟩).2] ∧
      metricLossy (((rxInput lossyFrameWaits 47 []).rxFront 47 []).rxDemap 47 ⟨[], ⟨299, 300, 0, 0⟩, 0, 0, 0⟩).2.use = true := by
  obtain ⟨h1, h2⟩ := frame_that_waits (rxInput lossyFrameWaits 47 []) 47 ⟨[], ⟨299, 300, 0, 0⟩, 0, 0, 0⟩ rfl (by decide +kernel)
  exact ⟨h1, by rw [h2]; decide +kernel⟩

/-! Witnesses of the statements' hypotheses. -/

theorem test_witness_IdleStepIsOneMicrosecond :
    ∃ (s : State), s.pending = [] :=
  ⟨up, by decide +kernel⟩

theorem test_witness_ConnectionMemoryFrame :
    ∃ (c : Instr) (s : State), reachesConn c = false :=
  ⟨(.uartBreak), up, by decide +kernel⟩

theorem test_witness_RejectedWriteIsRecorded :
    ∃ (s : State) (m : Master) (a : Addr) (w : Word) (win : Window), windowOf a.toNat = some win ∧ Rejected s m a.toNat w :=
  ⟨(upWith fun d => (ringsOn 0 d).setReg 0x140010 1), .pcie, (0x140014), 1, ⟨0x140000,12,0x140FF0⟩, by decide +kernel⟩

theorem test_witness_MisalignedAccessIsDiscarded :
    ∃ (s : State) (bar : Bar) (read : Bool), s.dev.barOpen = true :=
  ⟨up, (.bar0), true, by decide +kernel⟩

theorem test_witness_ConfigurationWritesTheShadow :
    (∃ (s : State) (m : Master) (a : Addr) (w : Word) (e : RegDesc) (is : List Nat), s.reaches m a.toNat = some (e, is) ∧
      s.dev.writeBad m e is a.toNat w {} = false ∧ e.cl ≠ .none) ∧
    (∃ (s : State) (m : Master) (w : Word), Accepted s m 4 w) :=
  ⟨⟨up, (.link), (0x140020), 160, ⟨.dskCtrl, 0x140020, [], .switch, [RegMap.rwR 0 8 3 160 160]⟩, ([]), by decide +kernel⟩,
   ⟨up, (.core 3), 0xFFFFFFFF, by decide +kernel⟩⟩

theorem test_witness_BroadcastsReachEveryMember :
    (∃ (s : State) (m : Master) (i : Fin 29) (w : Word), s.dev.apMembers i ≠ [] ∧ everyMember s m (s.dev.apMembers i) 0x10 w) ∧
    (∃ (s : State) (m : Master) (i : Fin 29) (v : Word), s.dev.apMembers i ≠ [] ∧ (∀ c ∈ s.dev.apMembers i, s.dev.memberSkipped 0 c
      false = false ∧ Readable s m (carrBase c + 0x10)) ∧ s.dev.reg (aCarrSym ((s.dev.apMembers i).headD 0)) = v) ∧
    (∃ (s : State) (m : Master) (n : Fin 16), s.open m = true ∧ s.dev.groupMembers n = []) :=
  ⟨⟨up, (.pcie), 0, 0x0F0190, by decide +kernel⟩,
   ⟨up, (.engine 1), 12, (up.dev.reg (aCarrSym 36)), by decide +kernel⟩,
   ⟨up, (.pcie), 15, by decide +kernel⟩⟩

theorem test_witness_CommitAndClusterReset :
    (∃ (s : State) (m : Master) (k : Cluster), Accepted s m (cmtAddr k) 1 ∧ s.dev.cmtPending k = false) ∧
    (∃ (s : State) (m : Master) (k : Cluster) (req : Bool), Accepted s m (cmtAddr k) (if req then 9 else 8)) :=
  ⟨⟨up, (.pcie), (.carrier 47), by decide +kernel⟩,
   ⟨up, (.pcie), (.carrier 47), true, by decide +kernel⟩⟩

theorem test_witness_CommitTakesTheWholeShadow :
    ∃ (s : State) (k : Cluster) (side : Side), wholeCluster k ∧ s.dev.cmtPending k = true ∧ (s.dev.cluster (clusterCode k)).reset
      = false ∧ s.dev.check [k] k false = true :=
  ⟨(upWith fun d => d.setReg (cmtAddr (.pool 3)) 0xFFFF0003), (.pool 3), (.both), by decide +kernel⟩

theorem test_witness_CommitCheckRefuses :
    ∃ (s : State) (k : Cluster) (side : Side), s.dev.cmtPending k = true ∧ (s.dev.cluster (clusterCode k)).reset = false ∧
      (s.dev.cluster (clusterCode k)).txDone = false ∧ (s.dev.cluster (clusterCode k)).rxDone = false ∧ (s.dev.cluster
      (clusterCode k)).due = false ∧ s.dev.check [k] k false = false :=
  ⟨(upWith fun d => ((ringsOn 0 d).setReg (cmtAddr (.carrier 47)) 3).setReg (carrBase 47) 0x3), (.carrier 47), (.tx), by decide +kernel⟩

theorem test_witness_DiesBridgesAndFences :
    (∃ (s : State) (x : Fin 16), x.val ≠ 12 ∧ s.dev.dieGated x = false ∧ (s.dev.die x).lost = false ∧ logOrSafe s x 0 ∧ logOrSafe s
      12 0) ∧
    (∃ (s : State) (x : Fin 16), x.val ≠ 12 ∧ (s.dev.die x).lost = false ∧ logOrSafe s x 1) ∧
    (∃ (s : State), (s.dev.die 12).lost = false) ∧
    (∃ (s : State) (x : Fin 16) (y : Fin 16) (n : Option (Fin 48)), s.dev.bridgeRetried (16 * x.val + y.val) = false) ∧
    (∃ (s : State) (x : Fin 16) (y : Fin 16) (n : Option (Fin 48)), s.dev.bridgeRetried (16 * x.val + y.val) = true ∧ logOrSafe s x
      0 ∧ logOrSafe s y 0) ∧
    (∃ (s : State) (m : Fin 4) (u : Fin 448), (∀ e ∈ (s.pool m).units, e.1 ≠ u) ∧ (∀ e ∈ (s.pool m).held, e.1 ≠ u) ∧ logOrSafe s (8
      + m) 20) :=
  ⟨⟨(upWith (ringsOn 0)), 15, by decide +kernel⟩,
   ⟨(upWith (ringsOn 0)), 0, by decide +kernel⟩,
   ⟨(upWith (ringsOn 0)), by decide +kernel⟩,
   ⟨(upWith (ringsOn 0)), 0, 15, none, by decide +kernel⟩,
   ⟨(upWith fun d => { ringsOn 0 d with bridgeRetry := [(15, 1)] }), 0, 15, (some 47), by decide +kernel⟩,
   ⟨up, 3, 447, by decide +kernel⟩⟩

theorem test_witness_PortBringUp :
    (∃ (s : State) (m : Master) (p : Fin 64) (w : Word), Accepted s m (aPortMap p) w) ∧
    (∃ (s : State) (m : Master) (l : Fin 128) (w : Word), Accepted s m (laneBase l) w) ∧
    (∃ (s : State) (l : Fin 128), s.dev.lanePd l = false ∧ s.dev.laneDead l = false) ∧
    (∃ (s : State) (l : Fin 128) (p : Nat) (far : List TapAsk) (near : List TapAsk), (s.dev.lane l).ready = true ∧ s.dev.portOfLane
      l = some p) ∧
    (∃ (s : State) (p : Fin 64), s.dev.portEn p = true ∧ s.dev.allTrained p = true ∧ s.dev.anyLos p = false ∧ s.dev.portLost p =
      false) :=
  ⟨⟨(upWith fun d => (d.setReg (laneBase 126) 0).setReg (laneBase 127) 0), (.pcie), 63, (3 + 8 * 126), by decide +kernel⟩,
   ⟨(upWith (portOn 63 0)), (.pcie), 127, 7, by decide +kernel⟩,
   ⟨(upWith (portOn 63 126)), 127, by decide +kernel⟩,
   ⟨(upWith (portOn 63 126)), 126, 63, [], [], by decide +kernel⟩,
   ⟨(upWith fun d => trained 126 (portOn 63 126 d)), 63, by decide +kernel⟩⟩

theorem test_witness_PortStatusFollowsItsLanes :
    (∃ (s : State) (p : Fin 64), s.dev.portEn p = true) ∧
    (∃ (s : State) (l : Fin 128), s.dev.lanePd l = false ∧ s.dev.laneDead l = false) :=
  ⟨⟨(upWith fun d => ringsOn 0 (portOn 63 126 d)), 63, by decide +kernel⟩,
   ⟨(upWith fun d => trained 126 (portOn 63 126 d)), 127, by decide +kernel⟩⟩

theorem test_witness_IngressReplacementAndEyeScans :
    (∃ (s : State) (p : Fin 64) (why : Ingress), s.dev.portEn p = true ∧ (why = .los → s.dev.anyLos p = true)) ∧
    (∃ (s : State) (p : Fin 64), s.dev.portEn p = true ∧ s.dev.anyLos p = false ∧ (s.dev.port p).aligned = true ∧ s.dev.portLost p
      = false) ∧
    (∃ (s : State) (m : Master) (x : EyeSite) (w : Word), Accepted s m (eyeCtrlAddr x) (w ||| 1)) ∧
    (∃ (s : State) (x : EyeSite) (n : Nat), s.dev.bit (eyeCtrlAddr x) 0 = true) :=
  ⟨⟨(upWith (portOn 63 126)), 63, (.align), by decide +kernel⟩,
   ⟨(upWith fun d => (portOn 63 126 d).onPort 63 fun k => { k with aligned := true, replaced := true }), 63, by decide +kernel⟩,
   ⟨(upWith (portOn 63 126)), (.pcie), (.client 127), 0x0, by decide +kernel⟩,
   ⟨(upWith fun d => d.setReg (eyeCtrlAddr (.link 23)) 1), (.link 23), 0x40000000, by decide +kernel⟩⟩

theorem test_witness_ArmIsCheckedAtOnce :
    ∃ (s : State) (m : Master), Accepted s m aSwCtrl ((s.dev.reg aSwCtrl &&& 4) ||| 1) :=
  ⟨(upWith fun d => ((ringsOn 0 d).setReg aSwTgt 15)), (.pcie), by decide +kernel⟩

theorem test_witness_PageCopyMakesStandbyTheActivePage :
    (∃ (s : State) (m : Master), Accepted s m aSwCtrl ((s.dev.reg aSwCtrl &&& 4) ||| 2)) ∧
    (∃ (s : State), Inv s ∧ s.dev.bit aSwCtrl 1 = true) :=
  ⟨⟨(up), (.pcie), by decide +kernel⟩,
   ⟨{ (upWith fun d => (d.setReg aSwCtrl 2)) with conn := someConn }, by decide +kernel⟩⟩

theorem test_witness_ReceivePagesFollowTheFarEnd :
    (∃ (s : State), s.dev.sw.rxArm.isSome = true ∧ s.dev.sw.rxLate = false) ∧
    (∃ (s : State), s.dev.sw.rxLate = true ∧ s.dev.sw.rxArm.isSome = true) ∧
    (∃ (s : State), s.dev.sw.rxLate = true ∧ s.dev.sw.rxArm = none ∧ s.pageCheck (s.dev.standby true) true = false) ∧
    (∃ (s : State) (c : Fin 48) (b : List Byte), s.dev.rxState c = rxLocked ∧ s.dev.cZr c = false ∧ acceptBlock (s.dev.rxModem
      c).ended = some b) ∧
    (∃ (s : State) (c : Fin 48), s.dev.rxState c = rxLocked ∧ s.dev.cZr c = false ∧ acceptBlock (s.dev.rxModem c).ended = none) :=
  ⟨⟨(upWith fun d => { d with sw := { rxArm := some 7 } }), by decide +kernel⟩,
   ⟨(upWith fun d => { d with sw := { rxArm := some 7, rxLate := true } }), by decide +kernel⟩,
   ⟨{ (upWith fun d => { d with sw := { rxLate := true } }) with conn := ({} : Conn).setEntry 1 true 0 1 }, by decide +kernel⟩,
   ⟨(upWith fun d => (rxIn 47 rxLocked d).onRxm 47 fun m => { m with ended := slicesOf aBlock }), 47, aBlock, by decide +kernel⟩,
   ⟨(upWith fun d => (rxIn 47 rxLocked d).onRxm 47 fun m => { m with ended := (slicesOf aBlock).set 255 [] }), 47, by decide +kernel⟩⟩

theorem test_witness_ChangeProcedure :
    (∃ (s : State) (ks : List Cluster) (ds : Desc), s.dev.granted 0 0x0110 = some ds ∧ s.dev.chg = none ∧ s.dev.formed = false ∧ ks
      ≠ [] ∧ ks.contains .timing = false) ∧
    (∃ (s : State) (ks : List Cluster) (ds : Desc) (g : Change), s.dev.granted 0 0x0110 = some ds ∧ s.dev.chg = some g ∧
      s.dev.changeOwns g = false) ∧
    (∃ (s : State) (k : Cluster) (g : Change), s.dev.chg = some g ∧ g.granted = true ∧ g.waiting.contains k = true ∧ (s.dev.cluster
      (clusterCode k)).reset = false ∧ s.prepareOk g k = true ∧ g.waiting.filter (· ≠ k) ≠ []) ∧
    (∃ (s : State) (k : Cluster) (g : Change), s.dev.chg = some g ∧ g.granted = true ∧ g.waiting.contains k = true ∧ (s.dev.cluster
      (clusterCode k)).reset = false ∧ s.prepareOk g k = false ∧ g.waiting.filter (· ≠ k) ≠ []) ∧
    (∃ (s : State) (g : Change), s.dev.chg = some g ∧ g.granted = true ∧ g.prepared = false) ∧
    (∃ (s : State) (g : Change), s.dev.chg = some g ∧ g.prepared = true ∧ s.dev.reg aBmfCnt = g.boundary) :=
  ⟨⟨(upWith (granted 0 (descOf 0x110 0 [9,0,0,0,1]))), [.carrier 47, .cipher 1], (descOf 0x110 0 [9,0,0,0,1]), by decide +kernel⟩,
   ⟨(upWith fun d => { granted 0 (descOf 0x110 0 []) d with chg := some aChange }), [.pool 0], (descOf 0x110 0 []), aChange, by decide +kernel⟩,
   ⟨(upWith fun d => { d with chg := some aChange }), (.carrier 47), aChange, by decide +kernel⟩,
   ⟨(upWith fun d => { d.setReg (carrBase 47) 3 with chg := some aChange }), (.carrier 47), aChange, by decide +kernel⟩,
   ⟨(upWith fun d => { (d.onCluster 47 fun k => { k with locked := true }) with chg := some aChange }), aChange, by decide +kernel⟩,
   ⟨(upWith fun d => { (d.onCluster 47 fun k => { k with locked := true }).setReg aBmfCnt 9 with chg := some { aChange with prepared := true, waiting := [] } }), { aChange with prepared := true, waiting := [] }, by decide +kernel⟩⟩

theorem test_witness_TransmittedCryptoBlocks :
    (∃ (s : State) (f : Fin 4096) (lanes : List (List (BitVec 10))), s.dev.blockRuns f = true ∧ (s.dev.flow f).stopped = false ∧
      noKiChange (s.dev.flow f) ∧ s.dev.txKeyed f = true) ∧
    (∃ (s : State) (f : Fin 4096) (lanes : List (List (BitVec 10))), s.dev.blockRuns f = true ∧ (s.dev.flow f).stopped = false ∧
      noKiChange (s.dev.flow f) ∧ s.dev.txKeyed f = false) ∧
    (∃ (s : State) (f : Fin 4096) (lanes : List (List (BitVec 10))) (r : Rot) (b : BitVec 64), s.dev.blockRuns f = true ∧
      (s.dev.flow f).stopped = false ∧ (s.dev.flow f).rot = some r ∧ r.stage = .switchAt b ∧ b ≤ (s.dev.flow f).blocks ∧
      ((s.dev.flow f).tx (!(s.dev.flow f).txKi)).loaded = true ∧ (s.dev.flow f).kaDone = true ∧ s.dev.bit aTcStat 4 = false ∧
      (s.dev.flow f).isStandby = false) :=
  ⟨⟨(upWith (flowOn 4095 fun w => { w with tx0 := aKey 1, kaDone := true, owner := 4095 })), 4095, [], by decide +kernel⟩,
   ⟨(upWith (flowOn 0 id)), 0, [], by decide +kernel⟩,
   ⟨(upWith (flowOn 0 fun w => { w with tx0 := aKey 1, tx1 := aKey 2, kaDone := true, rot := some ⟨true, true, .switchAt 9, false⟩, blocks := 9 })), 0, [], ⟨true, true, .switchAt 9, false⟩, 9, by decide +kernel⟩⟩

theorem test_witness_ReceivedCryptoBlocks :
    (∃ (s : State) (f : Fin 4096) (b : RxBlock) (rest : List (List Byte)), nextReceived s f b rest ∧ ((s.dev.flow f).rx
      b.ki).loaded = true ∧ s.dev.bit aTcStat 4 = false ∧ (s.dev.flow f).authCause b = none) ∧
    (∃ (s : State) (f : Fin 4096) (b : RxBlock) (rest : List (List Byte)) (c : Nat), nextReceived s f b rest ∧ ((s.dev.flow f).rx
      b.ki).loaded = true ∧ s.dev.bit aTcStat 4 = false ∧ (s.dev.flow f).authCause b = some c) ∧
    (∃ (s : State) (f : Fin 4096) (b : RxBlock) (rest : List (List Byte)), nextReceived s f b rest ∧ ((s.dev.flow f).rx
      b.ki).loaded = false) ∧
    (∃ (s : State) (f : Fin 4096), (s.dev.flow f).retireDue = true ∧ 2 ^ Fld.get ⟨6, 5⟩ (s.dev.flowCtl f) ≤ (s.dev.flow f).run) :=
  ⟨⟨(upWith (flowOn 4095 fun w => { w with rx0 := aKey 1, rxFrames := blockFrames false 1 ++ tagsOf false 1 })), 4095, (aRxBlock false 1 (tagsOf false 1)), (tagsOf false 1), ⟨⟨by decide +kernel, block_and_its_tag _ rfl⟩, by decide +kernel, by decide +kernel, own_block_authenticates _ rfl rfl⟩⟩,
   ⟨(upWith (flowOn 4095 fun w => { w with rx0 := aKey 1, last0 := some 1, rxFrames := blockThen false 1 })), 4095, (aRxBlock false 1), (List.replicate 16 []), 2, by decide +kernel⟩,
   ⟨(upWith (flowOn 4095 fun w => { w with rx0 := aKey 1, rxFrames := blockThen true 1 })), 4095, (aRxBlock true 1), (List.replicate 16 []), by decide +kernel⟩,
   ⟨(upWith (flowOn 4095 fun w => { w with rx0 := aKey 1, rx1 := aKey 2, retireDue := true, run := 1024, runKi := true })), 4095, by decide +kernel⟩⟩

theorem test_witness_FlowKeyAgreement :
    (∃ (s : State) (f : Fin 4096) (m : KaMsg), goodKaMsg s f m 1 ∧ (s.dev.flow f).alive = true ∧ m.dirs ≠ 0 ∧ m.dirs.toNat < 4 ∧
      (s.dev.flow f).ka = none ∧ (s.dev.flow f).rot = none) ∧
    (∃ (s : State) (f : Fin 4096) (m : KaMsg) (a : Ka), goodKaMsg s f m 2 ∧ (s.dev.flow f).alive = true ∧ (s.dev.flow f).ka = some
      a ∧ a.initiator = true ∧ a.answered = false ∧ a.id = m.id) ∧
    (∃ (s : State) (f : Fin 4096) (m : KaMsg) (a : Ka), m.good 3 f = true ∧ (s.dev.flow f).ka = some a ∧ a.loaded = true ∧ a.id =
      m.id ∧ m.role = (if a.initiator then 1 else 0) ∧ m.confirm = Config.kaConfirm a.salt a.secret m.role) ∧
    (∃ (s : State) (f : Fin 4096) (m : KaMsg) (a : Ka), m.good 4 f = true ∧ (s.dev.flow f).ka = some a ∧ a.id = m.id) ∧
    (∃ (s : State) (f : Fin 4096) (a : Ka), (s.dev.flow f).ka = some a ∧ a.initiator = true ∧ a.answered = false) ∧
    (∃ (s : State) (f : Fin 4096) (a : Ka), (s.dev.flow f).ka = some a ∧ a.initiator = true) :=
  ⟨⟨(upWith fun d => { flowOn 4095 id d with tc := { peers := [9] } }), 4095, (initMsg 4095 3), by decide +kernel⟩,
   ⟨(upWith fun d => { flowOn 4095 (fun w => { w with ka := some { aKa with answered := false, loaded := false, loadedTx := none, loadedRx := none } }) d with tc := { peers := [9] } }), 4095, (respMsg 4095), { aKa with answered := false, loaded := false, loadedTx := none, loadedRx := none }, by decide +kernel⟩,
   ⟨(upWith (flowOn 4095 fun w => { w with ka := some aKa, tx1 := aKey 3, rx1 := aKey 4 })), 4095, (readyMsg 4095 1 (Config.kaConfirm aKa.salt aKa.secret 1)), aKa, ⟨(ready_reads_back _).1, by decide +kernel, by decide +kernel, (ready_reads_back _).2.1, by rw [(ready_reads_back _).2.2.1]; rfl, by rw [(ready_reads_back _).2.2.1, (ready_reads_back _).2.2.2]⟩⟩,
   ⟨(upWith (flowOn 4095 fun w => { w with ka := some aKa, tx1 := aKey 3, rx1 := aKey 4 })), 4095, (abortMsg 4095), aKa, by decide +kernel⟩,
   ⟨(upWith (flowOn 4095 fun w => { w with ka := some { aKa with answered := false } })), 4095, { aKa with answered := false }, by decide +kernel⟩,
   ⟨(upWith (flowOn 4095 fun w => { w with ka := some aKa, tx1 := aKey 3, rx1 := aKey 4 })), 4095, aKa, by decide +kernel⟩⟩

theorem test_witness_RotationsMovesExportsAndSpotChecks :
    (∃ (s : State) (t0 : Fin 4096) (ds : Desc), s.dev.granted t0 0x0020 = some ds ∧ ds.p8 28 ≠ 0 ∧ (s.dev.flow
      ds.obj.toNat).isStandby = false ∧ s.dev.keysServed = true ∧ (s.dev.flow ds.obj.toNat).rot = none ∧ (s.dev.flow
      ds.obj.toNat).ka = none) ∧
    (∃ (s : State) (f : Fin 4096) (a : Ka), (s.dev.flow f).ka = some a ∧ a.loaded = true) ∧
    (∃ (s : State) (f : Fin 4096) (x : Nat), (s.dev.flow f).moveTo = some x) ∧
    (∃ (s : State) (f : Fin 4096) (a : BitVec 64) (k : Nat) (g : Nat) (key : BitVec 256), (s.dev.flow f).exportAt = some a ∧ 2 ^ 39
      ≤ ((s.dev.flow f).txCtr - a).toNat ∧ (s.dev.flow f).pairInForce = some (k, g, false) ∧ s.dev.tc.dwk = some key) ∧
    (∃ (s : State) (f : Fin 4096) (dir : Dir) (l : Fin 64) (b : LaneBlock) (tag : BitVec 128), spotDue s f dir b ∧ SMap.get
      s.dev.spotFree (s.dev.flow f).cl 0 ≤ s.dev.time ∧ (s.dev.flow f).cl < 2 ∧ tag ≠ b.ownTag dir ∧ logOrSafe s 12 (11 +
      (s.dev.flow f).cl) ∧ logOrSafe s 12 17) ∧
    (∃ (s : State) (f : Fin 4096) (dir : Dir) (l : Fin 64) (b : LaneBlock), spotDue s f dir b ∧ SMap.get s.dev.spotFree (s.dev.flow
      f).cl 0 ≤ s.dev.time) ∧
    (∃ (s : State) (f : Fin 4096) (dir : Dir) (l : Fin 64) (b : LaneBlock) (tag : BitVec 128), spotDue s f dir b ∧ (s.dev.flow
      f).cl < 2 ∧ s.dev.time < SMap.get s.dev.spotFree (s.dev.flow f).cl 0) ∧
    (∃ (s : State) (l : Fin 64), logOrSafe s 12 17) :=
  ⟨⟨(upWith fun d => flowOn 4095 id (granted 1 (descOf 0x20 4095 [3]) d)), 1, (descOf 0x20 4095 [3]), by decide +kernel⟩,
   ⟨(upWith (flowOn 4095 fun w => { w with ka := some aKa, tx1 := aKey 3, rx1 := aKey 4 })), 4095, aKa, by decide +kernel⟩,
   ⟨(upWith (flowOn 4095 fun w => { w with moveTo := some 1 })), 4095, 1, by decide +kernel⟩,
   ⟨(upWith fun d => { flowOn 4095 (fun w => { w with exportAt := some 0, txCtr := BitVec.ofNat 64 (2 ^ 39), pairInForce := some (3, 7, false) }) d with tc := { dwk := some 5 } }), 4095, 0, 3, 7, 5, by decide +kernel⟩,
   ⟨(upWith fun d => { (flowOn 4095 fun w => { w with tx0 := aKey 1, rx1 := aKey 2, cl := 1, spotTx := { last := some ⟨aKey 1, 5, [1], [2], 7⟩, due := true }, spotRx := { last := some ⟨aKey 2, 6, [1], [2], 7⟩, due := true } }) d with time := 100, spotFree := [(1, 100)] }), 4095, .tx, 63, ⟨aKey 1, 5, [1], [2], 7⟩, ((LaneBlock.ownTag ⟨aKey 1, 5, [1], [2], 7⟩ .tx) + 1), ⟨by decide +kernel, by decide +kernel, by decide +kernel, other_value _, by decide +kernel, by decide +kernel⟩⟩,
   ⟨(upWith fun d => { (flowOn 4095 fun w => { w with tx0 := aKey 1, rx1 := aKey 2, cl := 1, spotTx := { last := some ⟨aKey 1, 5, [1], [2], 7⟩, due := true }, spotRx := { last := some ⟨aKey 2, 6, [1], [2], 7⟩, due := true } }) d with time := 100, spotFree := [(1, 100)] }), 4095, .rx, 63, ⟨aKey 2, 6, [1], [2], 7⟩, by decide +kernel⟩,
   ⟨(upWith fun d => { (flowOn 4095 fun w => { w with tx0 := aKey 1, rx1 := aKey 2, cl := 1, spotTx := { last := some ⟨aKey 1, 5, [1], [2], 7⟩, due := true }, spotRx := { last := some ⟨aKey 2, 6, [1], [2], 7⟩, due := true } }) d with time := 100, spotFree := [(1, 101)] }), 4095, .rx, 63, ⟨aKey 2, 6, [1], [2], 7⟩, 0, by decide +kernel⟩,
   ⟨up, 63, by decide +kernel⟩⟩

theorem test_witness_UnitSlotConservesCodewords :
    ∃ (s : State) (m : Fin 4) (decided : List (Fin 448 × List Nat)), s.dev.poolLost m = false ∧ ((s.pool m).units.map (·.1) ++
      (s.pool m).held.map (·.1)).Nodup :=
  ⟨{ up with pools := [(3, { ready := [aCw 0 2000, aCw 5 2005], units := [(447, aCw 1 2000)], held := [(2, aCw 2 9)], out := [aCw 3 4] })] }, 3, [], by decide +kernel⟩

theorem test_witness_CodewordsInAndOut :
    (∃ (s : State) (m : Fin 4) (x : Fin 12) (r : Nat × List Int) (rs : List (Nat × List Int)), (s.dev.rxModem (12 * m.val +
      x.val)).ready = r :: rs ∧ s.dev.cEnabled (12 * m.val + x.val) = true ∧ s.dev.cZr (12 * m.val + x.val) = false ∧
      s.dev.poolLost m = false ∧ (s.dev.cluster (48 + m)).reset = false) ∧
    (∃ (s : State) (m : Fin 4) (w : Cw), (s.pool m).nextOut = some (none, w) ∧ w.emit ≤ (s.pool m).now ∧ s.dev.poolLost m = false) ∧
    (∃ (s : State) (m : Fin 4) (u : Nat) (w : Cw), (s.pool m).nextOut = some (some u, w) ∧ w.emit ≤ (s.pool m).now ∧ s.dev.poolLost
      m = false) ∧
    (∃ (s : State) (m : Fin 4) (n : Nat), (s.pool m).held = [] ∧ s.dev.poolLost m = false ∧ (∀ w ∈ (s.pool m).out, w.emit ≤ (s.pool
      m).now)) ∧
    (∃ (s : State) (m : Fin 4) (u : Fin 448), (∀ e ∈ (s.pool m).units, e.1 ≠ u) ∧ (∀ e ∈ (s.pool m).held, e.1 ≠ u) ∧ logOrSafe s (8
      + m) 3 ∧ logOrSafe s (8 + m) 20) :=
  ⟨⟨(upWith fun d => (carrierOn 47 d).onRxm 47 fun m => { m with ready := [(8191, [31, -31])] }), 3, 11, (8191, [31, -31]), [], by decide +kernel⟩,
   ⟨{ up with pools := [(3, { now := 4, out := [aCw 3 4] })] }, 3, (aCw 3 4), by decide +kernel⟩,
   ⟨{ up with pools := [(3, { now := 4, held := [(447, aCw 3 4)], out := [aCw 3 9] })] }, 3, 447, (aCw 3 4), by decide +kernel⟩,
   ⟨{ up with pools := [(3, { now := 4, out := [aCw 3 4, aCw 3 4] })] }, 3, 1, by decide +kernel⟩,
   ⟨up, 3, 447, by decide +kernel⟩⟩

theorem test_witness_CarrierFrames :
    (∃ (s : State) (c : Fin 48) (lanes : List (List (BitVec 10))), s.dev.sendsFrames c = true ∧ s.dev.txZr c = false ∧
      noCarrierCommit s c) ∧
    (∃ (s : State) (c : Fin 48) (lanes : List (List (BitVec 10))), s.dev.sendsFrames c = true ∧ s.dev.txZr c = true ∧
      noCarrierCommit s c) ∧
    (∃ (s : State) (c : Fin 48) (codes : List (List Int)) (q : Acq) (r : RxFrame), s.dev.rxState c = rxLocked ∧ s.dev.cEnabled c =
      true ∧ s.dev.carrDead c = false ∧ s.dev.cZr c = false ∧ noCarrierCommit s c ∧ ((rxInput s c codes).rxNative c codes).2 =
      [r] ∧ metricLossy r.use = true ∧ 3 ≤ (s.dev.carrier c).badMet) ∧
    (∃ (s : State) (c : Fin 48) (codes : List (List Int)) (q : Acq) (x : Metric × Nat), s.dev.rxState c = rxLocked ∧ s.dev.cEnabled
      c = true ∧ s.dev.carrDead c = false ∧ s.dev.cZr c = true ∧ noCarrierCommit s c ∧ q.cands.head? = some x ∧ metricLossy
      x.1 = true ∧ 3 ≤ (s.dev.carrier c).badMet) ∧
    (∃ (s : State) (c : Fin 48) (codes : List (List Int)) (q : Acq) (m : Word × Word) (x : Metric × Nat), s.dev.rxState c =
      rxSearch ∧ s.dev.cEnabled c = true ∧ s.dev.carrDead c = false ∧ s.dev.cZr c = false ∧ (s.dev.carrier c).cands[0]? = some
      m ∧ s.dev.searched c m = true ∧ q.cands[0]? = some x ∧ metricGood x.1 = true ∧ 1 ≤ (s.dev.carrier c).goodMet.getD 0 0 ∧
      9 ≤ (s.dev.carrier c).framesIn) :=
  ⟨⟨(upWith (txIn 47 csTune)), 47, [], by decide +kernel⟩,
   ⟨(upWith fun d => ((txIn 47 csTune d).setReg (carrBase 47) 3).setAct (carrBase 47) 3), 47, [], by decide +kernel⟩,
   ⟨lossyFrameWaits, 47, [], (found ⟨0, 0, 0, 0⟩), (((rxInput lossyFrameWaits 47 []).rxFront 47 []).rxDemap 47 ⟨[], ⟨299, 300, 0, 0⟩, 0, 0, 0⟩).2, ⟨by decide +kernel, by decide +kernel, by decide +kernel, by decide +kernel, by decide +kernel, lossy_frame_witness.1, lossy_frame_witness.2, by decide +kernel⟩⟩,
   ⟨(upWith fun d => (((rxIn 47 rxLocked d).setReg (carrBase 47) 3).setAct (carrBase 47) 3).onCarrier 47 fun k => { k with badMet := 3 }), 47, [], (found ⟨300, 300, 612, 0⟩), (⟨300, 300, 612, 0⟩, 0), by decide +kernel⟩,
   ⟨(upWith fun d => (rxIn 47 rxSearch d).onCarrier 47 fun k => { k with cands := [(0x80000000, 0)], goodMet := [1], framesIn := 9 }), 47, [], (found ⟨500, 500, 203, 203⟩), (0x80000000, 0), (⟨500, 500, 203, 203⟩, 0), by decide +kernel⟩⟩

theorem test_witness_DefectsEnterAndExit :
    (∃ (s : State) (f : Fin 4096), (s.dev.flow f).alive = true ∧ s.dev.depth < s.flowSpread f) ∧
    (∃ (s : State) (f : Fin 4096), (s.dev.flow f).alive = true ∧ s.flowSpread f + 20 ≤ s.dev.depth) ∧
    (∃ (s : State) (c : Fin 48) (i : Fin 11), s.dev.cEnabled c = true ∧ s.dev.cZr c = false ∧ 3 ≤ i.val ∧ s.dev.carrEntry c i =
      true) ∧
    (∃ (s : State) (c : Fin 48) (i : Fin 11), s.dev.cEnabled c = true ∧ s.dev.cZr c = false ∧ 3 ≤ i.val ∧ s.dev.carrExit c i = true) ∧
    (∃ (s : State) (c : Fin 48), s.dev.cEnabled c = true ∧ s.dev.rxState c ≠ rxIdle) ∧
    (∃ (s : State) (f : Fin 4096) (i : Fin 10), (s.dev.flow f).alive = true ∧ s.flowEntry f i = true) ∧
    (∃ (s : State) (f : Fin 4096) (i : Fin 10), (s.dev.flow f).alive = true ∧ s.flowExit f i = true) ∧
    (∃ (s : State) (c : Fin 48), s.dev.cEnabled c = true ∧ s.dev.cZr c = false ∧ secondBad (s.dev.actFld 0x100024 ⟨0, 7⟩)
      (s.dev.carrier c).secErrored (s.dev.carrier c).secFrames = true ∧ s.dev.actFld 0x100024 ⟨7, 4⟩ ≤ (s.dev.carrier
      c).degBad + 1) ∧
    (∃ (s : State) (f : Fin 4096), (s.dev.flow f).alive = true ∧ secondBad (s.dev.actFld 0x100024 ⟨11, 7⟩) (s.dev.flow
      f).secErrored (s.dev.flow f).secFrames = true ∧ s.dev.actFld 0x100024 ⟨18, 4⟩ ≤ (s.dev.flow f).degBad + 1) ∧
    (∃ (s : State) (f : Fin 4096) (bytes : List Byte) (w : Flow), (s.dev.flow f).alive = true ∧ (s.dev.flow f).nextFrame = (some
      bytes, w)) ∧
    (∃ (s : State) (f : Fin 4096) (w : Flow), (s.dev.flow f).alive = true ∧ (s.dev.flow f).nextFrame = (none, w)) :=
  ⟨⟨(skewed 31), 4095, by decide +kernel⟩,
   ⟨(skewed 10), 4095, by decide +kernel⟩,
   ⟨(upWith fun d => (ringsOn 0 (carrierOn 47 d)).onCarrier 47 fun k => { k with degBad := 10 }), 47, 10, by decide +kernel⟩,
   ⟨(upWith fun d => (ringsOn 0 ((carrierOn 47 d).onCarrier 47 fun k => { k with raw := 0x7FF, degGood := 10 }))), 47, 10, by decide +kernel⟩,
   ⟨(upWith (rxIn 47 rxLocked)), 47, by decide +kernel⟩,
   ⟨(upWith fun d => ringsOn 1 (flowOn 4095 (fun w => { w with degBad := 10 }) d)), 4095, 9, by decide +kernel⟩,
   ⟨(upWith fun d => ringsOn 1 (flowOn 4095 (fun w => { w with raw := 0x3FF, good := 8 }) d)), 4095, 7, by decide +kernel⟩,
   ⟨(upWith fun d => (carrierOn 47 d).onCarrier 47 fun k => { k with degBad := 6, secErrored := 30, secFrames := 100 }), 47, by decide +kernel⟩,
   ⟨(upWith (flowOn 4095 fun w => { w with degBad := 9, secErrored := 100, secFrames := 100 })), 4095, by decide +kernel⟩,
   ⟨(upWith fun d => (flowOn 4095 (fun w => { w with rxBytes := flexFrame 0x1F }) d).onOverhead 4095 fun o => { o with stat := 7, statRun := 2 }), 4095, (flexFrame 0x1F), { alive := true, owner := 1, slots := 2 }, by decide +kernel⟩,
   ⟨(upWith (flowOn 4095 fun w => { w with rxBytes := fas })), 4095, { alive := true, owner := 1, slots := 2, rxBytes := fas }, by decide +kernel⟩⟩

theorem test_witness_CarrierStartAndStop :
    (∃ (s : State) (c : Fin 48) (st : BitVec 16), s.dev.cState c = csTune ∧ st.getLsbD 0 = true) ∧
    (∃ (s : State) (c : Fin 48), s.dev.cState c = csTune) ∧
    (∃ (s : State) (c : Fin 48), s.dev.cState c = csRampUp ∧ (s.dev.carrier c).level < 64) ∧
    (∃ (s : State) (c : Fin 48), s.dev.cState c = csRampDown ∧ 0 < (s.dev.carrier c).level) ∧
    (∃ (s : State) (c : Fin 48), s.dev.cState c = csRampUp ∧ (s.dev.carrier c).level = 64) ∧
    (∃ (s : State) (c : Fin 48), s.dev.cState c = csRampDown ∧ (s.dev.carrier c).level = 0) ∧
    (∃ (s : State) (c : Fin 48), s.dev.cEnabled c = true) :=
  ⟨⟨(upWith (txIn 47 csTune)), 47, 1, by decide +kernel⟩,
   ⟨(upWith fun d => ringsOn 0 (txIn 47 csTune d)), 47, by decide +kernel⟩,
   ⟨(upWith fun d => (txIn 47 csRampUp d).onCarrier 47 fun k => { k with level := 63 }), 47, by decide +kernel⟩,
   ⟨(upWith fun d => (txIn 47 csRampDown d).onCarrier 47 fun k => { k with level := 1 }), 47, by decide +kernel⟩,
   ⟨(upWith fun d => (txIn 47 csRampUp d).onCarrier 47 fun k => { k with level := 64 }), 47, by decide +kernel⟩,
   ⟨(upWith fun d => (txIn 47 csRampDown d).onCarrier 47 fun k => { k with why := .disable, txen := true }), 47, by decide +kernel⟩,
   ⟨(upWith (carrierOn 47)), 47, by decide +kernel⟩⟩

theorem test_witness_SafeRefusesEnabling :
    ∃ (s : State) (c : Fin 48) (side : Side), s.dev.safe = true ∧ s.dev.cmtPending (.carrier c) = true ∧ (s.dev.cluster c).reset =
      false ∧ (s.dev.cluster c).txDone = false ∧ (s.dev.cluster c).rxDone = false ∧ s.dev.enabling c = true :=
  ⟨(upWith fun d => { (d.setReg (carrBase 47) 1).setReg (cmtAddr (.carrier 47)) 3 with safe := true }), 47, (.tx), by decide +kernel⟩

theorem test_witness_ReceiveModemTimers :
    (∃ (s : State) (c : Fin 48), s.dev.rxState c = rxLocked ∧ s.dev.cEnabled c = true ∧ s.dev.cZr c = false ∧ (s.dev.carrier
      c).delin = none) ∧
    (∃ (s : State) (c : Fin 48), s.dev.rxState c = rxSearch ∧ (s.dev.carrier c).warm = true) ∧
    (∃ (s : State) (c : Fin 48), s.dev.rxState c = rxRetest ∧ (s.dev.carrier c).retestQ = []) ∧
    (∃ (s : State) (c : Fin 48) (q : Nat) (r : List Nat), s.dev.rxState c = rxRetest ∧ (s.dev.carrier c).retestQ = q :: r) ∧
    (∃ (s : State) (c : Fin 48), s.dev.rxState c ≠ rxIdle) ∧
    (∃ (s : State) (c : Fin 48) (ms : Nat), s.dev.cEnabled c = true ∧ s.dev.carrDead c = false ∧ s.dev.rxState c ≠ rxIdle ∧
      belowThr (s.dev.actFld 0x100020 ⟨0, 7⟩) ms = true ∧ (s.dev.carrier c).raw.getLsbD 0 = false ∧ 1 ≤ (s.dev.carrier
      c).loliLow) :=
  ⟨⟨(upWith (rxIn 47 rxLocked)), 47, by decide +kernel⟩,
   ⟨(upWith fun d => (rxIn 47 rxSearch d).onCarrier 47 fun k => { k with warm := true }), 47, by decide +kernel⟩,
   ⟨(upWith fun d => (rxIn 47 rxRetest d).onCarrier 47 fun k => { k with retestAt := some 3 }), 47, by decide +kernel⟩,
   ⟨(upWith fun d => (rxIn 47 rxRetest d).onCarrier 47 fun k => { k with retestQ := [3, 1] }), 47, 3, [1], by decide +kernel⟩,
   ⟨(upWith fun d => ((rxIn 47 rxSearch d).setReg (carrBase 47 + 0x260) 0xFF0000).onRxm 47 fun m => { m with estFrames := 3, estLocked := 3 }), 47, by decide +kernel⟩,
   ⟨(upWith fun d => (rxIn 47 rxLocked d).onCarrier 47 fun k => { k with loliLow := 1 }), 47, 0, by decide +kernel⟩⟩

theorem test_witness_ConvertersAndCaptures :
    (∃ (s : State) (m : Master) (g : Fin 8) (w : Word), Accepted s m (aCapCtrl g) (w ||| 0x80000000#32)) ∧
    (∃ (s : State) (g : Fin 8), s.dev.capArmed g = true ∧ (s.dev.reg (aCapCtrl g)).setWidth 16 = s.dev.capTick) ∧
    (∃ (s : State) (g : Fin 8), (s.dev.region g).capRun = true) ∧
    (∃ (s : State) (g : Fin 8) (r : CalRun) (ms : List (Nat × List Int)), (s.dev.region g).run = some r ∧ r.position < 65 ∧
      s.dev.bit (aCvtCal g) 15 = false ∧ s.dev.capArmed g = false ∧ (stepJudged s g r ms).2 = true) ∧
    (∃ (s : State) (g : Fin 8) (r : CalRun) (ms : List (Nat × List Int)), (s.dev.region g).run = some r ∧ 0 < r.position ∧
      r.position < 65 ∧ s.dev.bit (aCvtCal g) 15 = false ∧ s.dev.capArmed g = true ∧ (stepJudged s g r ms).2 = true) ∧
    (∃ (s : State) (g : Fin 8) (r : CalRun) (ms : List (Nat × List Int)), (s.dev.region g).run = some r ∧ r.position < 65 ∧
      s.dev.bit (aCvtCal g) 15 = false ∧ (stepJudged s g r ms).2 = false ∧ logOrSafe s g 6) ∧
    (∃ (s : State) (g : Fin 8) (r : CalRun), (s.dev.region g).run = some r ∧ s.dev.bit (aCvtCal g) 15 = true ∧ s.dev.capArmed g =
      false) ∧
    (∃ (s : State) (g : Fin 8) (r : CalRun), (s.dev.region g).run = some r ∧ 65 ≤ r.position) :=
  ⟨⟨up, (.pcie), 7, 0x280002, by decide +kernel⟩,
   ⟨(upWith fun d => d.setReg (aCapCtrl 7) 0x80000000), 7, by decide +kernel⟩,
   ⟨(upWith fun d => (d.setReg (aCapCtrl 7) 0x80000000).onRegion 7 fun r => { r with capRun := true }), 7, by decide +kernel⟩,
   ⟨(regionWith 7 fun r => { r with run := some (aRun 64) }), 7, (aRun 64), [], by decide +kernel⟩,
   ⟨(upWith fun d => (d.setReg (aCapCtrl 7) 0x80000000).onRegion 7 fun r => { r with run := some (aRun 1) }), 7, (aRun 1), [], by decide +kernel⟩,
   ⟨(regionWith 7 fun r => { r with run := some { aRun 1 with carriers := [42] } }), 7, { aRun 1 with carriers := [42] }, [(64, [])], by decide +kernel⟩,
   ⟨(upWith fun d => (d.setReg (aCvtCal 7) 0x8000).onRegion 7 fun r => { r with run := some (aRun 1) }), 7, (aRun 1), by decide +kernel⟩,
   ⟨(upWith fun d => (d.setReg (aCvtCal 7) 0x8001).onRegion 7 fun r => { r with run := some (aRun 65) }), 7, (aRun 65), by decide +kernel⟩⟩

theorem test_witness_EngineBusAndI2c :
    (∃ (s : State) (g : Fin 8) (x : Spi) (q : List Spi), busLive s g ∧ (s.dev.region g).bus = none ∧ spiNext (s.dev.region g).queue
      = some (x, q)) ∧
    (∃ (s : State) (g : Fin 8) (x : Spi) (v : BitVec 16) (c : Nat), (s.dev.region g).bus = some x ∧ x.gain = some c ∧ x.ring =
      false) ∧
    (∃ (s : State) (g : Fin 8) (x : Spi) (e : Byte) (v : BitVec 16), (s.dev.region g).bus = some x ∧ x.retried = false ∧ e ≠ 0xA5) ∧
    (∃ (s : State) (g : Fin 8) (x : Spi) (e : Byte) (v : BitVec 16), (s.dev.region g).bus = some x ∧ x.retried = true ∧ e ≠ 0xA5) ∧
    (∃ (s : State) (g : Fin 8) (x : Spi) (w : List Spi), (s.dev.region g).waiting = x :: w) ∧
    (∃ (s : State) (g : Fin 8) (sda : Sda) (bs : List Byte), (s.dev.region g).i2c = true ∧ bs ≠ []) ∧
    (∃ (s : State) (g : Fin 8) (sda : Sda) (bs : List Byte), (s.dev.region g).i2c = true) ∧
    (∃ (s : State) (g : Fin 8) (sda : Sda), (s.dev.region g).i2c = true) ∧
    (∃ (s : State) (m : Master) (g : Fin 8), s.dev.bit (feBase g + 0xE0) 2 = true ∧ Accepted s m (feBase g + 0xE0) ((s.dev.reg
      (feBase g + 0xE0) &&& 8) ||| 4) { sda := some .high }) :=
  ⟨⟨(regionWith 7 fun r => { r with queue := [aSpi 3, aSpi 1, aSpi 1] }), 7, (aSpi 1), [aSpi 3, aSpi 1], by decide +kernel⟩,
   ⟨(regionWith 7 fun r => { r with bus := some { aSpi 1 with gain := some 47 } }), 7, { aSpi 1 with gain := some 47 }, 0, 47, by decide +kernel⟩,
   ⟨(regionWith 7 fun r => { r with bus := some (aSpi 0) }), 7, (aSpi 0), 0xA4, 0, by decide +kernel⟩,
   ⟨(upWith fun d => (granted 0 (descOf 0x130 7 []) d).onRegion 7 fun r => { r with bus := some { aSpi 3 with ring := true, retried := true } }), 7, { aSpi 3 with ring := true, retried := true }, 0, 0, by decide +kernel⟩,
   ⟨(regionWith 7 fun r => { r with waiting := [aSpi 2, aSpi 1] }), 7, (aSpi 2), [aSpi 1], by decide +kernel⟩,
   ⟨(upWith fun d => (granted 0 (descOf 0x130 7 []) d).onRegion 7 fun r => { r with i2c := true }), 7, (.high), [1, 2], by decide +kernel⟩,
   ⟨(upWith fun d => (granted 0 (descOf 0x130 7 []) d).onRegion 7 fun r => { r with i2c := true }), 7, (.stuck), [1, 2], by decide +kernel⟩,
   ⟨(upWith fun d => (granted 0 (descOf 0x130 7 []) d).onRegion 7 fun r => { r with i2c := true }), 7, (.high), by decide +kernel⟩,
   ⟨(upWith fun d => (d.setReg (feBase 7 + 0xE0) 4).onRegion 7 fun r => { r with sda := .stuck }), (.pcie), 7, by decide +kernel⟩⟩

theorem test_witness_FrontEndLoopsAndAdc :
    (∃ (s : State) (c : Fin 48) (p : Nat), s.dev.bit (feBase (c / 6) + 0x50 + 4 * (c % 6)) 0 = false ∧ s.dev.lightHold c = false ∧
      p < 100 * s.dev.fld (feBase (c / 6) + 0x40) ⟨8, 6⟩ ∧ s.dev.fld (feBase (c / 6) + 0xA0 + 4 * (c % 6)) ⟨0, 5⟩ ≠ 0 ∧
      busLive s (c / 6)) ∧
    (∃ (s : State) (c : Fin 48), s.dev.bit (feBase (c / 6) + 0x90) 0 = true ∧ s.dev.rxState c = rxLocked ∧ (s.dev.carrier c).rep ≠
      some 1 ∧ s.dev.fld (feBase (c / 6) + 0x90) ⟨16, 8⟩ < (s.dev.carrier c).offset.natAbs) ∧
    (∃ (s : State) (c : Fin 48) (q : Int), s.dev.farOffset c = some q ∧ s.dev.bit (feBase (c / 6) + 0x94) 0 = true ∧
      s.dev.recentBlock = true ∧ 4 * s.dev.fld (feBase (c / 6) + 0x94) ⟨16, 8⟩ < q.natAbs) ∧
    (∃ (s : State) (g : Fin 8) (code : BitVec 16) (i : Nat) (u : List Nat), s.dev.hkCal g = false ∧ (s.dev.region g).hk.urgent = i
      :: u) ∧
    (∃ (s : State) (g : Fin 8) (code : BitVec 16) (i : Nat), s.dev.hkCal g = false ∧ (s.dev.region g).hk.urgent = [] ∧ hkAt
      (s.dev.reg (feBase g + 0x100)) (s.dev.region g).hk.current = some i) ∧
    (∃ (s : State) (m : Master) (g : Fin 8) (w : Word), Accepted s m (feBase g + 0x140) (w ||| 0x80000000#32)) ∧
    (∃ (s : State) (g : Fin 8) (code : BitVec 16), s.dev.bit (feBase g + 0x140) 31 = true ∧ (s.dev.reg (feBase g + 0x140)).setWidth
      16 = s.dev.capTick) ∧
    (∃ (s : State) (m : Master) (g : Fin 8), s.dev.hkCal g = false ∧ Accepted s m (feBase g + 0x100) ((s.dev.reg (feBase g + 0x100)
      &&& 0x1FFF) ||| 0x2000)) ∧
    (∃ (s : State) (g : Fin 8) (off : Int) (gain : Nat), s.dev.hkCal g = true ∧ off.natAbs ≤ 64 ∧ 98 * 32768 ≤ 100 * gain ∧ 100 *
      gain ≤ 102 * 32768) ∧
    (∃ (s : State) (g : Fin 8) (off : Int) (gain : Nat), s.dev.hkCal g = true ∧ 64 < off.natAbs) :=
  ⟨⟨(upWith fun d => (carrierOn 47 d).setReg (feBase 7 + 0xA0 + 4 * 5) 1), 47, 0, by decide +kernel⟩,
   ⟨(upWith fun d => ((rxIn 47 rxLocked d).onCarrier 47 fun k => { k with offset := 5000 }).setReg (feBase 7 + 0x90) ((d.reg (feBase 7 + 0x90)) ||| 1)), 47, by decide +kernel⟩,
   ⟨(upWith fun d => ((framedAt 0 0 d).setReg (feBase 7 + 0x94) ((d.reg (feBase 7 + 0x94)) ||| 1)).onCarrier 0 fun k => { k with boh := some (parseBlock (List.replicate 48 0 ++ List.replicate 96 0x70)), sinceBoh := 3 }), 47, 0x7070, by decide +kernel⟩,
   ⟨(regionWith 7 fun r => { r with hk := { urgent := [11, 0] } }), 7, 0xFFFF, 11, [0], by decide +kernel⟩,
   ⟨(upWith fun d => (d.setReg (feBase 7 + 0x100) 0x801).onRegion 7 fun r => { r with hk := { current := 1 } }), 7, 1, 11, by decide +kernel⟩,
   ⟨up, (.pcie), 7, 2, by decide +kernel⟩,
   ⟨(upWith fun d => d.setReg (feBase 7 + 0x140) 0x80000000), 7, 0xFFFF, by decide +kernel⟩,
   ⟨(upWith fun d => d.setReg (hkResAddr 7 11) 0x10001), (.pcie), 7, by decide +kernel⟩,
   ⟨(upWith fun d => d.setReg (feBase 7 + 0x100) 0x2000), 7, (-64), 33423, by decide +kernel⟩,
   ⟨(upWith fun d => d.setReg (feBase 7 + 0x100) 0x2000), 7, (-65), 32768, by decide +kernel⟩⟩

theorem test_witness_CrosshatchTransmitBanks :
    (∃ (s : State) (m : Master) (c : Fin 48), Accepted s m (aTxb c) 2) ∧
    (∃ (s : State) (c : Fin 48), s.dev.xhTxArmed c = true ∧ s.dev.reg (aXhCbmf c) = s.dev.reg (aTxt c)) ∧
    (∃ (s : State) (c : Fin 48), (s.dev.xhTxArmed c = false ∨ s.dev.reg (aXhCbmf c) ≠ s.dev.reg (aTxt c))) ∧
    (∃ (s : State) (m : Master) (c : Fin 48), Accepted s m (aTxb c) 4) ∧
    (∃ (s : State) (m : Master) (c : Fin 48), Accepted s m (aRxb c) 4) ∧
    (∃ (s : State) (c : Fin 48) (dir : Dir), s.dev.bit (aXb c (dir = .rx)) 2 = true) :=
  ⟨⟨(upWith fun d => (ringsOn 0 (txIn 47 csRun d)).setReg (aTxt 47) 4), (.pcie), 47, by decide +kernel⟩,
   ⟨(upWith fun d => (((txIn 47 csRun d).setReg (aTxb 47) 2).setReg (aTxt 47) 7).setReg (aXhCbmf 47) 7), 47, by decide +kernel⟩,
   ⟨(upWith fun d => ((d.setReg (aTxb 47) 2).setReg (aTxt 47) 7)), 47, by decide +kernel⟩,
   ⟨up, (.pcie), 47, by decide +kernel⟩,
   ⟨up, (.pcie), 47, by decide +kernel⟩,
   ⟨(upWith fun d => ((d.setReg (aTxb 47) 4).setBankWord 47 false 0 4095 9).setReg (aHdrActive 47 false) 3), 47, (.tx), by decide +kernel⟩⟩

theorem test_witness_TimingCore :
    (∃ (s : State), noTimingCommit s ∧ useStands s ∧ (s.dev.tState = tsAcquire ∨ s.dev.tState = tsLocked) ∧ s.dev.tm.sampled = true) ∧
    (∃ (s : State), noTimingCommit s ∧ useStands s ∧ (s.dev.tState = tsAcquire ∨ s.dev.tState = tsLocked) ∧ s.dev.tm.sampled =
      false) ∧
    (∃ (s : State) (n : Nat), noTimingCommit s ∧ s.dev.tMode = 0 ∧ s.dev.tState ≠ tsSoftware ∧ s.dev.tm.inUse = none ∧
      s.dev.bestCand = some n) ∧
    (∃ (s : State) (n : Nat), noTimingCommit s ∧ s.dev.tMode = 0 ∧ s.dev.tState ≠ tsSoftware ∧ s.dev.tm.inUse = some n ∧
      s.dev.eligible n = false ∧ s.dev.bestCand = none) ∧
    (∃ (s : State) (v : Int), noTimingCommit s ∧ s.dev.tState = tsSoftware ∧ s.dev.tm.inUse = none ∧ s.dev.bestCand = none ∧
      s.dev.tm.swCv = some v) ∧
    (∃ (s : State) (err : Int) (at_ : Fin 4000) (n : Nat), s.dev.tm.inUse = some n ∧ s.dev.candType n ≠ 3) ∧
    (∃ (s : State) (err : Int) (v : Int) (at_ : Fin 4000) (n : Nat), s.dev.tm.inUse = some n ∧ s.dev.candType n = 3 ∧
      s.dev.tm.swPhase = some v) ∧
    (∃ (s : State), s.dev.tState = tsAcquire ∧ s.dev.tm.absorbed.isSome = true ∧ s.dev.tm.perr.natAbs ≤ 4 * s.dev.actFld 0x4010 ⟨0,
      10⟩) ∧
    (∃ (s : State), s.dev.faultClass 12 8 = 4) ∧
    (∃ (s : State) (n : Fin 8) (ppb : Int), s.dev.candEn n = true ∧ s.dev.inRange ppb = false) ∧
    (∃ (s : State) (n : Fin 8), s.dev.candEn n = true ∧ (s.dev.candType n ≠ 1 ∧ s.dev.candType n ≠ 2) ∨ s.dev.candAlive n = false) ∧
    (∃ (s : State) (n : Fin 8) (ppb : Int), s.dev.candEn n = true ∧ s.dev.bit (aCand n) 18 = false ∧ s.dev.candAlive n = true ∧
      s.dev.inRange ppb = true) ∧
    (∃ (s : State) (n : Fin 8), s.dev.bit (aCand n) 19 = true) ∧
    (∃ (s : State) (m : Master) (w : Word), Accepted s m 0x4020 w) ∧
    (∃ (s : State) (m : Master) (w : Word), Accepted s m 0x402C w) ∧
    (∃ (s : State), s.dev.tState = tsSoftware) :=
  ⟨⟨(upWith fun d => { timed 7 tsAcquire d with tm := { inUse := some 7, sampled := true, perr := 40, cv := 5 } }), by decide +kernel⟩,
   ⟨(upWith (timed 7 tsLocked)), by decide +kernel⟩,
   ⟨(upWith fun d => { timed 7 tsFree d with tm := {} }), 7, by decide +kernel⟩,
   ⟨(upWith fun d => (timed 7 tsLocked d).setReg (aCand 7) 0), 7, by decide +kernel⟩,
   ⟨(upWith fun d => { d.setTState tsSoftware with tm := { swCv := some (-9) } }), (-9), by decide +kernel⟩,
   ⟨(upWith (timed 7 tsSoftware)), (2 ^ 40), 3999, 7, by decide +kernel⟩,
   ⟨(upWith fun d => { (timed 7 tsLocked d).setAct (aCand 7) 0x407 with tm := { inUse := some 7, swPhase := some 9 } }), 5, 9, 3999, 7, by decide +kernel⟩,
   ⟨(upWith fun d => { timed 7 tsAcquire d with tm := { inUse := some 7, absorbed := some 0, perr := 40 } }), by decide +kernel⟩,
   ⟨(upWith (ringsOn 0)), by decide +kernel⟩,
   ⟨(upWith (timed 7 tsLocked)), 7, 127001, by decide +kernel⟩,
   ⟨(upWith (timed 7 tsLocked)), 7, by decide +kernel⟩,
   ⟨(upWith fun d => (timed 7 tsLocked d).setReg (aCand 7) 0), 7, 0, by decide +kernel⟩,
   ⟨(upWith fun d => (timed 7 tsLocked d).setReg (aCand 7) 0x80000), 7, by decide +kernel⟩,
   ⟨(upWith (timed 7 tsSoftware)), (.pcie), 0xFFFFFFFF, by decide +kernel⟩,
   ⟨(upWith (timed 7 tsSoftware)), (.pcie), 0x80000000, by decide +kernel⟩,
   ⟨(upWith fun d => timed 7 tsSoftware (ringsOn 0 d)), by decide +kernel⟩⟩

theorem test_witness_CrosshatchReceiveSide :
    (∃ (s : State) (c : Fin 48), (s.dev.carrier c).xhAt.isSome = true ∧ (s.dev.carrier c).xhLate = none) ∧
    (∃ (s : State) (c : Fin 48) (ev : Bool), (s.dev.carrier c).xhLate = some ev) ∧
    (∃ (s : State) (m : Master) (c : Fin 48) (i : Fin 4096) (w : Word), Accepted s m (rxBankAddr c i) w) ∧
    (∃ (s : State) (m : Master) (c : Fin 48) (w : Word), Accepted s m (xhBase c + 0x24) w) ∧
    (∃ (s : State) (m : Master) (c : Fin 48), Accepted s m (xhBase c + 0x28) 0x80000000) ∧
    (∃ (s : State) (c : Fin 48) (ws : List Word) (snr : Nat), (s.dev.actReg (xhBase c)).getLsbD 2 = true ∧ (s.dev.carrier
      c).oldTrims = [] ∧ ws.length = 5 ∧ ws.all trimInLimits = true ∧ (∀ e < 5, trimStepOk (s.dev.reg (aXhTrim c e)) (ws.getD
      e 0) = true)) ∧
    (∃ (s : State) (c : Fin 48) (snr : Nat), (s.dev.carrier c).oldTrims ≠ [] ∧ snr + 5 < (s.dev.carrier c).snrBefore) ∧
    (∃ (s : State) (c : Fin 48) (snr : Nat), (s.dev.carrier c).oldTrims ≠ [] ∧ (s.dev.carrier c).snrBefore ≤ snr + 5) :=
  ⟨⟨(upWith fun d => ((ringsOn 0 (rxIn 47 rxLocked d)).setReg (aRxb 47) 2).onCarrier 47 fun k => { k with xhAt := some 7, xhFirst := false }), 47, by decide +kernel⟩,
   ⟨(upWith fun d => (((ringsOn 0 (rxIn 47 rxLocked d)).setReg (aHdrInactive 47 true) 0x80000000).setReg (aRxb 47) 3).onCarrier 47 fun k => { k with xhLate := some true, xhFirst := false }), 47, true, by decide +kernel⟩,
   ⟨(upWith fun d => (d.setReg (aHdrInactive 47 true) 0x80000001)), (.pcie), 47, 4095, 5, by decide +kernel⟩,
   ⟨up, (.pcie), 47, 0x80000000, by decide +kernel⟩,
   ⟨(upWith fun d => ((rxIn 47 rxLocked d).setReg (aXhStat 47) 0x100).onCarrier 47 fun k => { k with xhStop := true, xhFirst := false }), (.pcie), 47, by decide +kernel⟩,
   ⟨(upWith fun d => (carrierOn 47 d).setAct (xhBase 47) 4), 47, [0x4000, 0x4010, 0x3FF0, 0x00104000, 0x4000], 1500, by decide +kernel⟩,
   ⟨(upWith fun d => (carrierOn 47 d).onCarrier 47 fun k => { k with oldTrims := [1, 2, 3, 4, 5], snrBefore := 1006 }), 47, 1000, by decide +kernel⟩,
   ⟨(upWith fun d => (carrierOn 47 d).onCarrier 47 fun k => { k with oldTrims := [1, 2, 3, 4, 5], snrBefore := 1005 }), 47, 1000, by decide +kernel⟩⟩

theorem test_witness_LinkTrainingAndStates :
    (∃ (s : State) (j : Fin 3) (lane : Fin 8) (req : Byte) (own : Byte), s.dev.linkEn j = true ∧ s.dev.lState j = lsTraining) ∧
    (∃ (s : State) (j : Fin 3), s.dev.lState j = lsTraining) ∧
    (∃ (s : State) (j : Fin 3), s.dev.lState j = lsTraining) ∧
    (∃ (s : State) (m : Master) (j : Fin 3), s.dev.linkEn j = true ∧ Accepted s m (aRlCtrl j) ((s.dev.reg (aRlCtrl j) &&& 1) ||| 2)) ∧
    (∃ (s : State) (j : Fin 3) (fill : List Int) (v : Nat), s.dev.lState j = lsAligning) ∧
    (∃ (s : State) (j : Fin 3) (found : List Bool) (fill : List Int) (i : Fin 8) (v : Nat), s.dev.lState j = lsUp ∧ found.getD i
      false = false ∧ 3 ≤ (s.dev.link j).misses.getD i 0) ∧
    (∃ (s : State) (j : Fin 3) (cell : List Byte), s.dev.lState j = lsUp ∧ cell.length = 88) ∧
    (∃ (s : State) (m : Master) (j : Fin 3), s.dev.lState j = lsUp ∧ s.dev.bit (aRlCtrl j) 1 = false ∧ Accepted s m (aRlCtrl j) 1) ∧
    (∃ (s : State) (j : Fin 3), s.dev.lState j = lsUp) ∧
    (∃ (s : State) (j : Fin 3), s.dev.lState j ≠ lsIdle ∧ s.dev.lState j ≠ lsDown) ∧
    (∃ (s : State) (j : Fin 3), s.dev.lState j = lsIdle ∧ s.dev.bit (aRlCtrl j) 0 = false ∧ s.dev.pw.linkIdle = false) ∧
    (∃ (s : State) (j : Fin 3), (s.dev.link j).burst = true) :=
  ⟨⟨(upWith (linkIn 2 lsTraining)), 2, 7, 0x29, 0x20, by decide +kernel⟩,
   ⟨(upWith fun d => linkIn 2 lsTraining (ringsOn 0 d)), 2, by decide +kernel⟩,
   ⟨(upWith fun d => (linkIn 2 lsTraining d).onLink 2 fun l => { l with readyFar := [0] }), 2, by decide +kernel⟩,
   ⟨(upWith (linkIn 2 lsUp)), (.pcie), 2, by decide +kernel⟩,
   ⟨(upWith (linkIn 2 lsAligning)), 2, (List.replicate 8 0), 0, by decide +kernel⟩,
   ⟨(upWith fun d => (linkIn 2 lsUp d).onLink 2 fun l => { l with misses := [3, 0] }), 2, [false], [], 0, 0, by decide +kernel⟩,
   ⟨(upWith (linkIn 2 lsUp)), 2, (aCell 12), by decide +kernel⟩,
   ⟨(upWith (linkIn 2 lsUp)), (.pcie), 2, by decide +kernel⟩,
   ⟨(upWith (linkIn 2 lsUp)), 2, by decide +kernel⟩,
   ⟨(upWith (linkIn 2 lsAligning)), 2, by decide +kernel⟩,
   ⟨(upWith (linkIn 2 lsIdle)), 2, by decide +kernel⟩,
   ⟨(upWith fun d => (linkIn 2 lsAligning d).onLink 2 fun l => { l with burst := true }), 2, by decide +kernel⟩⟩

theorem test_witness_BandSetForming :
    (∃ (s : State) (j : Fin 3) (h : Hello), s.dev.lState j = lsUp ∧ goodHello s j h) ∧
    (∃ (s : State) (j : Fin 3) (h : Hello), s.dev.lState j = lsUp ∧ h.k.val ≠ (s.dev.ownPkg + j + 1) % 4) ∧
    (∃ (s : State) (j : Fin 3), s.dev.lState j ≠ lsIdle) ∧
    (∃ (s : State) (k : Fin 4), farMember s k ∧ s.dev.leaderPkg = s.dev.ownPkg) ∧
    (∃ (s : State) (g : Change), s.dev.chg = some g ∧ g.granted = false ∧ g.waiting ≠ []) ∧
    (∃ (s : State) (g : Change), s.dev.chg = some g ∧ g.granted = false) ∧
    (∃ (s : State) (g : Change), s.dev.chg = some g ∧ g.granted = false) ∧
    (∃ (s : State) (k : Fin 4) (e : Word) (cfg : Shared), s.dev.isMember k = true) ∧
    (∃ (s : State) (k : Fin 4), s.dev.isMember k = true) ∧
    (∃ (s : State) (k : Fin 4) (e : Word) (cfg : Shared), s.dev.bs.syncAsk = some k.val ∧ newer e (s.dev.reg aEpoch) = true) ∧
    (∃ (s : State) (k : Fin 4), s.dev.bs.syncAsk = some k.val) ∧
    (∃ (s : State) (e : Word) (cfg : Shared), s.dev.bs.sync = some (e, cfg)) ∧
    (∃ (s : State) (k : Fin 4) (off : Int), farMember s k ∧ s.dev.leaderPkg = k ∧ off.natAbs < 2 ^ 31) :=
  ⟨⟨(upWith (linkIn 2 lsUp)), 2, (helloOf 3 9), ⟨by decide +kernel, by decide +kernel, by decide +kernel, another_identity⟩⟩,
   ⟨(upWith (linkIn 2 lsUp)), 2, (helloOf 2 9), by decide +kernel⟩,
   ⟨(upWith fun d => (setOf 0 9 (linkIn 2 lsUp d)).setBit (aRlLink 2) 5), 2, by decide +kernel⟩,
   ⟨(upWith (setOf 0 9)), 3, by decide +kernel⟩,
   ⟨(upWith fun d => { d with chg := some { aChange with granted := false } }), { aChange with granted := false }, by decide +kernel⟩,
   ⟨(upWith fun d => { granted 0 (descOf 0x110 0 []) d with chg := some { aChange with granted := false, cmd := 5 } }), { aChange with granted := false, cmd := 5 }, by decide +kernel⟩,
   ⟨(upWith fun d => { granted 0 (descOf 0x110 0 []) d with chg := some { aChange with granted := false, cmd := 5 } }), { aChange with granted := false, cmd := 5 }, by decide +kernel⟩,
   ⟨(upWith fun d => { setOf 0 9 d with bs := { holder := some 3 } }), 3, 1, ⟨[], [], 0⟩, by decide +kernel⟩,
   ⟨(upWith (setOf 0 9)), 3, by decide +kernel⟩,
   ⟨(upWith fun d => { setOf 0 9 d with bs := { syncAsk := some 3 } }), 3, 0x7FFFFFFF, ⟨[], [], 1⟩, by decide +kernel⟩,
   ⟨(upWith fun d => { ringsOn 0 (setOf 0 9 d) with bs := { syncAsk := some 3, syncTries := 2 } }), 3, by decide +kernel⟩,
   ⟨(upWith fun d => { setOf 0 9 d with bs := { sync := some (5, ⟨[], [], 1⟩) } }), 5, ⟨[], [], 1⟩, by decide +kernel⟩,
   ⟨(upWith fun d => { (setOf 0 9 d).setReg aRlCfg 3 with bs := { time := 1000000 } }), 0, 10000, by decide +kernel⟩⟩

theorem test_witness_FlowProtection :
    (∃ (s : State) (ds : Desc), protReady s 0 ds) ∧
    (∃ (s : State) (ds : Desc), protReady s 1 ds) ∧
    (∃ (s : State) (ds : Desc), protReady s 2 ds) ∧
    (∃ (s : State) (ds : Desc) (p : Nat × Nat × Bool), protReady s 3 ds ∧ (s.dev.flow ds.obj.toNat).pairInForce = some p ∧
      (s.dev.flow ds.obj.toNat).isReady p.2.2 = true) ∧
    (∃ (s : State) (k : Fin 4) (e : StateEntry) (m : StateMsg) (role : Bool), farMember s k ∧ m.entries = [e] ∧ e.inForce = true ∧
      (s.dev.flow e.peer).pairInForce = some (k.val, e.flow.val, role) ∧ e.role ≠ role) ∧
    (∃ (s : State) (k : Fin 4) (f : Nat) (g : Nat) (role : Bool), (s.dev.flow f).pairInForce = some (k.val, g, role) ∧ (s.dev.flow
      f).isStandby = true ∧ (s.dev.flow f).canTake = true) ∧
    (∃ (s : State) (f : Fin 4096) (p : Nat × Nat × Bool), (s.dev.flow f).pairInForce = some p ∧ (s.dev.flow f).act = true ∧
      (s.dev.flow f).isClear = false) :=
  ⟨⟨(upWith (protOn 0)), (protDesc 0), by decide +kernel⟩,
   ⟨(upWith (protOn 1)), (protDesc 1), by decide +kernel⟩,
   ⟨(upWith (protOn 2)), (protDesc 2), by decide +kernel⟩,
   ⟨(upWith fun d => (protOn 3 d).onFlow 4095 fun w => { w with pairInForce := some (3, 7, true), impTx := true, impRx := true }), (protDesc 3), (3, 7, true), by decide +kernel⟩,
   ⟨(upWith fun d => flowOn 4095 (fun w => { w with pairInForce := some (3, 7, true), act := true }) (setOf 0 9 d)), 3, { flow := 7, peer := 4095, role := false, act := true, req := false, nak := false, ready := true, inForce := true, defect := 0 }, ⟨0, [], [{ flow := 7, peer := 4095, role := false, act := true, req := false, nak := false, ready := true, inForce := true, defect := 0 }]⟩, true, by decide +kernel⟩,
   ⟨(upWith fun d => flowOn 4095 (fun w => { w with pairInForce := some (3, 7, true), impTx := true, impRx := true }) (setOf 0 9 d)), 3, 4095, 7, true, by decide +kernel⟩,
   ⟨(upWith fun d => flowOn 4095 (fun w => { w with pairInForce := some (3, 7, false), act := true, raw := 1 }) (setOf 0 9 d)), 4095, (3, 7, false), by decide +kernel⟩⟩

theorem test_witness_SummariesAndContexts :
    (∃ (s : State) (k : Fin 4) (tx : List (Fin 48)) (rx : List (Fin 48)), s.dev.isMember k = true) ∧
    (∃ (s : State) (k : Fin 4), s.dev.formed = true ∧ s.dev.bs.sumWait.contains k.val = true) ∧
    (∃ (s : State) (k : Fin 4) (dir : Dir) (i : Fin 2) (stamp : BitVec 64) (va : Bool) (vb : Bool) (a : List Byte) (b : List Byte)
      (u : Nat), s.dev.isMember k = true ∧ (s.dev.remoteNamed [] k)[2 * i.val]? = some u) ∧
    (∃ (s : State) (k : Fin 4) (rec : List Byte) (key : BitVec 256), s.dev.tc.dwk = some key ∧ s.dev.keysServed = true) ∧
    (∃ (s : State) (f : Fin 4096) (dir : Dir) (ok : Bool) (g : Nat), s.dev.ctxFlow f dir = some g) ∧
    (∃ (s : State) (f : Fin 4096) (dir : Dir), (if dir = .tx then (s.dev.flow f).ctxWaitTx else (s.dev.flow f).ctxWaitRx) = true) :=
  ⟨⟨(upWith (setOf 0 9)), 3, [47, 1, 2], [], by decide +kernel⟩,
   ⟨(upWith fun d => { setOf 0 9 d with bs := { sumWait := [3, 1] } }), 3, by decide +kernel⟩,
   ⟨(upWith fun d => (setOf 0 9 d).setAct (xhBase 0 + 4) 0x3AF), 3, (.rx), 0, 0, true, true, [], [], 47, by decide +kernel⟩,
   ⟨(upWith fun d => { flowOn 4095 id d with tc := { dwk := some 5 } }), 3, [], 5, by decide +kernel⟩,
   ⟨(upWith fun d => flowOn 4095 (fun w => { w with pairInForce := some (3, 7, true), ctxWaitTx := true }) (ringsOn 0 d)), 7, (.tx), false, 4095, by decide +kernel⟩,
   ⟨(upWith fun d => flowOn 4095 (fun w => { w with pairInForce := some (3, 7, true), ctxWaitRx := true }) (ringsOn 0 d)), 4095, (.rx), by decide +kernel⟩⟩

theorem test_witness_DoorbellsReadsAndCancels :
    (∃ (s : State) (n : Fin 4096) (k : RingKind) (i : BitVec 16), ringOpen s n k ∧ ringProduced k = false ∧ (s.dev.ring n
      k).doorbellOk k i = true ∧ (s.dev.ring n k).en = true ∧ (s.dev.ring n k).halted = false) ∧
    (∃ (s : State) (n : Fin 4096) (k : RingKind) (i : BitVec 16), ringOpen s n k ∧ (s.dev.ring n k).doorbellOk k i = false) ∧
    (∃ (s : State) (n : Fin 4096) (k : RingKind) (i : BitVec 16), ringOpen s n k ∧ ringProduced k = true ∧ (s.dev.ring n
      k).doorbellOk k i = true) ∧
    (∃ (s : State) (n : Fin 4096) (ds : Desc), (s.dev.ring n .command).en = true ∧ (s.dev.ring n .command).halted = false ∧
      (s.dev.ring n .command).idx ≠ (s.dev.ring n .command).db) ∧
    (∃ (s : State) (n : Fin 4096) (k : RingKind), ringProduced k = false ∧ s.dev.readsDesc n k = true) ∧
    (∃ (s : State) (n : Fin 4096) (k : RingKind), ringProduced k = false ∧ s.dev.readsDesc n k = true) ∧
    (∃ (s : State) (n : Fin 4096) (i : BitVec 16) (ds : Desc), ringOpen s n .command ∧ (i, ds) ∈ (s.dev.ring n .command).fetched) ∧
    (∃ (s : State) (n : Fin 4096) (g : Granted), ringOpen s n .command ∧ (s.dev.ring n .command).fetched = [] ∧ (s.dev.ring n
      .command).granted = some g) ∧
    (∃ (s : State) (n : Fin 4096) (k : RingKind) (g : Bool), (s.dev.ring n k).modBusy = true ∧ (s.dev.ring n k).modHeld = g) :=
  ⟨⟨(upWith (ringWith 4095 .command fun r => { r with idx := 65530, db := 65530 })), 4095, .command, 6, by decide +kernel⟩,
   ⟨(upWith fun d => ringsOn 0 (ringWith 4095 .command (fun r => { r with idx := 65530, db := 65530 }) d)), 4095, .command, 65529, by decide +kernel⟩,
   ⟨(upWith (ringWith 4095 .event fun r => { r with idx := 5, lost := 7 })), 4095, .event, 5, by decide +kernel⟩,
   ⟨(upWith (ringWith 4095 .command fun r => { r with idx := 65535, db := 0 })), 4095, (descOf 0 0 []), by decide +kernel⟩,
   ⟨(upWith fun d => ringsOn 0 (ringWith 4095 .overhead (fun r => { r with db := 1 }) d)), 4095, .overhead, by decide +kernel⟩,
   ⟨(upWith (ringWith 4095 .command fun r => { r with db := 1 })), 4095, .command, by decide +kernel⟩,
   ⟨(upWith fun d => ringWith 4095 .command (fun r => { r with idx := 7, db := 7, fetched := [(5, descOf 0 0 []), (6, descOf 0x30 1 [])] }) d), 4095, 6, (descOf 0x30 1 []), by decide +kernel⟩,
   ⟨(upWith fun d => ringWith 4095 .command (fun r => { r with idx := 7, db := 7, granted := some ⟨5, descOf 0 0 [], false, false⟩ }) d), 4095, ⟨5, descOf 0 0 [], false, false⟩, by decide +kernel⟩,
   ⟨(upWith (ringWith 4095 .event fun r => { r with modBusy := true, modHeld := true })), 4095, .event, true, by decide +kernel⟩⟩

theorem test_witness_RingsAndArbitration :
    (∃ (s : State) (n : Fin 4096) (k : RingKind) (w : Word), ringOpen s n k ∧ s.dev.ringCfgBad n k w = false ∧ w.getLsbD 5 = true ∧
      (s.dev.ring n k).en = false ∧ s.dev.readyDue = false) ∧
    (∃ (s : State) (k : RingKind) (w : Word), ringOpen s 0 k ∧ s.dev.ringCfgBad 0 k w = false ∧ w.getLsbD 5 = true ∧ (s.dev.ring 0
      .event).en = false ∧ s.dev.readyDue = true ∧ k = .event) ∧
    (∃ (s : State) (fn : Fin 257), fn.val ≠ 0) ∧
    (∃ (s : State) (e : Fin 2) (n : Nat) (i : BitVec 16) (ds : Desc) (r : List (BitVec 16 × Desc)), s.dev.bit aMxFence (5 + e) =
      false ∧ s.dev.nextGrant e = some n ∧ (s.dev.ring n .command).fetched = (i, ds) :: r) ∧
    (∃ (s : State) (e : Fin 2), s.dev.bit aMxFence (5 + e) = true) ∧
    (∃ (s : State), s.dev.bit aMxFence 8 = true) :=
  ⟨⟨(upWith (boundTo 4095 256)), 4095, .command, 0x00FF0630, by decide +kernel⟩,
   ⟨(upWith fun d => { d with readyDue := true }), .event, 0x25, by decide +kernel⟩,
   ⟨(upWith (ringWith 4095 .command id)), 256, by decide +kernel⟩,
   ⟨(upWith (ringWith 4095 .command (fun r => { r with idx := 7, db := 7, fetched := [(5, descOf 0 0 []), (6, descOf 0x30 1 [])] }))), 1, 4095, 5, (descOf 0 0 []), [(6, descOf 0x30 1 [])], by decide +kernel⟩,
   ⟨(upWith fun d => (ringWith 4095 .command (fun r => { r with idx := 7, db := 7, granted := some ⟨5, descOf 0 0 [], false, false⟩ }) d).setBit aMxFence 6), 1, by decide +kernel⟩,
   ⟨(upWith fun d => (linkIn 2 lsUp d).setBit aMxFence 8), by decide +kernel⟩⟩

theorem test_witness_FlowCreateAndDelete :
    (∃ (s : State) (n : Fin 4096) (ds : Desc) (tx : List Nat) (rx : List Nat) (x : Nat), Inv s ∧ s.dev.granted n 0x0010 = some ds ∧
      (s.dev.flow ds.obj.toNat).coming = false ∧ s.createBad n ds.obj.toNat (ds.p8 28) (ds.p16 30) tx rx = false ∧
      s.dev.swapBusy = false ∧ s.dev.placeFlow (ds.p16 30) = some (x, s.dev) ∧
      ({ s with conn := createdPage s ds tx rx, dev := s.dev.onFlow ds.obj.toNat fun _ => createdFlow n x ds }).pageCheck
      (s.dev.standby false) false = true) ∧
    (∃ (s : State) (n : Fin 4096) (ds : Desc) (tx : List Nat) (rx : List Nat), s.dev.granted n 0x0010 = some ds ∧ (s.dev.flow
      ds.obj.toNat).coming = false ∧ s.createBad n ds.obj.toNat (ds.p8 28) (ds.p16 30) tx rx = true) ∧
    (∃ (s : State) (n : Fin 4096) (ds : Desc), Inv s ∧ s.dev.granted n 0x0011 = some ds ∧ (s.dev.flow ds.obj.toNat).deleting =
      false ∧ s.dev.bs.shared.pairs = [] ∧ s.dev.swapBusy = false) :=
  ⟨⟨(upWith fun d => carrierOn 47 (creating d)), 5, createDesc, (List.range 80), (List.range 80).reverse, 0, by decide +kernel⟩,
   ⟨(upWith creating), 5, createDesc, (List.range 79), (List.range 80), by decide +kernel⟩,
   ⟨{ upWith (fun d => flowOn 4095 id (granted 5 (descOf 0x11 4095 []) d)) with conn := (({} : Conn).setEntry 0 false 5 (entryOf 4095 0)).setEntry 0 false 6 (entryOf 4095 1) }, 5, (descOf 0x11 4095 []), by decide +kernel⟩⟩

theorem test_witness_TenantAndOwnerCommands :
    (∃ (s : State) (n : Fin 4096) (ds : Desc), hasCommand s n 0x0000 ds) ∧
    (∃ (s : State) (ds : Desc) (a : Option Auth) (d : Dev) (slots : List Nat), hasCommand s 0 0x0100 ds ∧ s.dev.authorised a = some
      d ∧ ds.obj.toNat < 4096 ∧ (∀ x ∈ slots, x < 5120)) ∧
    (∃ (s : State) (ds : Desc) (a : Option Auth) (slots : List Nat), hasCommand s 0 0x0100 ds ∧ s.dev.authorised a = none) ∧
    (∃ (s : State) (ds : Desc) (a : Option Auth) (d : Dev), hasCommand s 0 0x0101 ds ∧ s.dev.authorised a = some d ∧ ds.obj.toNat <
      4096 ∧ (s.dev.flow (ds.p16 28)).alive = false ∧ (s.dev.flow (ds.p16 28)).coming = false) ∧
    (∃ (s : State) (ds : Desc) (a : Option Auth) (d : Dev), hasCommand s 0 0x0102 ds ∧ s.dev.authorised a = some d ∧ 0 <
      ds.obj.toNat ∧ ds.obj.toNat < 4096 ∧ s.dev.anyRing ds.obj.toNat = false ∧ ds.p16 28 ≤ s.dev.numVfs ∧ ds.p16 28 ≤ 256 ∧
      ds.p8 30 < 16 ∧ (∀ u < 4096, u ≠ ds.obj.toNat → s.dev.bound u = true → s.dev.fnOf u = ds.p16 28 → s.dev.fld (aTenBind u)
      ⟨9, 4⟩ ≠ ds.p8 30 ∨ ds.p16 28 = 0)) ∧
    (∃ (s : State) (ds : Desc) (a : Option Auth) (d : Dev), hasCommand s 0 0x0103 ds ∧ s.dev.authorised a = some d ∧ 0 <
      ds.obj.toNat ∧ ds.obj.toNat < 4096 ∧ s.dev.anyRing ds.obj.toNat = false ∧ s.dev.fnOf ds.obj.toNat ≤ s.dev.numVfs) ∧
    (∃ (s : State) (n : Fin 4096) (ds : Desc), hasCommand s n 0x0030 ds ∧ ds.p8 28 = 0 ∧ (s.dev.flow ds.obj.toNat).alive = true) ∧
    (∃ (s : State) (ds : Desc), hasCommand s 0 0x0120 ds ∧ ds.p8 28 ≠ 0 ∧ ds.p8 29 ≠ 0) ∧
    (∃ (s : State) (c : Fin 48) (p : Nat), s.dev.telem = some (2, p) ∧ (s.dev.ring 0 .telemetry).en = true ∧ (s.dev.ring 0
      .telemetry).used + 48 ≤ 2 ^ (s.dev.ring 0 .telemetry).lsize ∧ s.dev.cEnabled c = true) ∧
    (∃ (s : State) (ds : Desc) (data : List Byte), hasCommand s 0 0x0130 ds ∧ s.dev.regions = [] ∧ ds.obj.toNat < 8 ∧ s.dev.busDead
      ds.obj.toNat = false ∧ ds.p8 28 = 0 ∧ s.dev.addressOwned ds.obj.toNat (ds.p16 30) = false) ∧
    (∃ (s : State) (ds : Desc) (data : List Byte), hasCommand s 0 0x0130 ds ∧ s.dev.regions = [] ∧ ds.obj.toNat < 8 ∧ s.dev.busDead
      ds.obj.toNat = false ∧ ds.p8 28 = 1 ∧ ds.p8 29 = 1 ∧ s.dev.bit (feBase ds.obj.toNat + 0xE0) 2 = false) ∧
    (∃ (s : State) (i : BitVec 16) (ds : Desc), (s.dev.ring 0 .capture).fetched = [(i, ds)] ∧ s.dev.capLeft = 0 ∧ 0 < ds.len.toNat
      ∧ ds.len.toNat % 4096 = 0 ∧ ds.len.toNat ≤ 2 ^ 24) :=
  ⟨⟨(upWith (granted 4095 (descOf 0 0 []))), 4095, (descOf 0 0 []), by decide +kernel⟩,
   ⟨(upWith (granted 0 (descOf 0x100 4095 [0xFF, 0xF, 63]))), (descOf 0x100 4095 [0xFF, 0xF, 63]), (some anAuth), (upWith (granted 0 (descOf 0x100 4095 [0xFF, 0xF, 63]))).dev, [5119], by decide +kernel⟩,
   ⟨(upWith fun d => { granted 0 (descOf 0x100 4095 [0xFF, 0xF, 63]) d with tc := { approved := true } }), (descOf 0x100 4095 [0xFF, 0xF, 63]), (some anAuth), [5119], by decide +kernel⟩,
   ⟨(upWith fun d => { (granted 0 (descOf 0x101 4095 [0xFF, 0xF]) d).onTenant 4095 fun _ => { grants := [(4095, 1, []), (7, 2, [])] } with tc := { approved := true, ownerHash := some 1 } }), (descOf 0x101 4095 [0xFF, 0xF]), (some anAuth), (upWith fun d => { (granted 0 (descOf 0x101 4095 [0xFF, 0xF]) d).onTenant 4095 fun _ => { grants := [(4095, 1, []), (7, 2, [])] } with tc := { approved := true, ownerHash := some 1, counter := 7 } }).dev, by decide +kernel⟩,
   ⟨(upWith (granted 0 (descOf 0x102 4095 [0, 0, 15]))), (descOf 0x102 4095 [0, 0, 15]), none, (upWith (granted 0 (descOf 0x102 4095 [0, 0, 15]))).dev, ⟨by decide +kernel, by decide +kernel, by decide +kernel, by decide +kernel, by decide +kernel, by decide +kernel, by decide +kernel, by decide +kernel, fun _ _ _ _ _ => .inr (by decide +kernel)⟩⟩,
   ⟨(upWith fun d => boundTo 4095 256 (granted 0 (descOf 0x103 4095 []) d)), (descOf 0x103 4095 []), none, (upWith fun d => boundTo 4095 256 (granted 0 (descOf 0x103 4095 []) d)).dev, by decide +kernel⟩,
   ⟨(upWith fun d => flowOn 4095 id (granted 5 { descOf 0x30 4095 [0] with len := 10 } d)), 5, { descOf 0x30 4095 [0] with len := 10 }, by decide +kernel⟩,
   ⟨(upWith (granted 0 (descOf 0x120 0 [7, 255]))), (descOf 0x120 0 [7, 255]), by decide +kernel⟩,
   ⟨(upWith fun d => { (carrierOn 47 d).onRing 0 .telemetry fun r => { r with cfg := 0x26 } with telem := some (2, 5) }), 47, 5, by decide +kernel⟩,
   ⟨(upWith (granted 0 (descOf 0x130 7 [0, 1, 0xFF, 0xFF, 5, 0]))), (descOf 0x130 7 [0, 1, 0xFF, 0xFF, 5, 0]), [], by decide +kernel⟩,
   ⟨(upWith (granted 0 (descOf 0x130 7 [1, 1, 0xFF, 0, 5, 0]))), (descOf 0x130 7 [1, 1, 0xFF, 0, 5, 0]), [], by decide +kernel⟩,
   ⟨(upWith fun d => d.onRing 0 .capture fun r => { r with cfg := 0x25, fetched := [(5, { descOf 0x300 0 [] with len := 0x1000000 })] }), 5, { descOf 0x300 0 [] with len := 0x1000000 }, by decide +kernel⟩⟩

theorem test_witness_OverheadRing :
    (∃ (s : State) (n : Fin 4096) (i : BitVec 16) (ds : Desc) (buf : List Byte), atHead s n 0x0200 i ds ∧ buf.length = 64) ∧
    (∃ (s : State) (n : Fin 4096) (i : BitVec 16) (ds : Desc) (buf : List Byte), atHead s n 0x0201 i ds ∧ buf.length = 64) ∧
    (∃ (s : State) (n : Fin 4096) (i : BitVec 16) (ds : Desc) (buf : List Byte), atHead s n 0x0202 i ds) ∧
    (∃ (s : State) (n : Fin 4096) (i : BitVec 16) (ds : Desc) (buf : List Byte), atHead s n 0x0203 i ds) ∧
    (∃ (s : State) (n : Fin 4096) (i : BitVec 16) (ds : Desc), atHead s n 0x0210 i ds) ∧
    (∃ (s : State) (n : Fin 4096) (i : BitVec 16) (ds : Desc) (b : Byte) (bs : List Byte) (gap : Bool), (s.dev.ring n
      .overhead).recvs = [(i, ds, b :: bs, gap)] ∧ 2 ≤ ds.p8 28 ∧ ds.p8 28 ≤ 4) :=
  ⟨⟨(upWith fun d => flowOn 4095 id (d.onRing 1 .overhead fun r => { r with cfg := 0x25, fetched := [(5, descOf 0x200 4095 [])] })), 1, 5, (descOf 0x200 4095 []), (List.replicate 64 3), by decide +kernel⟩,
   ⟨(upWith fun d => (d.onRing 0 .overhead fun r => { r with cfg := 0x25, fetched := [(5, descOf 0x201 (0x2000 + 47) [3])] })), 0, 5, (descOf 0x201 (0x2000 + 47) [3]), (List.replicate 64 3), by decide +kernel⟩,
   ⟨(upWith fun d => flowOn 4095 id (d.onRing 1 .overhead fun r => { r with cfg := 0x25, fetched := [(5, descOf 0x202 4095 [9, 7])] })), 1, 5, (descOf 0x202 4095 [9, 7]), [], by decide +kernel⟩,
   ⟨(upWith fun d => flowOn 4095 id (d.onRing 1 .overhead fun r => { r with cfg := 0x25, fetched := [(5, descOf 0x203 4095 [1])] })), 1, 5, (descOf 0x203 4095 [1]), [1, 2], by decide +kernel⟩,
   ⟨(upWith fun d => flowOn 4095 id (d.onRing 1 .overhead fun r => { r with cfg := 0x25, fetched := [(5, descOf 0x210 4095 [5, 9])] })), 1, 5, (descOf 0x210 4095 [5, 9]), by decide +kernel⟩,
   ⟨(upWith fun d => flowOn 4095 id (d.onRing 1 .overhead fun r => { r with cfg := 0x25, recvs := [(5, descOf 0x210 4095 [3, 9], [1], true)] })), 1, 5, (descOf 0x210 4095 [3, 9]), 1, [], true, by decide +kernel⟩⟩

theorem test_witness_InterruptController :
    (∃ (s : State) (i : Fin 512), ownLine s i ∧ s.dev.lines.contains i.val = false) ∧
    (∃ (s : State) (i : Fin 512), ownLine s i) ∧
    (∃ (s : State) (n : Fin 4) (i : Nat) (wfi : Bool), (s.dev.core n).running = true ∧ s.dev.held n = false ∧ s.dev.icFrozen n =
      false ∧ s.dev.icChoice n (wfi && decide ((s.dev.core n).stack = [])) = some i ∧ s.dev.icPreempts n i = true ∧
      (s.dev.core n).stack.length < 16) ∧
    (∃ (s : State) (n : Fin 4) (i : BitVec 9) (rest : List Nat), s.dev.icFrozen n = false ∧ (s.dev.core n).stack = i.toNat :: rest) ∧
    (∃ (s : State) (n : Fin 4) (i : BitVec 9), s.dev.icFrozen n = false ∧ (s.dev.core n).stack.head? ≠ some i.toNat) ∧
    (∃ (s : State) (n : Fin 4), (∀ e ∈ (s.dev.core n).held, e.1 < 512)) ∧
    (∃ (s : State) (n : Fin 4), s.dev.held n = true ∧ (∀ e ∈ (s.dev.core n).held, e.1 < 512)) ∧
    (∃ (s : State) (n : Fin 4) (w : Fin 16) (v : Word), s.dev.masterFenced (.core n) = false ∧ icReach n (0x200 + 4 * w.val) = true) ∧
    (∃ (s : State) (n : Fin 4) (w : Fin 16) (v : Word), s.dev.masterFenced (.core n) = false ∧ icReach n (0x100 + 4 * w.val) = true
      ∧ s.dev.lines = []) :=
  ⟨⟨(up), 0, by decide +kernel⟩,
   ⟨(upWith fun d => { d with lines := [0, 5, 511] }), 0, by decide +kernel⟩,
   ⟨(upWith fun d => (((d.setIc (aIcSrc 7) 0x805).setPendBit 7 true).setIc 0x200 0).onCore 0 fun c => { c with running := true, pc := 8 }), 0, 7, true, by decide +kernel⟩,
   ⟨(upWith fun d => d.onCore 3 fun c => { c with stack := [511, 448], saved := [(0x40, true), (0x80, false)] }), 3, 511, [448], by decide +kernel⟩,
   ⟨(upWith fun d => d.onCore 3 fun c => { c with stack := [511, 448], saved := [(0x40, true), (0x80, false)] }), 3, 448, by decide +kernel⟩,
   ⟨(upWith fun d => (d.setIc (aIcCtrl 0) 1).onCore 0 fun c => { c with held := [(5, true), (5, false), (6, false)] }), 0, by decide +kernel⟩,
   ⟨(upWith fun d => (d.setIc (aIcCtrl 0) 1).onCore 0 fun c => { c with held := [(5, true), (5, false), (6, false)] }), 0, by decide +kernel⟩,
   ⟨up, 3, 15, 0xFFFF, by decide +kernel⟩,
   ⟨up, 0, 0, 0xFFFF, by decide +kernel⟩⟩

theorem test_witness_MatrixAndConsole :
    (∃ (s : State) (m : Master) (u : Unanswered), s.dev.oldestOf m = some u) ∧
    (∃ (s : State) (m : Master) (x : Fin 16) (a : Addr) (who : Stalled), logOrSafe s 12 9 ∧ logOrSafe s 12 10) ∧
    (∃ (s : State) (m : Master), Accepted s m 0xA000 1) ∧
    (∃ (s : State) (x : Fin 16), s.dev.bit aMxFence (16 + x) = true) ∧
    (∃ (s : State) (x : Fin 16), (s.dev.die x).reset = true ∧ s.dev.mx.windowWait = []) ∧
    (∃ (s : State) (b : Byte), s.dev.uart.rx.length < 64) ∧
    (∃ (s : State) (b : Byte), 64 ≤ s.dev.uart.rx.length) ∧
    (∃ (s : State) (m : Master) (w : Word), Accepted s m 0xC004 w ∧ s.dev.uart.tx.length < 64) ∧
    (∃ (s : State) (m : Master) (b : Byte) (r : List Byte), Readable s m 0xC004 ∧ s.dev.uart.rx = b :: r) ∧
    (∃ (s : State) (b : Byte) (r : List Byte), s.dev.uart.tx = b :: r) :=
  ⟨⟨(upWith fun d => { ringsOn 0 d with mx := { unanswered := [⟨.pcie, 0x44, true⟩] } }), .pcie, ⟨.pcie, 0x44, true⟩, by decide +kernel⟩,
   ⟨(upWith (ringsOn 0)), .link, 15, 0x1FFFFFC, .both, by decide +kernel⟩,
   ⟨(upWith fun d => (d.setReg aMxFence 0x10).onCore 3 fun c => { c with stack := [5], pc := 8 }), .pcie, by decide +kernel⟩,
   ⟨(upWith fun d => d.setReg aMxFence 0xFFFF0000), 15, by decide +kernel⟩,
   ⟨(upWith fun d => d.onDie 15 fun q => { q with reset := true }), 15, by decide +kernel⟩,
   ⟨(upWith fun d => { d with uart := { rx := List.replicate 63 1 } }), 5, by decide +kernel⟩,
   ⟨(upWith fun d => { d with uart := { rx := List.replicate 64 1 } }), 5, by decide +kernel⟩,
   ⟨(upWith fun d => { d with uart := { tx := List.replicate 63 1 } }), (.core 0), 0x41, by decide +kernel⟩,
   ⟨(upWith fun d => { d with uart := { rx := [0xFF, 1] } }), (.pcie), 0xFF, [1], by decide +kernel⟩,
   ⟨(upWith fun d => { d with uart := { tx := [0xFF, 1] } }), 0xFF, [1], by decide +kernel⟩⟩

theorem test_witness_MailboxServices :
    (∃ (s : State), mbIdle s) ∧
    (∃ (s : State) (nonce : List Byte), mbIdle s ∧ s.dev.tc.drawing = false) ∧
    (∃ (s : State) (pass : Bool), mbIdle s) ∧
    (∃ (s : State) (h : BitVec 384) (nonce : List Byte) (ap : Bool) (a : Auth), mbIdle s ∧ s.dev.tc.ownerHash = none ∧ nonce ∈
      s.dev.tc.nonces ∧ a.ecdsa = true ∧ a.mldsa = true ∧ s.dev.tc.counter < a.counter) ∧
    (∃ (s : State) (ids : List (BitVec 64)) (a : Auth), mbIdle s ∧ authGood s a ∧ ids.length ≤ 64) ∧
    (∃ (s : State) (ids : List (BitVec 64)) (a : Auth), mbIdle s ∧ (¬ authGood s a)) ∧
    (∃ (s : State) (p : Signed) (h : BitVec 384) (kwk : BitVec 256) (k : BitVec 256) (a : Auth), mbIdle s ∧ authGood s a ∧
      s.dev.tc.drawing = false ∧ s.dev.tc.tripHeld = false ∧ s.dev.bit aTcStat 4 = false ∧ s.dev.verified p = true ∧
      s.dev.tc.ownerHash = some h ∧ s.dev.tc.dwk = some k) ∧
    (∃ (s : State) (p : Signed) (kwk : BitVec 256) (w : List Byte) (a : Auth), mbIdle s ∧ authGood s a ∧ s.dev.tc.drawing = false ∧
      s.dev.tc.tripHeld = false ∧ s.dev.keysServed = true ∧ s.dev.verified p = true) :=
  ⟨⟨up, by decide +kernel⟩,
   ⟨up, (List.replicate 32 5), by decide +kernel⟩,
   ⟨up, true, by decide +kernel⟩,
   ⟨(upWith fun d => { d with tc := { nonces := [List.replicate 32 5] } }), 5, (List.replicate 32 5), true, anAuth, by decide +kernel⟩,
   ⟨(upWith fun d => { d with tc := { ownerHash := some 5 } }), (List.replicate 64 3), anAuth, by decide +kernel⟩,
   ⟨(upWith fun d => { d with tc := { ownerHash := some 5, counter := 7 } }), (List.replicate 64 3), anAuth, by decide +kernel⟩,
   ⟨(upWith fun d => { d with tc := { ownerHash := some 5, dwk := some 6, peers := [9] } }), ⟨true, true, 9⟩, 5, 3, 6, anAuth, by decide +kernel⟩,
   ⟨(upWith fun d => { d with tc := { ownerHash := some 5, peers := [9] } }), ⟨true, true, 9⟩, 3, [1], anAuth, by decide +kernel⟩⟩

theorem test_witness_ImagesAndZeroization :
    (∃ (s : State) (img : Image) (k : Nat) (r : Nat), mbIdle s ∧ Fld.get ⟨8, 8⟩ s.dev.tc.svc = k ∧ k ≤ 2 ∧ s.dev.tc.runs k = some r) ∧
    (∃ (s : State) (i : Nat) (img : Image), s.dev.tc.writing = some (i, img)) ∧
    (∃ (s : State) (a : Auth) (k : Nat) (i : Nat), mbIdle s ∧ authGood s a ∧ Fld.get ⟨8, 8⟩ s.dev.tc.svc = k ∧ k ≤ 2 ∧
      s.dev.tc.trialSlot k = some i) ∧
    (∃ (s : State) (a : Auth), mbIdle s ∧ authGood s a ∧ s.dev.tc.zscope = none) ∧
    (∃ (s : State) (a : Auth), mbIdle s ∧ authGood s a ∧ s.dev.tc.zscope = none) ∧
    (∃ (s : State) (a : Auth), mbIdle s ∧ authGood s a ∧ s.dev.tc.zscope = none) ∧
    (∃ (s : State) (scope : Nat), s.dev.tc.zscope = some (scope, false) ∧ s.dev.tc.zqueue = [] ∧ s.dev.tc.resetAfter = none) ∧
    (∃ (s : State), s.dev.tc.zLow = false ∧ s.dev.boot ≠ .off ∧ s.dev.tc.zscope = none) :=
  ⟨⟨(upWith fun d => { d with tc := (({ svc := 0x0220 } : Trust).setRuns 2 (some 1)) }), ⟨5, 3, true, true, true, 9⟩, 2, 1, by decide +kernel⟩,
   ⟨(upWith fun d => { d with tc := { svc := 0x0220, writing := some (4, ⟨5, 3, true, true, true, 9⟩) } }), 4, ⟨5, 3, true, true, true, 9⟩, by decide +kernel⟩,
   ⟨(upWith fun d => { d with tc := (({ svc := 0x0221, ownerHash := some 5 } : Trust).setRuns 2 (some 1)).setSlot 5 { img := some ⟨5, 3, true, true, true, 9⟩, trial := true, ran := true } }), anAuth, 2, 1, by decide +kernel⟩,
   ⟨(upWith fun d => { d with tc := { ownerHash := some 5 } }), anAuth, by decide +kernel⟩,
   ⟨(upWith fun d => { d with tc := { ownerHash := some 5 } }), anAuth, by decide +kernel⟩,
   ⟨(upWith fun d => { d with tc := { ownerHash := some 5 } }), anAuth, by decide +kernel⟩,
   ⟨(upWith fun d => flowOn 4095 (fun w => { w with tx0 := aKey 1, rx1 := aKey 2, ka := some aKa }) { ringsOn 0 d with tc := { zscope := some (0, false), ownerHash := some 5, dwk := some 6 } }), 0, by decide +kernel⟩,
   ⟨up, by decide +kernel⟩⟩

theorem test_witness_DrypointChain :
    (∃ (s : State) (m : Master) (g : Fin 8) (w : Word), Accepted s m (dpBase g) w) ∧
    (∃ (s : State) (m : Master) (g : Fin 8), Accepted s m (dpBase g + 0xC) 2) ∧
    (∃ (s : State) (g : Fin 8) (zeros : Nat) (x : Int × Int), chainLive s g ∧ s.dev.dpStages g = 0 ∧ s.dev.dpComp g = 3 ∧
      s.dev.cState (6 * g + s.dev.fld (dpBase g) ⟨1, 3⟩) ≠ csOff ∧ (s.dev.region g).dp.input = [x] ∧ 2 ^ s.dev.fld (dpBase g +
      0x20) ⟨0, 5⟩ ≤ (s.dev.region g).dp.n + 1) ∧
    (∃ (s : State) (g : Fin 8), s.dev.dpRunning g = true ∧ s.dev.bit (dpBase g) 11 = true ∧ s.dev.ptaOn g = false ∧ s.dev.envHigh g
      = true) ∧
    (∃ (s : State) (g : Fin 8), s.dev.ptaOn g = true ∧ s.dev.envHigh g = false) ∧
    (∃ (s : State) (m : Master) (g : Fin 8) (w : Word), Accepted s m (dpBase g + 0x40) (w ||| 0x80000000#32)) ∧
    (∃ (s : State) (g : Fin 8) (zeros : Nat), s.dev.bit (dpBase g + 0x40) 31 = true ∧ 2 ^ s.dev.fld (dpBase g + 0x40) ⟨0, 4⟩ ≤
      (s.dev.region g).dp.stored) :=
  ⟨⟨(upWith fun d => (((d.setReg (dpBase 7) 1).setReg (dpBase 7 + 0x40) 0x80000003).setReg (dpBase 7 + 0x24) 0x1000005).onDp 7 fun c => { c with stages := [(1, {})] }), (.engine 1), 7, 0, by decide +kernel⟩,
   ⟨(upWith fun d => d.setReg (dpBase 7 + 0x10C) 5), .pcie, 7, by decide +kernel⟩,
   ⟨(upWith fun d => (txIn 45 csRun (((d.setReg (dpBase 7) 0x67).setReg (dpBase 7 + 0x20) 0).setReg (dpBase 7 + 0x24) 0xFF0005)).onDp 7 fun c => { c with input := [(-32768, 5)] }), 7, 9, (-32768, 5), by decide +kernel⟩,
   ⟨(upWith fun d => (((ringsOn 0 d).setReg (dpBase 7) 0x861).setReg (dpBase 7 + 0x30) 5).onDp 7 fun c => { c with env := 40, envExp := 3 }), 7, by decide +kernel⟩,
   ⟨(upWith fun d => (((ringsOn 0 d).setReg (dpBase 7 + 0x34) 2).setReg (dpBase 7 + 0x30) 5).onDp 7 fun c => { c with env := 39, envExp := 3 }), 7, by decide +kernel⟩,
   ⟨(upWith fun d => (d.setReg (dpBase 7) 1).onDp 7 fun c => { c with stored := 8 }), .pcie, 7, 0xA, by decide +kernel⟩,
   ⟨(upWith fun d => (d.setReg (dpBase 7 + 0x40) 0x80000003).onDp 7 fun c => { c with stored := 8 }), 7, 3, by decide +kernel⟩⟩

theorem test_witness_CountersAndTime :
    (∃ (s : State), listedOnce s) ∧
    (∃ (s : State) (b : Fin 66), s.dev.pcFrozen b = false ∧ (s.dev.pc b).cyc = 2 ^ 64 - 1) ∧
    (∃ (s : State) (b : Fin 66) (i : Fin 9), i.val < 8 ∧ s.dev.pcFrozen b = false ∧ (s.dev.pcSel b i).getLsbD 14 = true ∧
      (s.dev.pcSel b i).getLsbD 16 = false ∧ s.dev.pcOddChained b i = false ∧ s.dev.pcEvenChained b i = false ∧ SMap.get
      (s.dev.pc b).cnt i 0 = 2 ^ 48 - 1) ∧
    (∃ (s : State) (m : Master) (b : Fin 66) (i : Fin 9) (snap : Bool), Readable s m (loCell b i snap) ∧ (s.dev.pcOddChained b i =
      false ∨ i.val = 8)) ∧
    (∃ (s : State) (m : Master), Readable s m 0x10) ∧
    (∃ (s : State) (m : Master), Accepted s m 0x8C00 ((s.dev.reg 0x8C00 &&& 1) ||| 2)) ∧
    (∃ (s : State) (m : Master), Accepted s m 0x8C00 1) ∧
    (∃ (s : State) (m : Master), Accepted s m 0x8C00 ((s.dev.reg 0x8C00 &&& 1) ||| 4)) ∧
    (∃ (s : State), s.dev.bit 0x8C00 1 = true) ∧
    (∃ (s : State) (m : Master) (b : Fin 66) (on : Bool), s.dev.bit (aPcCtrl b) 1 = false ∧ Accepted s m (aPcCtrl b) (Fld.set ⟨0,
      1⟩ on.toNat (s.dev.reg (aPcCtrl b)))) ∧
    (∃ (s : State) (m : Master) (b : Fin 66), Accepted s m (aPcCtrl b) (s.dev.reg (aPcCtrl b) ||| 2)) :=
  ⟨⟨(upWith fun d => flowOn 4095 (fun w => { w with pm := { seen := true } }) (d.onCarrier 47 fun k => { k with pm := { corrected := 5, defectSeconds := 4294967295, seen := true } })), by decide +kernel⟩,
   ⟨(upWith fun d => (ringsOn 0 d).onPc 65 fun p => { p with cyc := 2 ^ 64 - 1 }), 65, by decide +kernel⟩,
   ⟨(upWith fun d => ((ringsOn 0 d).setReg (pcBase 65 + 0x50 + 28) 0x4001).onPc 65 fun p => { p with cnt := [(7, 2 ^ 48 - 1)] }), 65, 7, by decide +kernel⟩,
   ⟨(upWith fun d => d.onPc 65 fun p => { p with cnt := [(7, 2 ^ 48 - 1)] }), .pcie, 65, 7, false, by decide +kernel⟩,
   ⟨(upWith fun d => { d with time := 2 ^ 40 + 5 }), .pcie, by decide +kernel⟩,
   ⟨(upWith fun d => d.setReg 0x8C00 1), .pcie, by decide +kernel⟩,
   ⟨up, .pcie, by decide +kernel⟩,
   ⟨(upWith fun d => d.setReg 0x8C00 1), .pcie, by decide +kernel⟩,
   ⟨(upWith fun d => { d.setReg 0x8C00 3 with pcGlbClr := true, pcs := [(65, { cyc := 7, cnt := [(7, 2 ^ 48 - 1)] })] }), by decide +kernel⟩,
   ⟨up, .pcie, 65, true, by decide +kernel⟩,
   ⟨(upWith fun d => { d.setReg (pcBase 65 + 0x74) 5 with pcs := [(65, { cyc := 7, cnt := [(7, 2 ^ 48 - 1)] })] }), .pcie, 65, by decide +kernel⟩⟩

theorem test_witness_DeviceStates :
    (∃ (s : State) (m : Master), s.dev.pw.steps = [] ∧ Accepted s m 0x2000 0) ∧
    (∃ (s : State) (m : Master), s.dev.pw.steps = [] ∧ Accepted s m 0x2000 1) ∧
    (∃ (s : State) (m : Master), s.dev.pw.steps = [] ∧ Accepted s m 0x2000 2) ∧
    (∃ (s : State) (m : Master), s.dev.pw.steps = [] ∧ Accepted s m 0x2000 3) ∧
    (∃ (s : State) (m : Master), s.dev.pw.steps = [] ∧ Accepted s m 0x2000 4) ∧
    (∃ (s : State) (m : Master), s.dev.pw.steps ≠ [] ∧ Accepted s m 0x2000 0) ∧
    (∃ (s : State) (st : Nat), s.dev.pw.to_ = some st ∧ 2 ≤ st ∧ s.dev.pwrBusy = true) ∧
    (∃ (s : State) (st : Nat), s.dev.pw.to_ = some st ∧ st < 2 ∧ s.dev.pwrBusy = true ∧ s.dev.mx.regionWait = []) ∧
    (∃ (s : State) (st : Nat), s.dev.pw.to_ = some st ∧ 2 ≤ st ∧ st ≤ 4 ∧ s.dev.pwrBusy = true ∧ s.dev.pw.window = true ∧
      s.dev.pw.wakeDue = none ∧ s.dev.mx.regionWait = []) ∧
    (∃ (s : State) (db : Bool), restsGated s) ∧
    (∃ (s : State) (st : Nat) (db : Bool), s.dev.pwrBusy = true ∧ s.dev.pw.to_ = some st ∧ 2 ≤ st ∧ s.dev.pw.window = false) ∧
    (∃ (s : State), restsGated s ∧ s.dev.bit aPwrCfg 4 = true) ∧
    (∃ (s : State), restsGated s ∧ s.dev.bit aPwrCfg 3 = true ∧ s.dev.bit aPwrCfg 1 = false) ∧
    (∃ (s : State), restsGated s ∧ s.dev.bit aPwrCfg 3 = true ∧ s.dev.bit aPwrCfg 1 = true) ∧
    (∃ (s : State) (g : Fin 8) (v : BitVec 16), restsGated s ∧ s.dev.bit aPwrCfg (16 + g) = true ∧ s.dev.fld 0x201C ⟨0, 16⟩ <
      v.toNat) ∧
    (∃ (s : State) (j : Fin 3), restsGated s ∧ s.dev.bit aPwrCfg 5 = true ∧ s.dev.lState j = lsIdle) ∧
    (∃ (s : State), s.dev.boot = .off) :=
  ⟨⟨up, .pcie, by decide +kernel⟩,
   ⟨up, .pcie, by decide +kernel⟩,
   ⟨up, .pcie, by decide +kernel⟩,
   ⟨up, (.core 3), by decide +kernel⟩,
   ⟨up, .pcie, by decide +kernel⟩,
   ⟨(upWith fun d => { d with pw := { steps := [(7, ⟨5, 6, true, false⟩)] } }), .pcie, by decide +kernel⟩,
   ⟨(upWith fun d => { d.setReg aPwrStat 8 with pw := { to_ := some 2 } }), 2, by decide +kernel⟩,
   ⟨(upWith fun d => { d.setReg aPwrStat 0xB with pw := { to_ := some 0 } }), 0, by decide +kernel⟩,
   ⟨(upWith fun d => { d.setReg aPwrStat 8 with pw := { to_ := some 4, window := true } }), 4, by decide +kernel⟩,
   ⟨(upWith fun d => d.setReg aPwrStat 3), true, by decide +kernel⟩,
   ⟨(upWith fun d => { (ringsOn 0 d).setReg aPwrStat 8 with pw := { to_ := some 4 } }), 4, false, by decide +kernel⟩,
   ⟨(upWith fun d => (d.setReg aPwrStat 2).setReg aPwrCfg 0x10), by decide +kernel⟩,
   ⟨(upWith fun d => (d.setReg aPwrStat 2).setReg aPwrCfg 8), by decide +kernel⟩,
   ⟨(upWith fun d => (d.setReg aPwrStat 3).setReg aPwrCfg 10), by decide +kernel⟩,
   ⟨(upWith fun d => ((d.setReg aPwrStat 3).setReg aPwrCfg 0x800000).setReg 0x201C 5), 7, 6, by decide +kernel⟩,
   ⟨(upWith fun d => ((linkIn 2 lsIdle d).setReg aPwrStat 3).setReg aPwrCfg 0x20), 2, by decide +kernel⟩,
   ⟨(upWith fun d => { d with boot := .off, pwrReq := false }), by decide +kernel⟩⟩

theorem test_witness_RegionsRailsAndBoard :
    (∃ (s : State) (m : Master) (g : Fin 8) (st : Fin 3), st.val ≠ 0 ∧ s.dev.regState g = 0 ∧ Accepted s m 0x200C (Fld.set ⟨2 * g,
      2⟩ st (s.dev.reg 0x200C))) ∧
    (∃ (s : State) (m : Master) (g : Fin 8), (s.dev.regState g = 1 ∨ s.dev.regState g = 2) ∧ Accepted s m 0x200C (Fld.set ⟨2 * g,
      2⟩ 0 (s.dev.reg 0x200C))) ∧
    (∃ (s : State) (g : Fin 8), s.dev.regState g = 3 ∧ s.dev.mx.regionWait = []) ∧
    (∃ (s : State) (g : Fin 8), s.dev.regGate g ≠ 0 ∧ s.dev.regState g = 0 ∧ s.dev.regionOff g = true) ∧
    (∃ (s : State) (m : Master) (rs : BitVec 8) (dev : Bool), Accepted s m 0x2018 (BitVec.ofNat 32 (rs.toNat + 256 * dev.toNat))) ∧
    (∃ (s : State) (n : Fin 8) (v : Nat), v < 2 ^ 11 ∧ s.dev.avsAllowed n v = true) ∧
    (∃ (s : State) (n : Fin 8) (v : BitVec 16) (x : AvsStep), s.dev.stepOf n = some x ∧ voutNear x.target v = true) ∧
    (∃ (s : State) (n : Fin 8) (x : AvsStep), s.dev.stepOf n = some x ∧ x.raise = false ∧ x.prev < 2 ^ 11) ∧
    (∃ (s : State) (n : Fin 8) (x : AvsStep), s.dev.stepOf n = some x ∧ x.raise = true ∧ x.again = false) ∧
    (∃ (s : State) (fr : BcFrame), s.dev.bcUp = true ∧ s.dev.boot ≠ .off ∧ fr.cmd = 0x0B ∧ fr.clocks = 64 ∧ fr.addr.toNat < 0x10) ∧
    (∃ (s : State) (fr : BcFrame), s.dev.bcUp = true ∧ s.dev.boot ≠ .off ∧ fr.cmd = 0x02 ∧ fr.clocks = 56 ∧ fr.addr = 0x40) :=
  ⟨⟨(upWith fun d => d.setReg aPwrCfg 4), (.core 3), 7, 2, by decide +kernel⟩,
   ⟨(upWith fun d => (d.setReg aPwrRstat 0x8000).setReg 0x200C 0x8000), .pcie, 7, by decide +kernel⟩,
   ⟨(upWith fun d => d.setReg aPwrRstat 0xC000), 7, by decide +kernel⟩,
   ⟨(upWith fun d => d.setReg 0x200C 0x8000), 7, by decide +kernel⟩,
   ⟨(upWith fun d => d.setReg aPwrRstat 0x1FF0000), .pcie, 0x81, true, by decide +kernel⟩,
   ⟨(upWith fun d => (d.setReg 0x2020 1).setReg (aAvsRail 7) (BitVec.ofNat 32 (0x80 + 2 ^ 8 * 700 + 2 ^ 19 * 900))), 7, 900, by decide +kernel⟩,
   ⟨(upWith fun d => { d with pw := { steps := [(7, ⟨800, 810, true, false⟩)] } }), 7, 3298, ⟨800, 810, true, false⟩, by decide +kernel⟩,
   ⟨(upWith fun d => { ringsOn 0 d with pw := { steps := [(7, ⟨820, 810, false, false⟩)] } }), 7, ⟨820, 810, false, false⟩, by decide +kernel⟩,
   ⟨(upWith fun d => { d with pw := { steps := [(7, ⟨800, 810, true, false⟩)] } }), 7, ⟨800, 810, true, false⟩, by decide +kernel⟩,
   ⟨(upWith fun d => { d with bcUp := true }), ⟨0x0B, 0xF, 0, 64⟩, by decide +kernel⟩,
   ⟨(upWith fun d => { d with bcUp := true }), ⟨2, 0x40, 0xFFFFFFFF, 56⟩, by decide +kernel⟩⟩

theorem test_witness_FaultsAndMemoryErrors :
    (∃ (s : State) (x : Fin 16) (i : Fin 64), s.dev.lineIgnored x i = false ∧ s.dev.faultClass x i ≤ 4 ∧ s.dev.faultClass x i ≠ 3) ∧
    (∃ (s : State) (x : Fin 16) (i : Fin 64), s.dev.lineIgnored x i = true) ∧
    (∃ (s : State) (m : Master) (x : Fin 16) (i : Fin 64), s.dev.lineIgnored x i = false ∧ s.dev.faultClass x i ≤ 4 ∧
      s.dev.faultClass x i ≠ 3 ∧ Accepted s m 0x3384 (BitVec.ofNat 32 (0x80000000 + 64 * x.val + i.val)) { maint := true }) ∧
    (∃ (s : State) (m : Master) (x : Fin 16) (i : Fin 64), Accepted s m (0x3000 + 8 * x + 4 * (i.val / 32)) (BitVec.ofNat 32 (2 ^
      (i.val % 32)))) ∧
    (∃ (s : State), s.dev.alive = .wave) ∧
    (∃ (s : State) (x : Fin 16), logOrSafe s x 4) ∧
    (∃ (s : State) (c : Fin 48), logOrSafe s (8 + c / 12) 3) ∧
    (∃ (s : State) (a : Word), logOrSafe s 12 3) :=
  ⟨⟨(upWith (ringsOn 0)), 0, 11, by decide +kernel⟩,
   ⟨(upWith fun d => d.setReg aPwrStat 3), 15, 63, by decide +kernel⟩,
   ⟨(upWith (ringsOn 0)), .pcie, 8, 3, by decide +kernel⟩,
   ⟨(upWith fun d => (d.setReg (0x3000 + 8 * 8 + 4) 0x100).onCarrier 8 fun k => { k with squelch := true }), .pcie, 8, 40, by decide +kernel⟩,
   ⟨(upWith fun d => { d with alive := .wave }), by decide +kernel⟩,
   ⟨(upWith fun d => (ringsOn 0 d).setReg (aFcEcc 15) 0x0003FFFF), 15, by decide +kernel⟩,
   ⟨(upWith fun d => (ringsOn 0 d).setReg (0x3200 + 4 * 11) 0), 47, by decide +kernel⟩,
   ⟨(upWith fun d => ringsOn 0 (d.onCore 3 fun c => { c with stack := [5] })), 0xFFFFFFFF, by decide +kernel⟩⟩

theorem test_witness_Calibration :
    (∃ (s : State) (m : Master) (g : Fin 8), s.dev.regionOff g = true ∧ (s.dev.region g).full = false ∧ Accepted s m 0x3800
      ((s.dev.reg 0x3800 &&& 0x100#32) ||| (BitVec.ofNat 8 (2 ^ g.val)).setWidth 32) { refsOk := some true }) ∧
    (∃ (s : State) (g : Fin 8) (ms : List (Nat × List Int)) (temp : BitVec 16), (s.dev.region g).full = true ∧ (s.dev.factorsJudged
      g temp (ms.filter fun m => m.1 < setCount)).2 = true ∨ logOrSafe s g 6) ∧
    (∃ (s : State) (g : Fin 8) (temp : BitVec 16), tempDist temp (s.dev.trefFull g) ≤ 2000 ∧ s.dev.runDue g temp = true) ∧
    (∃ (s : State) (g : Fin 8) (temp : BitVec 16), tempDist temp (s.dev.trefFull g) ≤ 2000 ∧ s.dev.runDue g temp = true ∧ logOrSafe
      s g 6) ∧
    (∃ (s : State) (b : Bool) (r : CalRec), s.dev.bn.storing = some (b, r) ∧ s.dev.bn.queued = false) :=
  ⟨⟨(upWith id), .pcie, 7, by decide +kernel⟩,
   ⟨(upWith fun d => (d.setReg 0x3800 0x80).onRegion 7 fun r => { r with full := true }), 7, [], 0xFFFF, by decide +kernel⟩,
   ⟨(upWith fun d => ((((txIn 47 csRun d).setReg 0x3800 0x100).setReg (aBnTref 7) 0)).onCarrier 47 fun k => { k with convReady := true }), 7, 2000, by decide +kernel⟩,
   ⟨(upWith fun d => ((((txIn 47 csRun (ringsOn 0 d)).setReg 0x3800 0x100).setReg (aBnTref 7) 0)).onCarrier 47 fun k => { k with convReady := true }), 7, 2000, by decide +kernel⟩,
   ⟨(upWith fun d => { d with bn := { storing := some (true, ⟨5, [], [], 0, 0⟩) } }), true, ⟨5, [], [], 0, 0⟩, by decide +kernel⟩⟩

theorem test_witness_StartupAndReset :
    (∃ (s : State) (m : Master), Accepted s m 0x20 2) ∧
    (∃ (s : State), s.dev.hubReset = true) ∧
    (∃ (s : State), s.dev.bit aPwrStat 7 = true) ∧
    (∃ (s : State), s.dev.boot ≠ .off ∧ s.dev.resetLow = false ∧ s.dev.tc.zscope = none) ∧
    (∃ (s : State), s.dev.boot = .held ∧ s.dev.resetLow = true) ∧
    (∃ (s : State), s.dev.boot = .running) ∧
    (∃ (s : State) (m : Master), Accepted s m 0x20 1 ∧ s.dev.resetLow = false ∧ s.dev.tc.zscope = none ∧ s.dev.proof = []) ∧
    (∃ (s : State) (m : Master) (g : Fin 8), Accepted s m 0x20 (BitVec.ofNat 32 (2 ^ (8 + g.val)))) :=
  ⟨⟨(upWith fun d => (flowOn 4095 (fun w => { w with tx0 := aKey 1 }) d).setReg aSwCtrl 5), .pcie, by decide +kernel⟩,
   ⟨(upWith fun d => each hubClusters (fun k d => d.onCluster (clusterCode k) fun c => { c with reset := true }) d), by decide +kernel⟩,
   ⟨(upWith fun d => d.setReg aPwrStat 0x84), by decide +kernel⟩,
   ⟨(upWith fun d => (flowOn 4095 id d).setReg 0x3004 5), by decide +kernel⟩,
   ⟨State.reset, by decide +kernel⟩,
   ⟨{ dev := { boot := .running } }, by decide +kernel⟩,
   ⟨(upWith (flowOn 4095 id)), .pcie, by decide +kernel⟩,
   ⟨(upWith fun d => d.onRegion 7 fun r => { r with taps := [(3, 5)] }), .pcie, 7, by decide +kernel⟩⟩


/-- A set up device with a command waits: the invariant holds and the step answers a next state. -/
theorem test_witness_StepKeepsTheInvariant :
    ∃ s t : State, Inv s ∧ s.conn ≠ {} ∧ step s = .next t :=
  ⟨{ up with conn := someConn, pending := [.uartBreak] }, _, by decide +kernel, by decide +kernel, rfl⟩

/-! Ill-formed terms, one for each check. -/

theorem test_wf_change : (Instr.change [.framer, .framer]).wellFormed = false := by decide
theorem test_wf_port_lanes : (Instr.txCryptoBlock 0 (List.replicate 9 [])).wellFormed = false := by decide
theorem test_wf_frame_lanes : (Instr.carrierFrameTx 0 (List.replicate 9 [])).wellFormed = false := by decide
theorem test_wf_converter_dimensions : (Instr.carrierFrameRx 0 [[], [], []] (found ⟨0, 0, 0, 0⟩)).wellFormed = false := by decide
theorem test_wf_converter_lengths : (Instr.carrierFrameRx 0 [[1], [], [], []] (found ⟨0, 0, 0, 0⟩)).wellFormed = false := by decide
theorem test_wf_converter_codes :
    (Instr.carrierFrameRx 0 [[128], [0], [0], [0]] (found ⟨0, 0, 0, 0⟩)).wellFormed = false := by decide
theorem test_wf_candidates :
    (Instr.carrierFrameRx 0 [[], [], [], []] ⟨List.replicate 5 (⟨0, 0, 0, 0⟩, 0), 0, 0⟩).wellFormed = false := by decide
theorem test_wf_unit_slot :
    (Instr.unitSlot 0 [(7, List.replicate 48 0), (7, List.replicate 48 0)]).wellFormed = false := by decide
theorem test_wf_decided_blocks : (Instr.unitSlot 0 [(7, List.replicate 47 0)]).wellFormed = false := by decide
theorem test_wf_refinement : (Instr.refinementStep 0 (List.replicate 6 0) 0).wellFormed = false := by decide
theorem test_wf_skip_set_lanes : (Instr.skipSet 0 [true] (List.replicate 8 0) 0).wellFormed = false := by decide
theorem test_wf_skip_set_fill : (Instr.skipSet 0 (List.replicate 8 true) [0] 0).wellFormed = false := by decide
theorem test_wf_cell : (Instr.cellReceived 0 (List.replicate 87 0)).wellFormed = false := by decide
theorem test_wf_state : (Instr.state 1 ⟨0, [], []⟩).wellFormed = false := by decide
theorem test_wf_sum_req : (Instr.sumReq 1 [0, 1, 2] []).wellFormed = false := by decide
theorem test_wf_summary : (Instr.summary 1 .tx 0 0 true true [] (List.replicate 36 0)).wellFormed = false := by decide
theorem test_wf_descriptor :
    (Instr.hostReadCompletion 0 .command (.data (descOf 0 0 (List.replicate 37 0)))).wellFormed = false := by decide
theorem test_wf_flow_create : (Instr.flowCreate 0 [5119] [5120]).wellFormed = false := by decide
theorem test_wf_grant : (Instr.grant [5120] none).wellFormed = false := by decide
theorem test_wf_tx_tti : (Instr.txTti 0 [1]).wellFormed = false := by decide
theorem test_wf_exp_tti : (Instr.expTti 0 [1]).wellFormed = false := by decide
theorem test_wf_nonce : (Instr.attest [1]).wellFormed = false := by decide
theorem test_wf_enrolment_nonce : (Instr.enrol 0 [1] true anAuth).wellFormed = false := by decide
theorem test_wf_peer_list : (Instr.peerList (List.replicate 65 0) anAuth).wellFormed = false := by decide

/-! Single steps against the manual's worked examples. -/

/-- The state after a command. -/
def after (i : Instr) (s : State) : State :=
  match exec i s with
  | .next t => t
  | _ => s

/-- The record that an output carries. -/
def recordOf : Out → Option Rec
  | .record _ _ _ _ _ _ rec => some rec
  | _ => none

/-- Group 3 holds carriers 24 and 30, and the owner's event ring takes records. -/
def groupThree : State := upWith fun d => ringsOn 0 (d.setReg 0x1018 0x41000000)

/-- Chapter 21, "Worked example": rate 1,300 is rejected once for the aperture, at word 4 of the window of carrier 24. -/
theorem test_group_write_reject :
    let t := after (.broadcastWrite .pcie 0x2200010 0x20514) groupThree
    t.dev.reg 0xFFFF00 = 0x401 ∧ t.dev.reg (carrBase 24 + 0x10) = groupThree.dev.reg (carrBase 24 + 0x10) ∧
      t.dev.out.head?.map recordOf = some (some ⟨.reject, 0, 10, 0, 0, [0x2200010, 0x20514]⟩) := by
  decide +kernel

/-- The same group, rate 1,000: both carriers take the word. -/
theorem test_group_write :
    let t := after (.broadcastWrite .pcie 0x2200010 0x203E8) groupThree
    t.dev.reg (carrBase 24 + 0x10) = 0x203E8 ∧ t.dev.reg (carrBase 30 + 0x10) = 0x203E8 ∧
      t.dev.reg (carrBase 25 + 0x10) ≠ 0x203E8 := by
  decide +kernel

/-- Lanes 72 to 79 are powered and ready. -/
def eightLanes : State :=
  upWith fun d => (List.range 8).foldl (fun d i => (d.setReg (laneBase (72 + i)) 0).onLane (72 + i) fun k => { k with ready := true }) d

/-- Chapter 2, "Worked example", step 3: base 72 is taken. -/
theorem test_port_map : (after (.portMapWrite .pcie 9 0x247) eightLanes).dev.reg 0x108024 = 0x247 := by decide +kernel

/-- Chapter 2, "Worked example": base 76 is rejected at word 0x2009 of the framer window, and the port keeps its setting. -/
theorem test_port_map_reject :
    let t := after (.portMapWrite .pcie 9 0x267) eightLanes
    t.dev.reg 0x108024 = eightLanes.dev.reg 0x108024 ∧ (t.dev.reg 0x100FF0).toNat / 256 = 0x2009 := by
  decide +kernel

/-- Chapter 4, "Worked example: flow 10": the IV of a block. -/
theorem test_block_iv :
    blockIv { loaded := true, key := 0, salt := 0x5A3C91E4 } 0x12D687 = 0x5A3C91E4000000000012D687#96 := by decide

/-- Chapter 5: the slice of band overhead bytes 24 and 25. -/
theorem test_slice : withCrc8 [0x0C, 0x01, 0x00] = [0x0C, 0x01, 0x00, 0xEF] := by decide

/-- Carrier 28 with the shadow words of chapter 7's example. -/
def carrier28 : State :=
  upWith fun d => (((d.setReg 0xC80010 0x20400).setReg 0xC80014 0x6A0D703).setReg 0xC80018 0x663).setReg 0xC80000 1

/-- The change procedure that enables carrier 28, before the carrier's acknowledgement. -/
def enabling28 (waiting : List Cluster) (prepared : Bool) : State :=
  carrier28.on fun d => { d.setReg aBmfCnt 9 with chg := some ⟨[.carrier 28, .framer, .switch], waiting, [], false, 9, false, true, prepared, 0, none⟩ }

/-- Chapter 7, "Worked example": the commit checks pass. -/
theorem test_carrier_28_prepare :
    (after (.prepareAck (.carrier 28)) (enabling28 [.carrier 28, .framer] false)).dev.chg =
      some ⟨[.carrier 28, .framer, .switch], [.framer], [], false, 9, false, true, false, 0, none⟩ := by
  decide +kernel

/-- The same with carrier 29 enabled 100 GHz away: the check fails (R203). -/
theorem test_carrier_28_overlap :
    ((after (.prepareAck (.carrier 28)) ((enabling28 [.carrier 28, .framer] false).on fun d =>
      ((carrierOn 29 d).setReg (carrBase 29 + 0x18) (0x663 + 16)).setAct (carrBase 29 + 0x18) (0x663 + 16))).dev.chg.map
        fun g => g.refused) = some true := by
  decide +kernel

/-- Chapter 7, "Worked example": k = 81, D = 573,112 and a largest M of 106. -/
theorem test_carrier_28_mode :
    shaperK 3 215 = 81 ∧ frameBits 3 215 = 573112 ∧ slotsFit 1024 3 215 106 = true ∧ slotsFit 1024 3 215 107 = false := by
  decide +kernel

/-- Table 7-5: from the commit the carrier is in TUNE. Its format here is uniform, for which CARR_SHP reads 0. -/
theorem test_carrier_28_commit :
    let t := after (.commitBoundary (.carrier 28) .tx) (after .changeCommit ((enabling28 [] true).on fun d => d.setReg 0xC80014 0x100000))
    t.dev.reg 0xC80024 = 0 ∧ t.dev.cState 28 = csTune := by
  decide +kernel

/-- Chapter 3, the last slot of flow 17: the standby transmit entry of slot 5,119. -/
theorem test_page_entry :
    let t := after (.registerWrite .pcie .bar0 0x154FFC 0x27E023) up
    t.conn.pages = [(2 ^ 15 + 5119, 0x27E023)] := by
  decide +kernel

/-- Chapter 17: CARR 4 of region 4 under control word 0x549. -/
theorem test_dp_ctrl : (after (.dpCtrlWrite .pcie 4 0x549) up).dev.reg 0xF00000 = 0x549 := by decide +kernel

/-- Chapter 8, "Worked example": the broadcast arms a capture in every region. -/
theorem test_capture_broadcast :
    let t := after (.broadcastWrite .pcie 0x2810104 0x80382FA4) up
    (List.range 8).all (fun g => decide (t.dev.reg (0x1410104 + g * 0x100000) = 0x80382FA4)) = true := by
  decide +kernel

/-- Chapter 18, "Worked example": PWR_REG = 0x8000 gates region 7 in DEEP. -/
theorem test_region_deep : (after (.regionGate .pcie 7 2) up).dev.regState 7 = 2 := by decide +kernel

/-- Core 1 as in chapter 15's example: source 40 of priority 0x52, 200 of 0x90 and 201 of 0x95, edge triggered and unmasked; the
stack is `st` and the sources of `ps` are pending. -/
def nested (st ps : List Nat) : State :=
  upWith fun d =>
    let d1 := ((((d.setIc 0x328 0x10000).setIc (aIcSrc 40) 0x552).setIc (aIcSrc 200) 0x590).setIc (aIcSrc 201) 0x595).onCore 1
      fun k => { k with running := true }
    ps.foldl (fun d s => d.setPendBit s true) (((d1.setIc 0x204 0).setIc 0x218 0).setStack 1 st)

/-- Table 15-7: source 40 is delivered at vector 0x0001_0280. -/
theorem test_ic_first_vector :
    (after (.interruptDelivery 1 false true) (nested [] [40])).dev.out.head? = some (.vector 1 0x10280) := by decide +kernel

/-- Table 15-7: group 9 pre-empts group 5, at depth 2. -/
theorem test_ic_preempts :
    let t := after (.interruptDelivery 1 false true) (nested [40] [200])
    t.dev.out.head? = some (.vector 1 0x10C80) ∧ (t.dev.icReg (aIcStat 1)).toNat % 32 = 2 := by
  decide +kernel

/-- Table 15-7: source 201 has the group of the top, so it waits. -/
theorem test_ic_waits : (after (.interruptDelivery 1 false true) (nested [200, 40] [201])).dev.out = [] := by decide +kernel

/-- Table 15-7: completing 40 while 200 is on top freezes the stack. -/
theorem test_ic_out_of_order :
    let t := after (.eoi 1 40) (nested [200, 40] [201])
    t.dev.out.head? = some (.vector 1 0x12000) ∧ t.dev.icFrozen 1 = true ∧
      (after (.interruptDelivery 1 false true) t).dev.out = t.dev.out := by
  decide +kernel

/-- Chapter 15: after thaw, source 201 is delivered at vector 0x0001_0C90. -/
theorem test_ic_thaw :
    (after (.interruptDelivery 1 false true) (after (.thaw 1) (after (.eoi 1 40) (nested [200, 40] [201])))).dev.out.head? =
      some (.vector 1 0x10C90) := by
  decide +kernel


end Sys2Proof.Tests
end

section
/-!
PROOFS. Accesses that are no naturally aligned words (R6): what discarding one and answering it does to the registers and to what is
sent, and the statement about them.
-/
namespace Sys2Proof.Machine

/-! Fields that saturate. -/

theorem satInc_eq_min (max n : Nat) : satInc max n = min max (n + 1) := by
  unfold satInc
  split <;> omega

/-- A saturating field has counted one more, up to its greatest value. -/
theorem Dev.fld_satFld_same (d : Dev) (a : Nat) {f : Fld} (hf : f.lsb + f.width ≤ 32) :
    (d.satFld a f).fld a f = min (2 ^ f.width - 1) (d.fld a f + 1) := by
  have hlt : min (2 ^ f.width - 1) (d.fld a f + 1) < 2 ^ f.width :=
    Nat.lt_of_le_of_lt (Nat.min_le_left _ _) (Nat.sub_one_lt (Nat.ne_of_gt (Nat.two_pow_pos _)))
  calc (d.satFld a f).fld a f
      = f.get (f.set (satInc (2 ^ f.width - 1) (d.fld a f)) (d.reg a)) := by rw [Dev.fld, Dev.reg_satFld, if_pos rfl]
    _ = min (2 ^ f.width - 1) (d.fld a f + 1) := by rw [Fld.get_set_same hf, satInc_eq_min, Nat.mod_eq_of_lt hlt]

/-! The answer to a discarded access. -/

@[simp] theorem Dev.reg_discardReply (d : Dev) (m : Master) (read : Bool) (a : Nat) : (d.discardReply m read).reg a = d.reg a := by
  cases read <;> rfl

theorem Dev.out_discardReply (d : Dev) (m : Master) (read : Bool) :
    (d.discardReply m read).out = if read then .reply m 0xFFFFFFFF#32 :: d.out else d.out := by
  cases read <;> rfl

/-- Discarding an access touches registers and what is sent, and nothing else. -/
theorem State.onlyIn_discard (s : State) (m : Master) (read : Bool) :
    OnlyIn [.regs, .out] s (s.on fun d => d.discard.discardReply m read) := by
  cases read <;> rfl

/-- Discarding an access writes no register but that of the count. -/
theorem State.regsBut_discard (s : State) (m : Master) (read : Bool) :
    RegsBut [aHiDisc] s (s.on fun d => d.discard.discardReply m read) := by
  intro a ha
  have hne : a ≠ aHiDisc := fun h => ha (List.mem_singleton.2 h)
  calc (s.dev.discard.discardReply m read).reg a
      = (s.dev.satFld aHiDisc ⟨0, 16⟩).reg a := by rw [Dev.reg_discardReply, Dev.discard]
    _ = s.dev.reg a := by rw [Dev.reg_satFld, if_neg hne]

/-! The command. -/

theorem exec_misalignedAccess_of_open {s : State} (h : s.dev.barOpen = true) (bar : Bar) (read : Bool) :
    exec (.misalignedAccess bar read) s = .next (s.on fun d => d.discard.discardReply .pcie read) := by
  calc exec (.misalignedAccess bar read) s
      = s.nextOn fun d => if d.barOpen then d.discard.discardReply .pcie read else d.closedAccess .pcie read := rfl
    _ = .next (s.on fun d => d.discard.discardReply .pcie read) := by
      simp only [State.nextOn_eq, State.on, h, if_true]

/-- Settles O8: the access ends in the state of `exec_misalignedAccess_of_open`, whose count, other registers, other parts and
answer have a lemma each. -/
theorem misalignedAccessIsDiscarded : Obligations.MisalignedAccessIsDiscarded := by
  unfold Obligations.MisalignedAccessIsDiscarded
  intro s bar read hopen
  refine ⟨_, exec_misalignedAccess_of_open hopen bar read, ?_, s.regsBut_discard .pcie read, s.onlyIn_discard .pcie read, ?_⟩
  · calc (s.dev.discard.discardReply .pcie read).fld aHiDisc ⟨0, 16⟩
        = (s.dev.satFld aHiDisc ⟨0, 16⟩).fld aHiDisc ⟨0, 16⟩ := by rw [Dev.fld, Dev.reg_discardReply, Dev.fld, Dev.discard]
      _ = min 0xFFFF (s.dev.fld aHiDisc ⟨0, 16⟩ + 1) := Dev.fld_satFld_same s.dev aHiDisc (by decide)
  · exact Dev.out_discardReply s.dev.discard .pcie read

end Sys2Proof.Machine
end

section
/-!
PROOFS. What is recorded of a write that is rejected (R29) and of a commit that is refused (R19): a register is written, the owner's
event ring gets a record, and after a boundary SSF of every flow follows its causes (R143, R144). What these three can change, and the
statements about them.
-/
namespace Sys2Proof.Machine
open RegMap

/-! Fields and bits of a register after a field was set. -/

theorem Dev.fld_setFld_same (d : Dev) (a : Nat) {f : Fld} (hf : f.lsb + f.width ≤ 32) (v : Nat) :
    (d.setFld a f v).fld a f = v % 2 ^ f.width := by
  rw [Dev.fld, Dev.reg_setFld, if_pos rfl, Fld.get_set_same hf]

theorem Dev.fld_setBit_outside (d : Dev) (a i : Nat) (x : Bool) {g : Fld} (h : g.lsb + g.width ≤ i ∨ i + 1 ≤ g.lsb) :
    (d.setBit a i x).fld a g = d.fld a g := by
  rw [Dev.fld, Dev.reg_setBit, if_pos rfl, Fld.get_set_disjoint h, Dev.fld]

theorem Dev.bit_setFld_outside (d : Dev) (a j : Nat) (f : Fld) (v : Nat) (h : j < f.lsb ∨ f.lsb + f.width ≤ j) :
    (d.setFld a f v).bit a j = d.bit a j := by
  rw [Dev.bit, Dev.reg_setFld, if_pos rfl, Fld.getLsbD_set, if_neg (by omega), Dev.bit]

/-- A field that was set to 0 has no bit set. -/
theorem Dev.bit_setFld_zero (d : Dev) (a j : Nat) (f : Fld) (h : f.lsb ≤ j ∧ j < f.lsb + f.width ∧ j < 32) :
    (d.setFld a f 0).bit a j = false := by
  rw [Dev.bit, Dev.reg_setFld, if_pos rfl, Fld.getLsbD_set, if_pos ⟨h.2.2, h.1, h.2.1⟩, Nat.zero_testBit]

/-! Registers written. -/

/-- The device with other registers. -/
def RegsFrom (d e : Dev) : Prop := ∃ rg, e = { d with regs := rg }

theorem Dev.setFld_regsFrom (d : Dev) (a : Nat) (f : Fld) (v : Nat) : RegsFrom d (d.setFld a f v) := ⟨_, rfl⟩

theorem Dev.setBit_regsFrom (d : Dev) (a i : Nat) (x : Bool) : RegsFrom d (d.setBit a i x) := ⟨_, rfl⟩

theorem RegsFrom.trans {d e g : Dev} (h : RegsFrom d e) (k : RegsFrom e g) : RegsFrom d g := by
  obtain ⟨rg, rfl⟩ := h
  obtain ⟨rg', rfl⟩ := k
  exact ⟨rg', rfl⟩

/-! Records. -/

theorem RecordsFrom.bit {d e : Dev} (h : RecordsFrom d e) (a i : Nat) : e.bit a i = d.bit a i := by rw [Dev.bit, h.reg, Dev.bit]

theorem RecordsFrom.fld {d e : Dev} (h : RecordsFrom d e) (a : Nat) (f : Fld) : e.fld a f = d.fld a f := by
  rw [Dev.fld, h.reg, Dev.fld]

theorem RegsFrom.onlyIn_of_records {s : State} {d e : Dev} (h : RegsFrom s.dev d) (k : RecordsFrom d e) :
    OnlyIn (.regs :: recordParts) s { s with dev := e } := by
  obtain ⟨rg, rfl⟩ := h
  obtain ⟨rs, o, n, rfl⟩ := k
  rfl

/-- A ring that has room before registers are written has room for the record that follows. -/
theorem RegsFrom.ownerRecord_recorded {s : State} {d : Dev} (h : RegsFrom s.dev d) (hroom : EventRoom s 0) (r : Rec) :
    Recorded s { s with dev := d.ownerRecord r } 0 r := by
  obtain ⟨rg, rfl⟩ := h
  exact Dev.record_recorded (s := { s with dev := { s.dev with regs := rg } }) hroom r

/-- What has been recorded stays recorded when more is sent. -/
theorem Recorded.of_suffix {s t u : State} {n : Nat} {r : Rec} (h : Recorded s t n r) (k : t.dev.out <:+ u.dev.out) :
    Recorded s u n r := by
  obtain ⟨i, q, p, st, later, earlier, hout, hold⟩ := h
  obtain ⟨more, hmore⟩ := k
  exact ⟨i, q, p, st, more ++ later, earlier, by rw [← hmore, hout, List.append_assoc], hold⟩

/-! Flows changed, with the records this raises. -/

/-- The device with other flows, and with records. -/
def FlowRecordsFrom (d e : Dev) : Prop := ∃ fs rs o n, e = { d with flows := fs, rings := rs, out := o ++ d.out, free := n }

theorem FlowRecordsFrom.refl (d : Dev) : FlowRecordsFrom d d := ⟨d.flows, d.rings, [], d.free, rfl⟩

theorem FlowRecordsFrom.trans {d e g : Dev} (h : FlowRecordsFrom d e) (k : FlowRecordsFrom e g) : FlowRecordsFrom d g := by
  obtain ⟨fs, rs, o, n, rfl⟩ := h
  obtain ⟨fs', rs', o', n', rfl⟩ := k
  exact ⟨fs', rs', o' ++ o, n', by simp⟩

theorem RecordsFrom.flowRecords {d e : Dev} (h : RecordsFrom d e) : FlowRecordsFrom d e := by
  obtain ⟨rs, o, n, rfl⟩ := h
  exact ⟨d.flows, rs, o, n, rfl⟩

theorem Dev.onFlow_flowRecords (d : Dev) (f : Nat) (g : Flow → Flow) : FlowRecordsFrom d (d.onFlow f g) :=
  ⟨_, d.rings, [], d.free, rfl⟩

theorem FlowRecordsFrom.reg {d e : Dev} (h : FlowRecordsFrom d e) (a : Nat) : e.reg a = d.reg a := by
  obtain ⟨fs, rs, o, n, rfl⟩ := h; rfl

theorem FlowRecordsFrom.bit {d e : Dev} (h : FlowRecordsFrom d e) (a i : Nat) : e.bit a i = d.bit a i := by
  rw [Dev.bit, h.reg, Dev.bit]

theorem FlowRecordsFrom.act {d e : Dev} (h : FlowRecordsFrom d e) : e.act = d.act ∧ e.actRx = d.actRx := by
  obtain ⟨fs, rs, o, n, rfl⟩ := h; exact ⟨rfl, rfl⟩

theorem FlowRecordsFrom.sends {d e : Dev} (h : FlowRecordsFrom d e) : d.out <:+ e.out := by
  obtain ⟨fs, rs, o, n, rfl⟩ := h; exact List.suffix_append o d.out

theorem RegsFrom.onlyIn_of_flowRecords {s : State} {d e : Dev} (h : RegsFrom s.dev d) (k : FlowRecordsFrom d e) :
    OnlyIn (.regs :: .flows :: recordParts) s { s with dev := e } := by
  obtain ⟨rg, rfl⟩ := h
  obtain ⟨fs, rs, o, n, rfl⟩ := k
  rfl

/-- A relation that every single operation keeps is kept by the operations one after another. -/
theorem each_rel {α β : Type} {R : β → β → Prop} (hrefl : ∀ d, R d d) (htrans : ∀ {d e g}, R d e → R e g → R d g)
    {f : α → β → β} (h : ∀ x d, R d (f x d)) (xs : List α) (d : β) : R d (each xs f d) := by
  induction xs generalizing d with
  | nil => exact hrefl d
  | cons x xs ih => exact htrans (h x d) (ih (f x d))

/-- At most an exit event and an entry event are raised. -/
theorem defectEvents_records {ev : Nat → Bool → Dev → Dev} (h : ∀ i b d, RecordsFrom d (ev i b d)) (old new : Option Nat)
    (raw : Nat) (d : Dev) : RecordsFrom d (defectEvents old new raw ev d) := by
  have hexit (i : Nat) : RecordsFrom d (if raw.testBit i then d else ev i false d) := .ite (.rfl' d) (h i false d)
  unfold defectEvents
  split
  · exact .rfl' d
  · cases old with
    | none =>
      cases new with
      | none => exact .rfl' d
      | some e => exact h e true d
    | some i =>
      cases new with
      | none => exact hexit i
      | some e => exact (hexit i).trans (h e true _)

theorem Dev.flowDefectEvent_records (d : Dev) (f i : Nat) (entry : Bool) : RecordsFrom d (d.flowDefectEvent f i entry) :=
  .ite (d.record_records _ .event _) (.rfl' d)

theorem Dev.setFlowRaw_flowRecords (d : Dev) (f : Nat) (raw : BitVec 10) : FlowRecordsFrom d (d.setFlowRaw f raw) :=
  (d.onFlow_flowRecords f _).trans
    (defectEvents_records (fun i b d => d.flowDefectEvent_records f i b) _ _ _ _).flowRecords

theorem Dev.flowDefect_flowRecords (d : Dev) (f i : Nat) (b : Bool) : FlowRecordsFrom d (d.flowDefect f i b) := by
  unfold Dev.flowDefect
  split
  · exact d.setFlowRaw_flowRecords f _
  · exact .refl d

/-- SSF that follows its causes changes flows and raises records. -/
theorem State.ssfUpdate_flowRecords (s : State) : FlowRecordsFrom s.dev s.ssfUpdate.dev :=
  each_rel FlowRecordsFrom.refl FlowRecordsFrom.trans (fun f d => by
    dsimp only
    split
    · exact .refl d
    · exact d.flowDefect_flowRecords f 0 _) _ _

/-! A rejected write. -/

/-- What REJ_STAT of a window keeps of a rejected write at `a`. -/
def Dev.noteReject (d : Dev) (win : Window) (a : Nat) : Dev :=
  if d.bit win.rej 0 then d.setBit win.rej 1
  else (d.setBit win.rej 0).setFld win.rej ⟨8, 20⟩ ((a - win.base) / 4)

/-- A reject is noted in its window and recorded. -/
theorem Dev.reject_of_window {a : Nat} {win : Window} (h : windowOf a = some win) (d : Dev) (given : Nat) (w : Word) :
    d.reject a given w = (d.noteReject win a).ownerRecord ⟨.reject, 0, win.die, 0, 0, [given, w.toNat]⟩ := by
  simp only [Dev.reject, h, Dev.noteReject]

theorem Dev.noteReject_first {d : Dev} {win : Window} (h : d.bit win.rej 0 = false) (a : Nat) :
    d.noteReject win a = (d.setBit win.rej 0).setFld win.rej ⟨8, 20⟩ ((a - win.base) / 4) := by
  simp [Dev.noteReject, h]

theorem Dev.noteReject_further {d : Dev} {win : Window} (h : d.bit win.rej 0 = true) (a : Nat) :
    d.noteReject win a = d.setBit win.rej 1 := by
  simp [Dev.noteReject, h]

theorem Dev.noteReject_regsFrom (d : Dev) (win : Window) (a : Nat) : RegsFrom d (d.noteReject win a) := by
  cases h : d.bit win.rej 0 with
  | false => rw [Dev.noteReject_first h]; exact (d.setBit_regsFrom _ 0 true).trans (Dev.setFld_regsFrom _ _ _ _)
  | true => rw [Dev.noteReject_further h]; exact d.setBit_regsFrom _ 1 true

theorem Dev.reg_noteReject_of_ne (d : Dev) (win : Window) (a : Nat) {b : Nat} (hb : b ≠ win.rej) :
    (d.noteReject win a).reg b = d.reg b := by
  cases h : d.bit win.rej 0 with
  | false => rw [Dev.noteReject_first h, Dev.reg_setFld, if_neg hb, Dev.reg_setBit, if_neg hb]
  | true => rw [Dev.noteReject_further h, Dev.reg_setBit, if_neg hb]

theorem Dev.noteReject_rej (d : Dev) (win : Window) (a : Nat) : (d.noteReject win a).bit win.rej 0 = true := by
  cases h : d.bit win.rej 0 with
  | false =>
    rw [Dev.noteReject_first h, Dev.bit_setFld_outside _ _ _ _ _ (by decide), Dev.bit_setBit _ _ _ _ _ (by decide),
      if_pos ⟨rfl, rfl⟩]
  | true => rw [Dev.noteReject_further h, Dev.bit_setBit _ _ _ _ _ (by decide), if_neg (by simp), h]

/-- The word of the first rejected write is kept, and more is left as it was. -/
theorem Dev.noteReject_first_word {d : Dev} {win : Window} (h : d.bit win.rej 0 = false) (a : Nat) :
    (d.noteReject win a).fld win.rej ⟨8, 20⟩ = (a - win.base) / 4 % 2 ^ 20 ∧
      (d.noteReject win a).bit win.rej 1 = d.bit win.rej 1 := by
  rw [Dev.noteReject_first h]
  constructor
  · exact Dev.fld_setFld_same _ _ (by decide) _
  · rw [Dev.bit_setFld_outside _ _ _ _ _ (by decide), Dev.bit_setBit _ _ _ _ _ (by decide), if_neg (by simp)]

/-- A further rejected write sets more, and the word of the first one stands. -/
theorem Dev.noteReject_further_word {d : Dev} {win : Window} (h : d.bit win.rej 0 = true) (a : Nat) :
    (d.noteReject win a).bit win.rej 1 = true ∧ (d.noteReject win a).fld win.rej ⟨8, 20⟩ = d.fld win.rej ⟨8, 20⟩ := by
  rw [Dev.noteReject_further h]
  constructor
  · rw [Dev.bit_setBit _ _ _ _ _ (by decide), if_pos ⟨rfl, rfl⟩]
  · exact Dev.fld_setBit_outside _ _ _ _ (by decide)

theorem exec_registerWrite_rejected {s : State} {m : Master} {a : Addr} {w : Word} {win : Window}
    (hwin : windowOf a.toNat = some win) (h : Rejected s m a.toNat w) :
    exec (.registerWrite m .bar0 a w) s = .next { s with
      dev := (s.dev.noteReject win a.toNat).ownerRecord ⟨.reject, 0, win.die, 0, 0, [a.toNat, w.toNat]⟩ } := by
  calc exec (.registerWrite m .bar0 a w) s
      = .next (s.write0 m a.toNat w) := rfl
    _ = .next (s.on fun d => d.reject a.toNat a.toNat w) := by rw [State.write0_rejected h]
    _ = .next { s with
        dev := (s.dev.noteReject win a.toNat).ownerRecord ⟨.reject, 0, win.die, 0, 0, [a.toNat, w.toNat]⟩ } := by
      rw [State.on, Dev.reject_of_window hwin]

/-- Settles O7: the write ends in the state of `exec_registerWrite_rejected`, where the record leaves every register as
`noteReject` has it. -/
theorem rejectedWriteIsRecorded : Obligations.RejectedWriteIsRecorded := by
  unfold Obligations.RejectedWriteIsRecorded
  intro s m a w win hwin hrej
  have hnote := s.dev.noteReject_regsFrom win a.toNat
  have hrec := (s.dev.noteReject win a.toNat).ownerRecord_records ⟨.reject, 0, win.die, 0, 0, [a.toNat, w.toNat]⟩
  refine ⟨_, exec_registerWrite_rejected hwin hrej, ?_, ?_, hnote.onlyIn_of_records hrec, ?_, ?_, fun hroom =>
    hnote.ownerRecord_recorded hroom _⟩
  · exact (hrec.bit _ _).trans (s.dev.noteReject_rej win a.toNat)
  · intro b hb
    exact (hrec.reg b).trans (s.dev.reg_noteReject_of_ne win a.toNat fun h => hb (List.mem_singleton.2 h))
  · intro hfirst
    obtain ⟨hword, hmore⟩ := Dev.noteReject_first_word hfirst a.toNat
    exact ⟨(hrec.fld _ _).trans hword, (hrec.bit _ _).trans hmore⟩
  · intro hfurther
    obtain ⟨hmore, hword⟩ := Dev.noteReject_further_word hfurther a.toNat
    exact ⟨(hrec.bit _ _).trans hmore, (hrec.fld _ _).trans hword⟩

/-! A refused commit. -/

/-- CLUS_CMT of a cluster whose commit is refused: the request has ended and refused is set. -/
def Dev.noteRefusal (d : Dev) (k : Cluster) : Dev := (d.setFld (cmtAddr k) ⟨0, 2⟩ 0).setBit (cmtAddr k) 2

theorem Dev.commitRefused_eq (d : Dev) (k : Cluster) :
    d.commitRefused k = (d.noteRefusal k).ownerRecord ⟨.other .commitRefused, 0, clusterDie k, 0, clusterCode k, []⟩ := rfl

theorem Dev.noteRefusal_regsFrom (d : Dev) (k : Cluster) : RegsFrom d (d.noteRefusal k) :=
  (d.setFld_regsFrom _ _ 0).trans (Dev.setBit_regsFrom _ _ 2 true)

theorem Dev.reg_noteRefusal_of_ne (d : Dev) (k : Cluster) {b : Nat} (hb : b ≠ cmtAddr k) :
    (d.noteRefusal k).reg b = d.reg b := by
  rw [Dev.noteRefusal, Dev.reg_setBit, if_neg hb, Dev.reg_setFld, if_neg hb]

theorem Dev.noteRefusal_refused (d : Dev) (k : Cluster) : (d.noteRefusal k).bit (cmtAddr k) 2 = true := by
  rw [Dev.noteRefusal, Dev.bit_setBit _ _ _ _ _ (by decide), if_pos ⟨rfl, rfl⟩]

theorem Dev.noteRefusal_ends_request (d : Dev) (k : Cluster) : (d.noteRefusal k).bit (cmtAddr k) 1 = false := by
  rw [Dev.noteRefusal, Dev.bit_setBit _ _ _ _ _ (by decide), if_neg (by simp), Dev.bit_setFld_zero _ _ _ _ (by decide)]

/-- A pending commit of a cluster that is not in reset, and that has taken nothing yet, is refused where its check fails. -/
theorem Dev.boundary_refused {d : Dev} {k : Cluster} (hpending : d.cmtPending k = true)
    (hreset : (d.cluster (clusterCode k)).reset = false) (htx : (d.cluster (clusterCode k)).txDone = false)
    (hrx : (d.cluster (clusterCode k)).rxDone = false) (hdue : (d.cluster (clusterCode k)).due = false)
    (hcheck : d.check [k] k false = false) (side : Side) : d.boundary k side = d.commitRefused k := by
  simp [Dev.boundary, hpending, hreset, htx, hrx, hdue, hcheck]

/-- Settles O13: the boundary is `commitRefused`, a register write and a record, after which SSF follows its causes: that touches flows
and sends more records, no register and no active copy. -/
theorem commitCheckRefuses : Obligations.CommitCheckRefuses := by
  unfold Obligations.CommitCheckRefuses
  intro s k side hpending hreset htx hrx hdue hcheck
  have hexec : exec (.commitBoundary k side) s = .next (s.on fun d => d.commitRefused k).ssfUpdate := by
    calc exec (.commitBoundary k side) s
        = .next (s.on fun d => d.boundary k side).ssfUpdate := rfl
      _ = .next (s.on fun d => d.commitRefused k).ssfUpdate := by
        rw [State.on, Dev.boundary_refused hpending hreset htx hrx hdue hcheck, State.on]
  have hnote := s.dev.noteRefusal_regsFrom k
  have hssf : FlowRecordsFrom (s.dev.commitRefused k) (s.on fun d => d.commitRefused k).ssfUpdate.dev :=
    State.ssfUpdate_flowRecords _
  have hall : FlowRecordsFrom (s.dev.noteRefusal k) (s.on fun d => d.commitRefused k).ssfUpdate.dev :=
    (Dev.ownerRecord_records _ _).flowRecords.trans hssf
  obtain ⟨hact, hactRx⟩ := hall.act
  refine ⟨_, hexec, hact, hactRx, (hall.bit _ _).trans (s.dev.noteRefusal_refused k),
    (hall.bit _ _).trans (s.dev.noteRefusal_ends_request k), ?_, hnote.onlyIn_of_flowRecords hall, fun hroom =>
    (hnote.ownerRecord_recorded hroom _).of_suffix hssf.sends⟩
  intro b hb
  exact (hall.reg b).trans (s.dev.reg_noteRefusal_of_ne k fun h => hb (List.mem_singleton.2 h))

end Sys2Proof.Machine
end

section
/-!
PROOFS. The arm of a transmit swap (R73 to R75): what the page check reads, what an arm that passes and one that is turned away write,
and the statement about them.
-/
namespace Sys2Proof.Machine
open RegMap

/-! A bit set to what it was. -/

theorem Fld.setBit_self (w : Word) {i : Nat} (hi : i < 32) : Fld.set ⟨i, 1⟩ (w.getLsbD i).toNat w = w := by
  apply BitVec.eq_of_getLsbD_eq
  intro j _
  rw [Fld.getLsbD_setBit i j hi]
  split
  · next h => rw [h]
  · rfl

theorem Dev.reg_setBit_self (d : Dev) (a b : Nat) {i : Nat} (hi : i < 32) : (d.setBit a i (d.bit a i)).reg b = d.reg b := by
  rw [Dev.reg_setBit, Dev.bit, Fld.setBit_self _ hi]
  split
  · next h => rw [h]
  · rfl

/-! Registers written, in the terms of the claims. -/

theorem RegsFrom.onlyIn {s : State} {e : Dev} (h : RegsFrom s.dev e) : OnlyIn [.regs] s { s with dev := e } := by
  obtain ⟨rg, rfl⟩ := h
  rfl

/-! The page check reads registers, and no more of how they are kept. -/

/-- The device with its registers kept otherwise, where every register reads as before. -/
def SameRegs (d e : Dev) : Prop := RegsFrom d e ∧ ∀ a, e.reg a = d.reg a

theorem SameRegs.cWord {d e : Dev} (h : SameRegs d e) (ks : List Cluster) (c a : Nat) : e.cWord ks c a = d.cWord ks c a := by
  obtain ⟨⟨rg, rfl⟩, hreg⟩ := h
  rw [Dev.cWord, Dev.cWord, hreg]
  rfl

theorem SameRegs.cPlan {d e : Dev} (h : SameRegs d e) (ks : List Cluster) (c : Nat) : e.cPlan ks c = d.cPlan ks c := by
  simp only [Dev.cPlan, h.cWord]

theorem SameRegs.targetSlots {d e : Dev} (h : SameRegs d e) (ks : List Cluster) (c : Nat) :
    e.targetSlots ks c = d.targetSlots ks c := by
  rw [Dev.targetSlots, h.cPlan, Dev.targetSlots]

theorem SameRegs.dueClusters {d e : Dev} (h : SameRegs d e) : e.dueClusters = d.dueClusters := by
  obtain ⟨⟨rg, rfl⟩, -⟩ := h
  rfl

theorem SameRegs.targetFlow {d e : Dev} (h : SameRegs d e) (f : Nat) : e.targetFlow f = d.targetFlow f := by
  obtain ⟨⟨rg, rfl⟩, -⟩ := h
  rfl

theorem SameRegs.standby {d e : Dev} (h : SameRegs d e) (rx : Bool) : e.standby rx = d.standby rx := by
  rw [Dev.standby, Dev.actPage, Dev.fld, h.2, Dev.standby, Dev.actPage, Dev.fld]

theorem SameRegs.pageCheck {s : State} {e : Dev} (h : SameRegs s.dev e) (page : Nat) (rx : Bool) (ks : List Cluster) :
    { s with dev := e }.pageCheck page rx ks = s.pageCheck page rx ks := by
  simp only [State.pageCheck, h.targetSlots, h.dueClusters, h.targetFlow]

/-! The two conditions of an arm (R75). -/

/-- The check of the standby transmit page fails. -/
def State.armFails (s : State) : Bool := !s.pageCheck (s.dev.standby false) false

/-- The lead is out of range. -/
def State.armLate (s : State) : Bool := !leadOk 16 (s.dev.reg aSwTgt) (s.dev.reg aTxOmf)

theorem SameRegs.armFails {s : State} {e : Dev} (h : SameRegs s.dev e) : { s with dev := e }.armFails = s.armFails := by
  simp only [State.armFails, h.standby, h.pageCheck]

theorem SameRegs.armLate {s : State} {e : Dev} (h : SameRegs s.dev e) : { s with dev := e }.armLate = s.armLate := by
  simp only [State.armLate, h.2]

/-- SW_STAT of an arm that is turned away: refused and late, each for its own condition. -/
def Dev.noteArm (d : Dev) (fails late : Bool) : Dev :=
  let d1 := if fails then d.setBit aSwStat 2 else d
  if late then d1.setBit aSwStat 3 else d1

theorem State.swapArm_of_passes {s : State} (hf : s.armFails = false) (hl : s.armLate = false) :
    s.swapArm = s.on fun d => d.setBit aSwCtrl 0 := by
  unfold State.armFails at hf
  unfold State.armLate at hl
  simp only [State.swapArm, hf, hl, Bool.false_eq_true, Bool.or_self, if_false]

theorem State.swapArm_of_turned_away {s : State} (h : s.armFails = true ∨ s.armLate = true) :
    s.swapArm = s.on fun d => (d.noteArm s.armFails s.armLate).event (if s.armFails then .swapRefused else .swapLate) 12 0 := by
  have hor : (s.armFails || s.armLate) = true := by rwa [Bool.or_eq_true]
  unfold State.armFails State.armLate at hor
  simp only [State.swapArm, hor, if_true]
  rfl

/-! What is noted of an arm that is turned away. -/

theorem Dev.noteArm_regsFrom (d : Dev) (fails late : Bool) : RegsFrom d (d.noteArm fails late) := by
  cases fails <;> cases late <;> exact ⟨_, rfl⟩

theorem Dev.reg_noteArm_of_ne (d : Dev) (fails late : Bool) {b : Nat} (hb : b ≠ aSwStat) :
    (d.noteArm fails late).reg b = d.reg b := by
  cases fails <;> cases late <;> simp [Dev.noteArm, hb]

theorem Dev.noteArm_refused (d : Dev) (fails late : Bool) :
    (d.noteArm fails late).bit aSwStat 2 = (d.bit aSwStat 2 || fails) := by
  cases fails <;> cases late <;> simp [Dev.noteArm, Dev.bit_setBit]

theorem Dev.noteArm_late (d : Dev) (fails late : Bool) :
    (d.noteArm fails late).bit aSwStat 3 = (d.bit aSwStat 3 || late) := by
  cases fails <;> cases late <;> simp [Dev.noteArm, Dev.bit_setBit]

/-! The command. -/

/-- host_own written as it stands, which every arm does. -/
def Dev.rewriteHostOwn (d : Dev) : Dev := d.setBit aSwCtrl 2 (d.bit aSwCtrl 2)

theorem Dev.rewriteHostOwn_sameRegs (d : Dev) : SameRegs d d.rewriteHostOwn :=
  ⟨d.setBit_regsFrom aSwCtrl 2 _, fun b => d.reg_setBit_self aSwCtrl b (by decide)⟩

/-- SW_CTRL written with arm set, and with host_own as it stands. -/
theorem State.swCtrlWritten_of_arm {s : State} {w : Word} (harm : w.getLsbD 0 = true) (hown : w.getLsbD 2 = s.dev.bit aSwCtrl 2) :
    s.swCtrlWritten w = (s.on Dev.rewriteHostOwn).swapArm := by
  simp only [State.swCtrlWritten, harm, hown, if_true, State.on, Dev.rewriteHostOwn]

theorem find_swCtrl {e : RegDesc} {is : List Nat} (h : find table aSwCtrl = some (e, is)) : e.id = .swCtrl := by
  have hid : ((find table aSwCtrl).map fun q => q.1.id) = some .swCtrl := by decide +kernel
  rw [h] at hid
  exact Option.some.inj hid

theorem exec_swapArm_accepted {s : State} {m : Master} (h : Accepted s m aSwCtrl ((s.dev.reg aSwCtrl &&& 4) ||| 1)) :
    exec (.swapArm m) s = .next (s.on Dev.rewriteHostOwn).swapArm := by
  obtain ⟨e, is, hreach, -, hwritten⟩ := State.write0_accepted h
  obtain ⟨-, -, hfind, -, -⟩ := State.reaches_spec hreach
  have harm : ((s.dev.reg aSwCtrl &&& 4) ||| 1).getLsbD 0 = true := by simp
  have hown : ((s.dev.reg aSwCtrl &&& 4) ||| 1).getLsbD 2 = s.dev.bit aSwCtrl 2 := by simp [Dev.bit]
  calc exec (.swapArm m) s
      = .next (s.write0 m aSwCtrl ((s.dev.reg aSwCtrl &&& 4) ||| 1)) := rfl
    _ = .next (s.swCtrlWritten ((s.dev.reg aSwCtrl &&& 4) ||| 1)) := by
      rw [hwritten]; simp only [State.written, find_swCtrl hfind]
    _ = .next (s.on Dev.rewriteHostOwn).swapArm := by
      rw [State.swCtrlWritten_of_arm harm hown]

theorem exec_swapArm_passes {s : State} {m : Master} (h : Accepted s m aSwCtrl ((s.dev.reg aSwCtrl &&& 4) ||| 1))
    (hf : s.armFails = false) (hl : s.armLate = false) :
    exec (.swapArm m) s = .next { s with dev := s.dev.rewriteHostOwn.setBit aSwCtrl 0 } := by
  have hsame := s.dev.rewriteHostOwn_sameRegs
  rw [exec_swapArm_accepted h, State.on, State.swapArm_of_passes (hsame.armFails.trans hf) (hsame.armLate.trans hl), State.on]

theorem exec_swapArm_turned_away {s : State} {m : Master} (h : Accepted s m aSwCtrl ((s.dev.reg aSwCtrl &&& 4) ||| 1))
    (hbad : s.armFails = true ∨ s.armLate = true) :
    exec (.swapArm m) s = .next { s with
      dev := (s.dev.rewriteHostOwn.noteArm s.armFails s.armLate).event
        (if s.armFails then .swapRefused else .swapLate) 12 0 } := by
  have hsame := s.dev.rewriteHostOwn_sameRegs
  rw [← hsame.armFails, ← hsame.armLate] at hbad
  rw [exec_swapArm_accepted h, State.on, State.swapArm_of_turned_away hbad, State.on, hsame.armFails, hsame.armLate]

/-! The statement, for each outcome of the two conditions. -/

theorem armPasses_runs {s : State} {m : Master} (h : Accepted s m aSwCtrl ((s.dev.reg aSwCtrl &&& 4) ||| 1))
    (hf : s.armFails = false) (hl : s.armLate = false) :
    Runs (.swapArm m) s fun t =>
      t.conn = s.conn ∧ t.dev.bit aSwCtrl 0 = true ∧ RegsBut [aSwCtrl] s t ∧ OnlyIn [.regs] s t := by
  obtain ⟨hregs, hreg⟩ := s.dev.rewriteHostOwn_sameRegs
  refine ⟨_, exec_swapArm_passes h hf hl, rfl, ?_, ?_, (hregs.trans (Dev.setBit_regsFrom _ _ _ _)).onlyIn⟩
  · rw [Dev.bit_setBit _ _ _ _ _ (by decide), if_pos ⟨rfl, rfl⟩]
  · intro a ha
    rw [Dev.reg_setBit, if_neg fun h => ha (List.mem_singleton.2 h), hreg]

theorem armTurnedAway_runs {s : State} {m : Master} (h : Accepted s m aSwCtrl ((s.dev.reg aSwCtrl &&& 4) ||| 1))
    (hbad : s.armFails = true ∨ s.armLate = true) :
    Runs (.swapArm m) s fun t =>
      t.conn = s.conn ∧ t.dev.bit aSwStat 2 = (s.dev.bit aSwStat 2 || s.armFails) ∧
      t.dev.bit aSwStat 3 = (s.dev.bit aSwStat 3 || s.armLate) ∧
      RegsBut [aSwStat] s t ∧ OnlyIn (.regs :: recordParts) s t ∧
      (EventRoom s 0 → ∃ why, Recorded s t 0 ⟨.other why, 0, 12, 0, 0, []⟩) := by
  obtain ⟨hregs, hreg⟩ := s.dev.rewriteHostOwn_sameRegs
  have hnote := hregs.trans (s.dev.rewriteHostOwn.noteArm_regsFrom s.armFails s.armLate)
  have hrec := (s.dev.rewriteHostOwn.noteArm s.armFails s.armLate).event_records
    (if s.armFails then .swapRefused else .swapLate) 12 0 []
  have hbit (i : Nat) : s.dev.rewriteHostOwn.bit aSwStat i = s.dev.bit aSwStat i := by rw [Dev.bit, hreg, Dev.bit]
  refine ⟨_, exec_swapArm_turned_away h hbad, rfl, ?_, ?_, ?_, hnote.onlyIn_of_records hrec, fun hroom =>
    ⟨_, hnote.ownerRecord_recorded hroom _⟩⟩
  · exact (hrec.bit _ _).trans (by rw [Dev.noteArm_refused, hbit])
  · exact (hrec.bit _ _).trans (by rw [Dev.noteArm_late, hbit])
  · intro a ha
    exact (hrec.reg a).trans (by rw [Dev.reg_noteArm_of_ne _ _ _ fun h => ha (List.mem_singleton.2 h), hreg])

/-- Settles O19: an arm passes or is turned away, `armPasses_runs` and `armTurnedAway_runs`; each is about one of the two clauses and
contradicts what the other one asks (R75). -/
theorem armIsCheckedAtOnce : Obligations.ArmIsCheckedAtOnce := by
  unfold Obligations.ArmIsCheckedAtOnce
  intro s m hacc
  have hfails : (s.pageCheck (s.dev.standby false) false = false) = (s.armFails = true) := by simp [State.armFails]
  have hlate : (leadOk 16 (s.dev.reg aSwTgt) (s.dev.reg aTxOmf) = false) = (s.armLate = true) := by simp [State.armLate]
  rw [hfails, hlate]
  by_cases hbad : s.armFails = true ∨ s.armLate = true
  · obtain ⟨t, ht, hconn, haway⟩ := armTurnedAway_runs hacc hbad
    refine ⟨t, ht, hconn, fun hpage hlead => ?_, fun _ => haway⟩
    simp [State.armFails, State.armLate, hpage, hlead] at hbad
  · obtain ⟨hf, hl⟩ := not_or.1 hbad
    obtain ⟨t, ht, hconn, hpass⟩ := armPasses_runs hacc (Bool.not_eq_true _ ▸ hf) (Bool.not_eq_true _ ▸ hl)
    exact ⟨t, ht, hconn, fun _ _ => hpass, fun h => absurd h hbad⟩

end Sys2Proof.Machine
end
